-- ==== Sys2Proof/Word.lean ====
section
/-! DEFINITION. The plain words of the part: bytes, samples, stamps and object numbers (spec/00_scope.md, Conventions).
Arithmetic on them stands in Machine/Arith.lean. -/

namespace Sys2Proof

/-- One byte on the control link. -/
abbrev Byte := BitVec 8

/-- One 16-bit slot value of an audio port, or one word of prompt memory. -/
abbrev Word16 := BitVec 16

/-- A sample inside the part. The spec's arithmetic is exact integer arithmetic, narrowed where it says saturate. -/
abbrev Sample := Int

/-- The 32-bit frame counter and the stamps taken from it; it wraps modulo 2^32. -/
abbrev Stamp := BitVec 32

/-- A call leg L0..L23. -/
abbrev Leg := Fin 24

/-- An agent position P0..P15. -/
abbrev Position := Fin 16

/-- A music source M0..M3. -/
abbrev Source := Fin 4

/-- A conference group G0..G15. -/
abbrev Group := Fin 16

/-- A prompt-memory area A0..A3. -/
abbrev AreaNo := Fin 4

/-- A prompt handle 0..127. -/
abbrev Handle := Fin 128

/-- A network slot 0..31. -/
abbrev NetSlot := Fin 32

end Sys2Proof
end

