-- ==== Sys2Proof/Syntax.lean ====
section
/-! DEFINITION. The commands: one constructor for each row of spec/opcode_table.json, in the table's order.
A request row is the EXECUTION of the request frame at the head of the request queue (R195): its fields stand in that
frame, which WRITE_TRANSFER delivered, so the constructor carries no field of its own.  A row that reads an input
(a pin, a slot, the memory bus, the link) carries that input. -/

namespace Sys2Proof

/-- The levels of the four strap pins (R203). -/
structure Straps where
  pos1 : Bool
  pos0 : Bool
  test : Bool
  scan : Bool
  deriving DecidableEq, Repr

inductive Instr
  | powerOn
  | resetnAssert
  /-- RESETN released, or power stable, with these levels on the strap pins. -/
  | resetRelease (pins : Straps)
  /-- The running self-test phase completes, with or without a fault found. -/
  | selftestPhaseEnd (fault : Bool)
  /-- One selection of the link in which the host clocks these bytes, the lead byte first. -/
  | writeTransfer (bytes : List Byte)
  | readTransfer
  | badRequest
  | identify
  | status
  | start
  | stop
  /-- RESET executed with these levels on the strap pins. -/
  | reset (pins : Straps)
  | linkStatus
  | legOpen
  | legClose
  | groupAdd
  | groupRemove
  | hold
  | resume
  | mute
  | supervise
  | unsupervise
  | positionSet
  | sendGain
  | legQuery
  | positionQuery
  | groupQuery
  | echoSet
  | echoTail
  | echoReset
  | echoQuery
  | micSet
  | quietMask
  | micQuery
  | sourceSet
  | sourceStart
  | sourceStop
  | streamData
  | sourceQuery
  | promptQueue
  | promptCancel
  | promptDrain
  | classMap
  | promptQuery
  | areaSet
  | reindex
  | clipDeclare
  | clipForget
  | clipLookup
  | faultRead
  | budgetSet
  | budgetQuery
  | stageMode
  | apply
  | discard
  | stageQuery
  | portTest
  | portTestRead
  | portTestStop
  | syncQuery
  | applyEdge
  /-- An NSYNC pulse this long after the start of the period in progress, in quarter microseconds (31.25 µs is 125). -/
  | nsyncPulse (since : Nat)
  | syncRelock
  | syncLoss
  | flywheelPeriod
  | internalMark
  /-- The slot values on NRX and HRX in the marked period. -/
  | samplePeriod (net : Vector Word16 32) (head : Vector Word16 16)
  /-- Words delivered on PD to the read in progress, in address order. -/
  | fetchRead (words : List Word16)
  | wordReadTimeout
  /-- The frame start, with the level of the QUIET input there. -/
  | frameStart (quiet : Bool)
  | adaptStarved (leg : Leg)
  | dtHangoverExpiry (leg : Leg)
  | callerHangoverExpiry (leg : Leg)
  | divergenceReset (leg : Leg)
  | vadHangoverExpiry (pos : Position)
  | toneCadenceWrap (source : Source)
  | promptExpire (handle : Handle)
  /-- The read transfer ends, this many bytes of the outgoing frame having been clocked out whole. -/
  | readTransferEnd (clocked : Nat)
  deriving DecidableEq, Repr

end Sys2Proof
end

