-- ==== Sys2Proof/Decode.lean ====
section
/-! DEFINITION. The command a word spells.  spec/opcode_table.json gives no row any bits (every "fields" is empty and no
row has "fixed"), so no word spells a command. The bytes of a request frame are read by Machine/Link.lean (R192, R214). -/

namespace Sys2Proof

/-- No row of the table gives bits, so every word is none. -/
def decodeTableWord (_nbits _w : Nat) : Option Instr := none

end Sys2Proof
end

