-- ==== Sys2Proof/Config.lean ====
section
/-! DEFINITION. What the manual fixes as a number, and the free values it leaves to the part.
The free values are opaque constants: nothing can evaluate one or prove a value of it. -/

namespace Sys2Proof

/-- FREE VALUE (R168): the order in which classes that apply at one frame start are applied, as a shuffle code. -/
opaque Config.classOrder : Nat → Nat

/-- FREE VALUE (R200): the order in which notices new to the queue join its tail when no chapter gives it. -/
opaque Config.noticeOrder : Nat → Nat

/-- FREE VALUE (R135): whether a position's selection is taken after the scan's landing step of the same frame start. -/
opaque Config.selectsAfterScan : Nat → Nat → Bool

/-- FREE VALUE (R203): whether RESETN asserted while the part is still held by power-on is reported as POWER_ON. -/
opaque Config.powerOnOutlastsPin : Nat → Bool

/-- The samples of one frame (spec/00_scope.md). -/
def Config.frameLen : Nat := 64

/-- The values a leg's reference history holds (R37). -/
def Config.historyLen : Nat := 1536

/-- The values kept of a leg's transmitted signal: the history and the 63 values that left it during the frame
interval, which the windows of the frame's early samples still reach (R38; notes/assumptions/8.md). -/
def Config.keptLen : Nat := 1599

/-- The work units of one frame (R145). -/
def Config.frameUnits : Nat := 2560

/-- The mixing reserve in work units (R145). -/
def Config.mixReserve : Nat := 64

/-- The charge of an enabled position in work units (R145). -/
def Config.positionCost : Nat := 24

end Sys2Proof
end

