-- ==== Sys2Proof/Machine/Arith.lean ====
section
/-! DEFINITION. The arithmetic words of spec/00_scope.md, sums over windows, orderings, and maps over fixed tables. -/

namespace Sys2Proof.Machine

/-- saturate: clamp to −32768..32767. -/
def saturate (x : Int) : Int := max (-32768) (min 32767 x)

/-- clamp32: clamp to −2^31..2^31−1. -/
def clamp32 (x : Int) : Int := max (-2147483648) (min 2147483647 x)

/-- clamp a request value to a stated range. -/
def clampTo (lo hi x : Nat) : Nat := max lo (min hi x)

/-- clamp a signed request value to a stated range. -/
def clampInt (lo hi x : Int) : Int := max lo (min hi x)

/-- A gain field above 32768 is taken as 32768. -/
def clampGain (x : Nat) : Nat := min 32768 x

/-- round down to the step. -/
def roundDownTo (step x : Nat) : Nat := x / step * step

/-- x / 2^k rounded half up: add half the divisor, then take the floor. -/
def roundShift (k : Nat) (x : Int) : Int := (x + 2 ^ (k - 1)) / 2 ^ k

/-- A count that holds at its top value. -/
def satInc (top n : Nat) : Nat := if n < top then n + 1 else top

/-- A count that falls to 0 and stays there. -/
def countDown (n : Nat) : Nat := n - 1

/-- The exact sum of a list. -/
def total (l : List Int) : Int := l.foldl (· + ·) 0

/-- The exact sum of products of two lists, term by term. -/
def dot (xs ys : List Int) : Int := total (List.zipWith (· * ·) xs ys)

/-- The exact sum of squares. -/
def energy (l : List Int) : Nat := l.foldl (fun acc x => acc + x.natAbs * x.natAbs) 0

/-- The greatest magnitude in a list. -/
def peak (l : List Int) : Nat := l.foldl (fun acc x => max acc x.natAbs) 0

/-- The first n values of a list, completed with zeros. -/
def padTo (n : Nat) (l : List Int) : List Int := l.take n ++ List.replicate (n - l.length) 0

/-- A frame of zeros. -/
def silence : List Int := List.replicate Config.frameLen 0

/-- Puts x before the element at place i, or last. -/
def insertAt {α : Type} : Nat → α → List α → List α
  | _, x, [] => [x]
  | 0, x, y :: ys => x :: y :: ys
  | i + 1, x, y :: ys => y :: insertAt i x ys

/-- The order of a list that a code picks; every order of the list is picked by some code. -/
def shuffle {α : Type} : Nat → List α → List α
  | _, [] => []
  | code, x :: xs => insertAt (code % (xs.length + 1)) x (shuffle (code / (xs.length + 1)) xs)

/-- Applies f to every entry of a fixed table. -/
def vmap {α β : Type} {n : Nat} (f : α → β) (v : Vector α n) : Vector β n := ⟨⟨v.toList.map f⟩, by simp⟩

/-- The fixed table whose entry i is f i. -/
def vgen {β : Type} (n : Nat) (f : Fin n → β) : Vector β n := ⟨⟨(List.finRange n).map f⟩, by simp⟩

/-- How many entries of a fixed table satisfy p. -/
def vcount {α : Type} {n : Nat} (p : α → Bool) (v : Vector α n) : Nat := (v.toList.filter p).length

/-- The number a byte read from a request names, where it lies below the count of objects. -/
def object (n k : Nat) : Option (Fin n) := if h : k < n then some ⟨k, h⟩ else none

end Sys2Proof.Machine
end

