-- ==== Sys2Proof/Machine/State.lean ====
section
/-! DEFINITION. The state of the part as plain data, block by block (spec/00_scope.md, Blocks), and its value after reset.
Every field cites the rule that names it.  Two fields of State are the model's own: pending (the commands waiting) and
draws (the counter the free values are read with). -/

namespace Sys2Proof.Machine

/-! ## Names the spec lists (each in the order it is written, which R213 makes its code) -/

/-- R202. -/
inductive PartState | selftest | failed | standby | running
  deriving DecidableEq, Repr

/-- R203: the source of the last reset. -/
inductive ResetCause | powerOn | pin | request
  deriving DecidableEq, Repr

/-- R202, R215: the cause of entry that PART_STATE carries. -/
inductive EntryCause | reset (c : ResetCause) | stop
  deriving DecidableEq, Repr

/-- R180. -/
inductive SyncState | locked | seeking | lost
  deriving DecidableEq, Repr

/-- R1. -/
inductive LegState | closed | opened | held
  deriving DecidableEq, Repr

/-- R3. -/
inductive Role | agent | supervisor
  deriving DecidableEq, Repr

/-- R5. -/
inductive SupMode | monitor | whisper | barge
  deriving DecidableEq, Repr

/-- R4: a member of a group, also the target of SEND_GAIN. -/
inductive Member | leg (l : Leg) | pos (p : Position)
  deriving DecidableEq, Repr

/-- R82. -/
inductive SourceKind | stream | clip | tone
  deriving DecidableEq, Repr

/-- R82. -/
inductive SourceState | stopped | priming | playing | starved
  deriving DecidableEq, Repr

/-- R85, R89, R90: the cause SOURCE_STARVED carries. -/
inductive StarveCause | underrun | late | fault
  deriving DecidableEq, Repr

/-- R124. -/
inductive Rate | khz16 | khz8
  deriving DecidableEq, Repr

/-- R82, R102: the two outputs an 8 kHz clip sample gives. -/
inductive Phase | first | second
  deriving DecidableEq, Repr

/-- R98. -/
inductive StartCond | now | gap
  deriving DecidableEq, Repr

/-- R98, R104. -/
inductive PromptState | pending | priming | playing | done
  deriving DecidableEq, Repr

/-- R98. -/
inductive PromptResult | complete | cancelled | expired | preempted | notFound | clipFault
  deriving DecidableEq, Repr

/-- R126. -/
inductive Origin | catalogue | declared
  deriving DecidableEq, Repr

/-- R128. -/
inductive Requester | prompt (p : Position) | source (m : Source) | scan
  deriving DecidableEq, Repr

/-- R162. -/
inductive ChangeClass | routing | levels | echo
  deriving DecidableEq, Repr

/-- R184. -/
inductive TestState | off | seeking | locked
  deriving DecidableEq, Repr

/-- R184. -/
inductive TestDir | tx | rx | both
  deriving DecidableEq, Repr

/-- R184. -/
inductive Port | network | headset
  deriving DecidableEq, Repr

/-- R196, with the codes 0 to 10 in this order. -/
inductive ResultCode
  | ok | accepted | badRequest | badLength | badValue | noObject | wrongState | full | busy | noBudget | conflict
  deriving DecidableEq, Repr

/-- R178: what marked the period in progress. A pulse and a flywheel mark are made while LOCKED, an internal mark while
SEEKING or LOST. -/
inductive MarkKind | pulse | flywheel | internal
  deriving DecidableEq, Repr

/-- R178, R183: how the frame ended whose frame start is due: after period 63, or as a relock frame in period j. -/
inductive FrameEnd | whole | relock (j : Nat)
  deriving DecidableEq, Repr

/-! ## Link controller (R191 to R201) -/

/-- R192: a whole request frame. -/
structure Request where
  kind : Byte
  tag : Byte
  body : List Byte
  deriving DecidableEq, Repr

/-- R196, R214: a queued reply; the body here is what follows the result code. -/
structure Reply where
  kind : Byte
  tag : Byte
  result : ResultCode
  body : List Byte
  deriving DecidableEq, Repr

/-- R133: the five counts of a scan. -/
structure ScanCounts where
  indexed : Nat
  duplicate : Nat
  full : Nat
  range : Nat
  aborted : Nat
  deriving DecidableEq, Repr

/-- R199, R215: what a notice reports; its kind is the constructor. -/
inductive Detail
  | partState (state : PartState) (progress : Nat) (cause : EntryCause)
  | sync (state : SyncState) (slips losses : Nat)
  | fault (area : AreaNo) (requester : Requester)
  | reindexDone (counts : ScanCounts)
  | applied (applied discarded : Nat) (tag : Option Byte)
  | promptDone (length : Nat)
  | sourceStarved (cause : StarveCause)
  | streamLow (fill : Nat)
  | adaptStarved (debt tail : Nat)
  | divergenceReset (count : Nat)
  | testState (state : TestState) (passes errors : Nat)
  deriving DecidableEq, Repr

/-- R200: an entry of the notice queue. -/
structure Notice where
  subject : Nat
  count : Nat
  stamp : Stamp
  detail : Detail
  deriving DecidableEq, Repr

/-- R197: which frame a read transfer is sending. -/
inductive Outgoing | reply | notice | nothing
  deriving DecidableEq, Repr

/-- R201: a read transfer in progress: the bytes as they stood when the first was clocked out, and the raises of the
notice being sent taken since. -/
structure ReadInProgress where
  what : Outgoing
  bytes : List Byte
  raises : Nat
  deriving DecidableEq, Repr

/-- R193, R194, R197, R200: the link controller's queues and error counts. -/
structure Link where
  requests : List Request
  replies : List Reply
  notices : List Notice
  reading : Option ReadInProgress
  badCheck : Nat
  badLength : Nat
  short : Nat
  overrun : Nat
  deriving DecidableEq, Repr

/-! ## Ports and frame clock (R175 to R190) -/

/-- R180: the sync record. -/
structure Sync where
  state : SyncState
  seeking : Nat
  slips : Nat
  losses : Nat
  deriving DecidableEq, Repr

/-- R178, R183: the frame clock. carried says that the period in progress has had its SAMPLE_PERIOD; prolonged that a
relock prolongs it; due that a frame has ended and its FRAME_START has not been taken. -/
structure Clock where
  period : Nat
  mark : MarkKind
  carried : Bool
  prolonged : Bool
  due : Option FrameEnd
  deriving DecidableEq, Repr

/-- R184: a port test record. -/
structure PortTest where
  state : TestState
  slot : Nat
  dir : TestDir
  pattern : List Sample
  txIndex : Nat
  expected : Option Nat
  passes : Nat
  errors : Nat
  deriving DecidableEq, Repr

/-- R7, R176, R177: the formed frames being transmitted (one list of 64 samples a slot), the values received so far in
the frame interval (one entry a period, oldest first), and the values on NTX and HTX in the last carried period
(none: not driven).  A test acts from the sample period after its request (R187, R189): netHeld and headHeld hold the record
that governs the period in progress where a request has changed the port's record within it (notes/assumptions/27.md). -/
structure Ports where
  netTest : PortTest
  headTest : PortTest
  netHeld : Option PortTest
  headHeld : Option PortTest
  netTx : Vector (List Sample) 32
  headTx : Vector (List Sample) 16
  netRx : List (Vector Sample 32)
  headRx : List (Vector Sample 16)
  ntx : Option (Vector Sample 32)
  htx : Option (Vector Sample 16)
  deriving DecidableEq, Repr

/-! ## Legs (R1, R34, R150) -/

/-- R34: the canceller record. history holds Config.keptLen values, newest first; the first 1536 are R37's reference
history (notes/assumptions/8.md). -/
structure Canceller where
  taps : List Int
  history : List Sample
  hangover : Nat
  divergence : Nat
  callerHangover : Nat
  callerActive : Bool
  lastPower : Nat
  ed : Nat
  er : Nat
  ex : Nat
  doubleTalk : Bool
  nlpApplied : Bool
  framesAdapted : BitVec 32
  divergenceResets : Nat
  deriving DecidableEq, Repr

/-- R150, R161: the work scheduler's fields of a leg; eligible is the judgement of the last service. -/
structure LegWork where
  debt : Nat
  armed : Bool
  granted : Bool
  eligible : Bool
  deriving DecidableEq, Repr

/-- R1: a leg record, with its canceller and its scheduler fields. -/
structure LegRec where
  state : LegState
  slot : Option NetSlot
  sendGain : Nat
  group : Option Group
  source : Option Source
  ramp : Nat
  closing : Bool
  tail : Nat
  bulk : Nat
  shift : Nat
  nlp : Bool
  ec : Canceller
  work : LegWork
  deriving DecidableEq, Repr

/-! ## Positions (R3, R58, R101 to R103) -/

/-- One value for each of the four bands (R62). -/
structure Bands (α : Type) where
  b1 : α
  b2 : α
  b3 : α
  b4 : α
  deriving DecidableEq, Repr

/-- R58: the microphone record, but for the sidetone gain, which is the field of the position record. -/
structure Mic where
  trim : Nat
  offset : Int
  floorGain : Nat
  s1 : Int
  s2 : Int
  s3 : Int
  energies : Bands Nat
  floorsSet : Bool
  floors : Bands Nat
  speech : Bands Bool
  gains : Bands Nat
  speechFrame : Bool
  vadHangover : Nat
  vad : Bool
  deriving DecidableEq, Repr

/-- R124: a clip's location. -/
structure Location where
  area : AreaNo
  offset : Nat
  length : Nat
  rate : Rate
  deriving DecidableEq, Repr

/-- R87, R102: a buffer half with the block it holds or waits for. A prompt's half is never FAILED. -/
inductive Half | empty | waiting (b : Nat) | failed (b : Nat) | full (b : Nat) (samples : List Sample)
  deriving DecidableEq, Repr

/-- R98: a prompt record in use, but for the parts the playing slot adds. -/
structure PromptRec where
  handle : Handle
  clip : Nat
  cls : Nat
  level : Nat
  start : StartCond
  gain : Nat
  duck : Nat
  deadline : Nat
  repeats : Nat
  played : Nat
  wait : Nat
  cancel : Bool
  underruns : Nat
  state : PromptState
  result : Option PromptResult
  stamp : Stamp
  deriving DecidableEq, Repr

/-- R102: the playing slot's contents: the prompt, its captured location and its buffer. next is the next fetch, a
block with the play-through pass it serves. -/
structure Playing where
  prompt : PromptRec
  loc : Location
  half0 : Half
  half1 : Half
  index : Nat
  phase : Phase
  next : Option (Nat × Nat)
  deriving DecidableEq, Repr

/-- R3, R32: a position record. available is the availability of the microphone in the last frame, as the frame start that
processed it found it (R6); a disable or an enable within the interval leaves it. -/
structure PosRec where
  enabled : Bool
  role : Role
  muted : Bool
  sendGain : Nat
  sidetone : Nat
  group : Option Group
  duck : Nat
  available : Bool
  mic : Mic
  queue : List PromptRec
  slot : Option Playing
  done : List PromptRec
  deriving DecidableEq, Repr

/-- R5: a supervision record. -/
structure SupRec where
  supervisor : Position
  agent : Position
  mode : SupMode
  coachGain : Nat
  coachDuck : Nat
  deriving DecidableEq, Repr

/-! ## Music sources (R82) -/

/-- R82, R93: the pending command; a START of a clip source carries the location it captured. -/
inductive SourceCmd | none | start (loc : Option Location) | stop
  deriving DecidableEq, Repr

/-- R82: a music source record. The fill is the length of the ring. retrying says that a block whose fetch failed has not
landed as data yet (R89; notes/assumptions/23.md). -/
structure SourceRec where
  kind : SourceKind
  state : SourceState
  level : Nat
  cmd : SourceCmd
  ring : List Sample
  lowMark : Nat
  lowArmed : Bool
  clip : Option Nat
  loc : Option Location
  index : Nat
  phase : Phase
  next : Nat
  half0 : Half
  half1 : Half
  retryDue : Bool
  retrying : Bool
  step : Nat
  amplitude : Nat
  onFrames : Nat
  offFrames : Nat
  tonePhase : Nat
  cadence : Nat
  deriving DecidableEq, Repr

/-! ## Clip store (R122 to R137) -/

/-- R122: an area record; base and size in units of 64 KiB. -/
structure Area where
  enable : Bool
  base : Nat
  size : Nat
  cost : Nat
  wait : Nat
  ready : Bool
  catalogue : Bool
  deriving DecidableEq, Repr

/-- R126: an entry of the clip index. -/
structure IndexEntry where
  id : Nat
  loc : Location
  origin : Origin
  deriving DecidableEq, Repr

/-- R128: a fetch item. -/
structure FetchItem where
  requester : Requester
  area : AreaNo
  offset : Nat
  count : Nat
  deriving DecidableEq, Repr

/-- R129: a served item whose read is made in the frame interval: the settings of its area at the service, the words
read so far, the offset of the word that failed, and whether its requester has given the outcome up. -/
structure Read where
  item : FetchItem
  settings : Area
  words : List Word16
  failed : Option Nat
  dropped : Bool
  deriving DecidableEq, Repr

/-- R131: the fault record; its cause is always TIMEOUT. -/
structure FaultRec where
  latched : Bool
  area : AreaNo
  offset : Nat
  requester : Requester
  stamp : Stamp
  later : Nat
  deriving DecidableEq, Repr

/-- R133: the scan record. -/
structure Scan where
  running : Bool
  area : AreaNo
  chunk : Nat
  outstanding : Bool
  counts : ScanCounts
  deriving DecidableEq, Repr

/-! ## Work scheduler (R145 to R161) -/

/-- R158: the record of the last service. -/
structure Service where
  stamp : Stamp
  spare : Nat
  adaptations : Nat
  openingFetches : Nat
  closingFetches : Nat
  unitsLeft : Nat
  eligible : Nat
  notServed : Nat
  itemsLeft : Nat
  deriving DecidableEq, Repr

/-- R146, R147, R150, R158, R160: the work scheduler's own state. -/
structure Work where
  commitment : Nat
  ceiling : Nat
  ratio : Nat
  list : List Leg
  last : Service
  deriving DecidableEq, Repr

/-! ## Change stager (R162 to R164) -/

/-- R162: the request and fields of a change, clamped and rounded; a field that is not selected is none. -/
inductive ChangeOp
  | legClose (l : Leg)
  | groupAdd (g : Group) (m : Member)
  | groupRemove (g : Group) (m : Member)
  | hold (l : Leg) (m : Source)
  | resume (l : Leg)
  | mute (p : Position) (on : Bool)
  | supervise (s a : Position) (mode : SupMode) (coach : Option (Nat × Nat))
  | unsupervise (s : Position)
  | sendGain (t : Member) (gain : Nat)
  | micSet (p : Position) (trim : Option Nat) (offset : Option Int) (floor sidetone : Option Nat)
  | echoSet (l : Leg) (bulk shift : Option Nat) (nlp : Option Bool)
  deriving DecidableEq, Repr

/-- R162: a change record; its class and request kind are those of its operation. -/
structure Change where
  tag : Byte
  arrival : Stamp
  op : ChangeOp
  deriving DecidableEq, Repr

/-- R162, R164: a class's pending list, apply-source mask and apply-due latch. -/
structure Stage where
  list : List Change
  nextFrame : Bool
  applyLine : Bool
  latch : Bool
  deriving DecidableEq, Repr

/-! ## The whole part -/

/-- The part. hold says that it is held in reset, and from which source (R203); quietLevel is the QUIET level sampled at
the last frame start (R69); quietMask is R69's set, Pn's bit at position n. -/
structure State where
  pending : List Instr
  draws : Nat
  hold : Option ResetCause
  part : PartState
  progress : Nat
  cause : ResetCause
  straps : Straps
  frame : Stamp
  link : Link
  sync : Sync
  clock : Clock
  ports : Ports
  legs : Vector LegRec 24
  positions : Vector PosRec 16
  groups : Vector (List Member) 16
  supervision : List SupRec
  quietMask : BitVec 16
  quietLevel : Bool
  sources : Vector SourceRec 4
  free : List Handle
  classMap : Vector Nat 8
  areas : Vector Area 4
  index : Vector (List IndexEntry) 128
  fetch : List FetchItem
  reads : List Read
  fault : FaultRec
  scan : Scan
  work : Work
  routing : Stage
  levels : Stage
  echo : Stage
  deriving DecidableEq, Repr

/-- No command of this part stops it: every rule of the spec gives its commands an effect, so no meaning answers with a
fault.  The constructor stands only so that the type is not empty; nobody raises it (safe). -/
inductive Fault
  | unused
  deriving DecidableEq, Repr

/-- Why a command has no meaning. -/
inductive Refusal
  /-- Raised by an arm of exec alone, for a command that has no meaning yet (safe); no arm does. -/
  | notModelled (mnemonic : String)
  deriving DecidableEq, Repr

/-! ## Reset values -/

/-- R36: a canceller record after reset and after a close, and with T zero taps after an open. -/
def blankCanceller (tail : Nat) : Canceller :=
  { taps := List.replicate tail 0, history := List.replicate Config.keptLen 0, hangover := 0, divergence := 0,
    callerHangover := 0, callerActive := false, lastPower := 0, ed := 0, er := 0, ex := 0, doubleTalk := false,
    nlpApplied := false, framesAdapted := 0, divergenceResets := 0 }

/-- R150: the scheduler fields of a leg after reset, at an open and after a close. -/
def blankLegWork : LegWork := { debt := 0, armed := true, granted := false, eligible := false }

/-- R1, R35: a leg record after reset and after a close. -/
def blankLeg : LegRec :=
  { state := .closed, slot := none, sendGain := 32768, group := none, source := none, ramp := 0, closing := false,
    tail := 512, bulk := 0, shift := 1, nlp := true, ec := blankCanceller 512, work := blankLegWork }

/-- R58. -/
def blankMic : Mic :=
  { trim := 4096, offset := 0, floorGain := 8192, s1 := 0, s2 := 0, s3 := 0, energies := ⟨0, 0, 0, 0⟩,
    floorsSet := false, floors := ⟨0, 0, 0, 0⟩, speech := ⟨false, false, false, false⟩,
    gains := ⟨32768, 32768, 32768, 32768⟩, speechFrame := false, vadHangover := 0, vad := false }

/-- R3, R99. -/
def blankPos : PosRec :=
  { enabled := false, role := .agent, muted := false, sendGain := 32768, sidetone := 0, group := none, duck := 32768,
    available := false, mic := blankMic, queue := [], slot := none, done := [] }

/-- R82. -/
def blankSource : SourceRec :=
  { kind := .stream, state := .stopped, level := 32768, cmd := .none, ring := [], lowMark := 512, lowArmed := true,
    clip := none, loc := none, index := 0, phase := .first, next := 0, half0 := .empty, half1 := .empty,
    retryDue := false, retrying := false, step := 0, amplitude := 0, onFrames := 1, offFrames := 0, tonePhase := 0, cadence := 0 }

/-- R122: an area after reset; A0 is enabled with a catalogue, the others neither. -/
def blankArea (on : Bool) : Area :=
  { enable := on, base := 0, size := 256, cost := 16, wait := 32, ready := false, catalogue := on }

/-- R184. -/
def blankTest : PortTest :=
  { state := .off, slot := 0, dir := .rx, pattern := List.replicate 8 0, txIndex := 0, expected := none, passes := 0,
    errors := 0 }

/-- R131. -/
def blankFault : FaultRec :=
  { latched := false, area := 0, offset := 0, requester := .prompt 0, stamp := 0, later := 0 }

/-- R133. -/
def blankCounts : ScanCounts := { indexed := 0, duplicate := 0, full := 0, range := 0, aborted := 0 }

/-- R133. -/
def blankScan : Scan := { running := false, area := 0, chunk := 0, outstanding := false, counts := blankCounts }

/-- R158. -/
def blankService : Service :=
  { stamp := 0, spare := 0, adaptations := 0, openingFetches := 0, closingFetches := 0, unitsLeft := 0, eligible := 0,
    notServed := 0, itemsLeft := 0 }

/-- R162, R164. -/
def blankStage : Stage := { list := [], nextFrame := true, applyLine := false, latch := false }

/-- R193, R197, R200. -/
def blankLink : Link :=
  { requests := [], replies := [], notices := [], reading := none, badCheck := 0, badLength := 0, short := 0,
    overrun := 0 }

/-- R178: the frame clock as it starts at entry into STANDBY: the entry begins period 0, so the 64th internal mark after
it is the first frame start. -/
def startClock : Clock := { period := 0, mark := .internal, carried := false, prolonged := false, due := none }

/-- The value every block takes at a reset (R203), before the part state is entered.  Ports: no sample has been formed
or received (notes/assumptions/4.md). -/
def blankState (straps : Straps) (cause : ResetCause) : State :=
  { pending := [], draws := 0, hold := none, part := .standby, progress := 0, cause := cause, straps := straps,
    frame := 0, link := blankLink,
    sync := { state := .seeking, seeking := 0, slips := 0, losses := 0 }, clock := startClock,
    ports := { netTest := blankTest, headTest := blankTest, netHeld := none, headHeld := none,
               netTx := Vector.replicate 32 (List.replicate Config.frameLen 0),
               headTx := Vector.replicate 16 (List.replicate Config.frameLen 0),
               netRx := [], headRx := [], ntx := none, htx := none },
    legs := Vector.replicate 24 blankLeg, positions := Vector.replicate 16 blankPos,
    groups := Vector.replicate 16 [], supervision := [], quietMask := 0, quietLevel := false,
    sources := Vector.replicate 4 blankSource, free := List.finRange 128,
    classMap := #v[0, 0, 1, 1, 2, 2, 3, 3],
    areas := #v[blankArea true, blankArea false, blankArea false, blankArea false],
    index := Vector.replicate 128 [], fetch := [], reads := [], fault := blankFault, scan := blankScan,
    work := { commitment := Config.mixReserve, ceiling := 2048, ratio := 2, list := [], last := blankService },
    routing := blankStage, levels := blankStage, echo := blankStage }

/-- The part right after a power-on reset with every strap at 0 (notes/assumptions/1.md): STANDBY has been entered, so
PART_STATE waits in the notice queue, stamped 0 (R202, R205). -/
def State.reset : State :=
  let s := blankState { pos1 := false, pos0 := false, test := false, scan := false } .powerOn
  { s with link := { s.link with notices :=
      [{ subject := 0, count := 1, stamp := 0, detail := .partState .standby 0 (.reset .powerOn) }] } }

end Sys2Proof.Machine
end

