-- ==== Sys2Proof/Machine/Codec.lean ====
section
/-! DEFINITION. Bytes on the control link: integers (R213), the check (R192), codes, and the frames that leave the part
(R197, R214, R215). -/

namespace Sys2Proof.Machine

/-! ## Integers (R213: high byte first, two's complement) -/

/-- One byte of a field. -/
def u8 (n : Nat) : List Byte := [BitVec.ofNat 8 n]

/-- Two bytes, high byte first. -/
def u16 (n : Nat) : List Byte := [BitVec.ofNat 8 (n / 256), BitVec.ofNat 8 n]

/-- Four bytes, high byte first. -/
def u32 (n : Nat) : List Byte := u16 (n / 65536) ++ u16 n

/-- Five bytes, high byte first. -/
def u40 (n : Nat) : List Byte := u8 (n / 4294967296) ++ u32 n

/-- A signed two-byte field. -/
def i16 (x : Int) : List Byte := u16 (BitVec.ofInt 16 x).toNat

/-- A yes/no, on/off or set/clear field (R213), or a true/false one, or a line's level, 1 for true and asserted
(notes/assumptions/14.md). -/
def flag (b : Bool) : List Byte := u8 (if b then 1 else 0)

/-- Flag or selection bits, bit 0 first. -/
def bits (l : List Bool) : Nat := l.foldr (fun b acc => (if b then 1 else 0) + 2 * acc) 0

/-- An object number, 0xFF when absent. -/
def orAbsent {n : Nat} (o : Option (Fin n)) : List Byte := u8 (match o with | some i => i.val | none => 255)

/-- The byte at place i of a body, as a number. -/
def byteAt (b : List Byte) (i : Nat) : Nat := (b.getD i 0).toNat

/-- The two-byte field at place i. -/
def wordAt (b : List Byte) (i : Nat) : Nat := byteAt b i * 256 + byteAt b (i + 1)

/-- The four-byte field at place i. -/
def longAt (b : List Byte) (i : Nat) : Nat := wordAt b i * 65536 + wordAt b (i + 2)

/-- The signed two-byte field at place i. -/
def signedAt (b : List Byte) (i : Nat) : Int := (BitVec.ofNat 16 (wordAt b i)).toInt

/-! ## Codes (R213: 0, 1, 2 in the order the list is written) -/

def ResultCode.code : ResultCode → Nat
  | .ok => 0 | .accepted => 1 | .badRequest => 2 | .badLength => 3 | .badValue => 4 | .noObject => 5
  | .wrongState => 6 | .full => 7 | .busy => 8 | .noBudget => 9 | .conflict => 10

def PartState.code : PartState → Nat
  | .selftest => 0 | .failed => 1 | .standby => 2 | .running => 3

def ResetCause.code : ResetCause → Nat
  | .powerOn => 0 | .pin => 1 | .request => 2

def EntryCause.code : EntryCause → Nat
  | .reset c => c.code | .stop => 3

def SyncState.code : SyncState → Nat
  | .locked => 0 | .seeking => 1 | .lost => 2

def LegState.code : LegState → Nat
  | .closed => 0 | .opened => 1 | .held => 2

def Role.code : Role → Nat
  | .agent => 0 | .supervisor => 1

def SupMode.code : SupMode → Nat
  | .monitor => 0 | .whisper => 1 | .barge => 2

def SourceKind.code : SourceKind → Nat
  | .stream => 0 | .clip => 1 | .tone => 2

def SourceState.code : SourceState → Nat
  | .stopped => 0 | .priming => 1 | .playing => 2 | .starved => 3

def StarveCause.code : StarveCause → Nat
  | .underrun => 0 | .late => 1 | .fault => 2

def SourceCmd.code : SourceCmd → Nat
  | .none => 0 | .start _ => 1 | .stop => 2

def Rate.code : Rate → Nat
  | .khz16 => 0 | .khz8 => 1

def Phase.code : Phase → Nat
  | .first => 0 | .second => 1

def StartCond.code : StartCond → Nat
  | .now => 0 | .gap => 1

def PromptState.code : PromptState → Nat
  | .pending => 0 | .priming => 1 | .playing => 2 | .done => 3

def PromptResult.code : PromptResult → Nat
  | .complete => 0 | .cancelled => 1 | .expired => 2 | .preempted => 3 | .notFound => 4 | .clipFault => 5

def Origin.code : Origin → Nat
  | .catalogue => 0 | .declared => 1

/-- A buffer half's status (R87). -/
def Half.code : Half → Nat
  | .empty => 0 | .waiting _ => 1 | .failed _ => 2 | .full _ _ => 3

/-- The block number a buffer half holds or waits for. -/
def Half.block : Half → Option Nat
  | .empty => none | .waiting b => some b | .failed b => some b | .full b _ => some b

def TestState.code : TestState → Nat
  | .off => 0 | .seeking => 1 | .locked => 2

def TestDir.code : TestDir → Nat
  | .tx => 0 | .rx => 1 | .both => 2

def Port.code : Port → Nat
  | .network => 0 | .headset => 1

def ChangeClass.code : ChangeClass → Nat
  | .routing => 0 | .levels => 1 | .echo => 2

/-- A requester's kind and number, 0 for SCAN (R215). -/
def Requester.codes : Requester → List Byte
  | .prompt p => u8 0 ++ u8 p.val
  | .source m => u8 1 ++ u8 m.val
  | .scan => u8 2 ++ u8 0

/-- A member's kind and number (R33). -/
def Member.codes : Member → List Byte
  | .leg l => u8 0 ++ u8 l.val
  | .pos p => u8 1 ++ u8 p.val

/-! ## The check (R192) -/

/-- One bit enters the check register, generator x^16 + x^12 + x^5 + 1. -/
def crcBit (c : BitVec 16) (bit : Bool) : BitVec 16 :=
  if c.msb != bit then (c <<< 1) ^^^ 0x1021#16 else c <<< 1

/-- One byte enters, most significant bit first. -/
def crcByte (c : BitVec 16) (b : Byte) : BitVec 16 :=
  [7, 6, 5, 4, 3, 2, 1, 0].foldl (fun c i => crcBit c (b.getLsbD i)) c

/-- The check over some bytes, from 0xFFFF, without a final inversion. -/
def crc (bs : List Byte) : BitVec 16 := bs.foldl crcByte 0xFFFF#16

/-- The check's two bytes, high byte first. -/
def crcBytes (bs : List Byte) : List Byte := u16 (crc bs).toNat

/-! ## Frames -/

/-- R214: a link frame from its lead, kind, tag and body. -/
def frameBytes (lead kind tag : Byte) (body : List Byte) : List Byte :=
  let core := BitVec.ofNat 8 (body.length + 4) :: kind :: tag :: body
  lead :: core ++ crcBytes core

/-- What the bytes after the lead 0xA5 of a write transfer amount to (R192, R193). -/
inductive WriteOutcome | short | badLength | badCheck | whole (r : Request)
  deriving DecidableEq, Repr

/-- R192, R193: reads a request frame from the bytes the host clocked after the lead byte. Bytes beyond the frame are
ignored. -/
def parseWrite : List Byte → WriteOutcome
  | [] => .short
  | len :: rest =>
    if len.toNat < 4 ∨ 252 < len.toNat then .badLength
    else if rest.length < len.toNat then .short
    else
      let core := rest.take (len.toNat - 2)
      let check := (rest.drop (len.toNat - 2)).take 2
      if crcBytes (len :: core) = check then
        .whole { kind := core.getD 0 0, tag := core.getD 1 0, body := core.drop 2 }
      else .badCheck

/-- R197, R214: the frame of a reply. -/
def Reply.bytes (r : Reply) : List Byte := frameBytes 0xA5#8 r.kind r.tag (u8 r.result.code ++ r.body)

/-- R199: a notice's kind code. -/
def Detail.kind : Detail → Nat
  | .partState .. => 0xC0 | .sync .. => 0xC1 | .fault .. => 0xC2 | .reindexDone .. => 0xC3 | .applied .. => 0xC4
  | .promptDone .. => 0xC5 | .sourceStarved .. => 0xC6 | .streamLow .. => 0xC7 | .adaptStarved .. => 0xC8
  | .divergenceReset .. => 0xC9 | .testState .. => 0xCA

/-- R215: a notice's detail bytes. -/
def Detail.bytes : Detail → List Byte
  | .partState st p c => u8 st.code ++ u8 p ++ u8 c.code
  | .sync st slips losses => u8 st.code ++ u16 slips ++ u16 losses
  | .fault area req => u8 0 ++ u8 area.val ++ req.codes
  | .reindexDone c => u16 c.indexed ++ u16 c.duplicate ++ u16 c.full ++ u16 c.range ++ u8 c.aborted
  | .applied a d tag => u8 a ++ u8 d ++ (match tag with | some t => [1#8, t] | none => [0#8, 0#8])
  | .promptDone n => u8 n
  | .sourceStarved c => u8 c.code
  | .streamLow fill => u16 fill
  | .adaptStarved debt tail => u16 debt ++ u16 tail
  | .divergenceReset n => u16 n
  | .testState st passes errors => u8 st.code ++ u32 passes ++ u32 errors

/-- R215: the frame of a notice, its tag the subject number. -/
def Notice.bytes (n : Notice) : List Byte :=
  frameBytes 0xAC#8 (BitVec.ofNat 8 n.detail.kind) (BitVec.ofNat 8 n.subject)
    (u8 n.count ++ u32 n.stamp.toNat ++ n.detail.bytes)

end Sys2Proof.Machine
end

