-- ==== Sys2Proof/Machine/Ops.lean ====
section
/-! DEFINITION. The named operations over the state that several commands share: access to the tables, notices, the
adaptation list, groups, the clip index, the fetch list, prompt endings, the index scan's start, and reset. -/

namespace Sys2Proof.Machine

/-! ## Access -/

def State.leg (s : State) (l : Leg) : LegRec := s.legs[l]

def State.setLeg (s : State) (l : Leg) (r : LegRec) : State := { s with legs := s.legs.set l r }

def State.pos (s : State) (p : Position) : PosRec := s.positions[p]

def State.setPos (s : State) (p : Position) (r : PosRec) : State := { s with positions := s.positions.set p r }

def State.src (s : State) (m : Source) : SourceRec := s.sources[m]

def State.setSrc (s : State) (m : Source) (r : SourceRec) : State := { s with sources := s.sources.set m r }

def State.members (s : State) (g : Group) : List Member := s.groups[g]

def State.setMembers (s : State) (g : Group) (ms : List Member) : State := { s with groups := s.groups.set g ms }

def State.area (s : State) (a : AreaNo) : Area := s.areas[a]

def State.stage (s : State) : ChangeClass → Stage
  | .routing => s.routing | .levels => s.levels | .echo => s.echo

def State.setStage (s : State) (c : ChangeClass) (st : Stage) : State :=
  match c with
  | .routing => { s with routing := st }
  | .levels => { s with levels := st }
  | .echo => { s with echo := st }

def State.test (s : State) : Port → PortTest
  | .network => s.ports.netTest | .headset => s.ports.headTest

def State.setTest (s : State) (p : Port) (t : PortTest) : State :=
  match p with
  | .network => { s with ports := { s.ports with netTest := t } }
  | .headset => { s with ports := { s.ports with headTest := t } }

def State.held (s : State) : Port → Option PortTest
  | .network => s.ports.netHeld | .headset => s.ports.headHeld

def State.setHeld (s : State) (p : Port) (t : Option PortTest) : State :=
  match p with
  | .network => { s with ports := { s.ports with netHeld := t } }
  | .headset => { s with ports := { s.ports with headHeld := t } }

def State.setLink (s : State) (l : Link) : State := { s with link := l }

def State.setWork (s : State) (w : Work) : State := { s with work := w }

def State.setClock (s : State) (c : Clock) : State := { s with clock := c }

/-- R203: the active position count the straps give. -/
def activeCount (st : Straps) : Nat := if st.pos1 then 16 else if st.pos0 then 12 else 8

/-- R178: the frame clock runs in STANDBY and RUNNING, and nothing runs while the part is held in reset. -/
def State.clockRuns (s : State) : Bool := s.hold.isNone && (s.part == .standby || s.part == .running)

/-! ## Notices (R200, R201) -/

/-- R200: whether an entry is of this kind and subject. -/
def Notice.isFor (n : Notice) (subject : Nat) (d : Detail) : Bool := n.detail.kind == d.kind && n.subject == subject

/-- R200: a raise folds into the entry of its kind and subject in its place, or joins the tail. -/
def raiseIn (stamp : Stamp) (subject : Nat) (d : Detail) : List Notice → List Notice
  | [] => [{ subject := subject, count := 1, stamp := stamp, detail := d }]
  | n :: ns =>
    if n.isFor subject d then { n with count := satInc 255 n.count, stamp := stamp, detail := d } :: ns
    else n :: raiseIn stamp subject d ns

/-- R201: a raise that reaches the notice a read transfer is sending is counted with that transfer. -/
def noteRaise (subject : Nat) (d : Detail) (notices : List Notice) (r : ReadInProgress) : ReadInProgress :=
  match r.what, notices with
  | .notice, n :: _ => if n.isFor subject d then { r with raises := satInc 255 r.raises } else r
  | _, _ => r

/-- R200: a block raises a notice, stamped with the frame counter. -/
def raise (subject : Nat) (d : Detail) (s : State) : State :=
  s.setLink { s.link with
    notices := raiseIn s.frame subject d s.link.notices
    reading := s.link.reading.map (noteRaise subject d s.link.notices) }

/-- R200: raises taken one after the other. -/
def raiseAll (rs : List (Nat × Detail)) (s : State) : State := rs.foldl (fun s x => raise x.1 x.2 s) s

/-- R84, R200: a source's SOURCE_STARVED is raised in production and its STREAM_LOW in the follow-up after it, so of two
new entries for one source the first stands before the second. -/
def starvedBeforeLow (ns : List Notice) : List Notice :=
  ns.foldr (fun n acc =>
    match n.detail with
    | .streamLow _ =>
      match acc.find? (fun k => k.detail.kind == 0xC6 && k.subject == n.subject) with
      | some k => k :: n :: acc.erase k
      | none => n :: acc
    | _ => n :: acc) []

/-- R200: the entries that joined the tail at one event take an order the part chooses; old is how many stood before. -/
def orderNew (old : Nat) (s : State) : State :=
  s.setLink { s.link with
    notices := s.link.notices.take old ++
      starvedBeforeLow (shuffle (Config.noticeOrder s.draws) (s.link.notices.drop old)) }

/-! ## Commitment and adaptation list (R145, R146, R151) -/

/-- R145: the committed cost of a leg of tail T. -/
def legCost (tail : Nat) : Nat := tail / 16 + 4

/-- R151: a leg moves to, or joins at, the head; the others keep their order. -/
def moveHead (l : Leg) (ls : List Leg) : List Leg := l :: ls.filter (· != l)

def State.headOfList (s : State) (l : Leg) : State := s.setWork { s.work with list := moveHead l s.work.list }

/-! ## Groups and supervision (R4, R5) -/

def memberGroup (s : State) : Member → Option Group
  | .leg l => (s.leg l).group
  | .pos p => (s.pos p).group

def setMemberGroup (m : Member) (g : Option Group) (s : State) : State :=
  match m with
  | .leg l => s.setLeg l { s.leg l with group := g }
  | .pos p => s.setPos p { s.pos p with group := g }

/-- R4: the member joins at the tail of the list, and its own group field names the group. -/
def joinGroup (g : Group) (m : Member) (s : State) : State :=
  setMemberGroup m (some g) (s.setMembers g (s.members g ++ [m]))

/-- R4: the member leaves the list, the others keep their order, and its own group field becomes absent. -/
def leaveGroup (g : Group) (m : Member) (s : State) : State :=
  setMemberGroup m none (s.setMembers g ((s.members g).filter (· != m)))

/-- R5: the record a position supervises under. -/
def asSupervisor (s : State) (p : Position) : Option SupRec := s.supervision.find? (fun r => r.supervisor == p)

/-- R5: the record a position is the agent of. -/
def asAgent (s : State) (p : Position) : Option SupRec := s.supervision.find? (fun r => r.agent == p)

/-- R27, R28: a position that is a group member or is named in a supervision record. -/
def engaged (s : State) (p : Position) : Bool :=
  (s.pos p).group.isSome || (asSupervisor s p).isSome || (asAgent s p).isSome

/-! ## Clip index (R126, R127) -/

/-- R126: the bucket of a clip ID. -/
def bucketOf (id : Nat) : Fin 128 := ⟨id % 128, Nat.mod_lt _ (by decide)⟩

/-- R127: a lookup of a clip ID. -/
def lookupClip (ix : Vector (List IndexEntry) 128) (id : Nat) : Option IndexEntry :=
  ix[bucketOf id].find? (fun e => e.id == id)

/-- R126: the entries of the whole index. -/
def indexCount (ix : Vector (List IndexEntry) 128) : Nat := ix.toList.foldl (fun n b => n + b.length) 0

/-- R141: a new entry joins its bucket; one of the same clip ID is replaced in its place. -/
def putEntry (e : IndexEntry) (ix : Vector (List IndexEntry) 128) : Vector (List IndexEntry) 128 :=
  let b := ix[bucketOf e.id]
  ix.set (bucketOf e.id)
    (if (b.find? (fun x => x.id == e.id)).isSome then b.map (fun x => if x.id == e.id then e else x) else b ++ [e])

/-- The entries that satisfy keep stay. -/
def keepEntries (keep : IndexEntry → Bool) (ix : Vector (List IndexEntry) 128) : Vector (List IndexEntry) 128 :=
  vmap (fun b => b.filter keep) ix

/-- R124: a location is valid against its area's size. -/
def validLocation (a : Area) (offset length : Nat) : Bool :=
  offset % 2 == 0 && decide (1 ≤ length) && decide (offset + 2 * length ≤ a.size * 65536)

/-! ## Fetch list (R128) -/

/-- R128: an item joins at the tail. -/
def placeItem (it : FetchItem) (s : State) : State := { s with fetch := s.fetch ++ [it] }

/-- R128, R129: a requester gives up its item: one still on the list leaves it, and the outcome of one already served
will be discarded. -/
def withdraw (r : Requester) (s : State) : State :=
  { s with
    fetch := s.fetch.filter (fun it => it.requester != r)
    reads := s.reads.map (fun x => if x.item.requester == r then { x with dropped := true } else x) }

/-- R87: the number of blocks of a clip. -/
def blocksOf (length : Nat) : Nat := (length + 255) / 256

/-- R87: the fetch item of block b of a location. -/
def blockItem (r : Requester) (loc : Location) (b : Nat) : FetchItem :=
  { requester := r, area := loc.area, offset := loc.offset + 512 * b,
    count := 2 * min 256 (loc.length - 256 * b) }

/-! ## Prompt endings (R103, R114) -/

/-- R103: a prompt that has left its collection joins the tail of the done list, and PROMPT_DONE is raised. -/
def finishPrompt (p : Position) (res : PromptResult) (r : PromptRec) (s : State) : State :=
  let rec' := { r with state := .done, result := some res, stamp := s.frame }
  let s := s.setPos p { s.pos p with done := (s.pos p).done ++ [rec'] }
  raise p.val (.promptDone (s.pos p).done.length) s

/-- R114: the prompt in the playing slot ends; its fetch item is given up. -/
def endSlot (p : Position) (res : PromptResult) (s : State) : State :=
  match (s.pos p).slot with
  | none => s
  | some pl => finishPrompt p res pl.prompt (withdraw (.prompt p) (s.setPos p { s.pos p with slot := none }))

/-- R114: a pending prompt ends: it leaves its place in the queue. -/
def endPending (p : Position) (res : PromptResult) (r : PromptRec) (s : State) : State :=
  finishPrompt p res r (s.setPos p { s.pos p with queue := (s.pos p).queue.filter (fun x => x.handle != r.handle) })

/-- R28, R115: the slot's prompt ends CANCELLED first, then the pending prompts from head to tail. -/
def cancelAll (p : Position) (s : State) : State :=
  (s.pos p).queue.foldl (fun s r => endPending p .cancelled r s) (endSlot p .cancelled s)

/-- How many prompts of a position are pending or in its slot. -/
def promptsOf (r : PosRec) : Nat := r.queue.length + (if r.slot.isSome then 1 else 0)

/-- R119: a handle returns to the free pool, which is kept in rising order. -/
def freeHandle (h : Handle) : List Handle → List Handle
  | [] => [h]
  | x :: xs => if h < x then h :: x :: xs else x :: freeHandle h xs

/-! ## Index scan (R134, R135) -/

/-- R134, R135: the lowest-numbered area from k on whose enable and catalogue are both on. -/
def nextArea (areas : Vector Area 4) (k : Nat) : Option AreaNo :=
  (List.finRange 4).find? (fun a => decide (k ≤ a.val) && areas[a].enable && areas[a].catalogue)

/-- R134, R135: the item for a chunk. -/
def chunkItem (a : AreaNo) (chunk : Nat) : FetchItem :=
  { requester := .scan, area := a, offset := 256 * chunk, count := 256 }

/-- R134: a scan starts: the CATALOGUE entries go, the counts are 0, and the first chunk's item is placed. With no area to
read the record stands at A0, chunk 0 (notes/assumptions/25.md). -/
def startScan (s : State) : State :=
  let s := { s with index := keepEntries (fun e => e.origin != Origin.catalogue) s.index }
  match nextArea s.areas 0 with
  | some a =>
    placeItem (chunkItem a 0)
      { s with scan := { running := true, area := a, chunk := 0, outstanding := true, counts := blankCounts } }
  | none => { s with scan := { running := true, area := 0, chunk := 0, outstanding := false, counts := blankCounts } }

/-! ## Reset (R203, R205) -/

/-- R205: entry into STANDBY from a reset: PART_STATE, then the frame clock and sync watch, then the scan when SCAN is 1. -/
def enterStandby (s : State) : State :=
  let s := raise 0 (.partState .standby 0 (.reset s.cause)) { s with part := .standby, progress := 0 }
  let s := s.setClock startClock
  if s.straps.scan then startScan s else s

/-- R203: the four actions of a reset. The commands waiting and the model's draw counter are not the part's own. -/
def resetPart (pins : Straps) (cause : ResetCause) (s : State) : State :=
  let s := { blankState pins cause with pending := s.pending, draws := s.draws }
  if pins.test then { s with part := .selftest, progress := 1 } else enterStandby s

end Sys2Proof.Machine
end

