-- ==== Sys2Proof/Machine/Operands.lean ====
section
/-! DEFINITION. Requests: which kinds there are and which body lengths they allow (R195, R213), how a field of a body is
read and checked (R15, R196, R213), and how the request at the head of the queue is executed and answered (R195). -/

namespace Sys2Proof.Machine

/-! ## Kinds and body lengths -/

/-- R195, R213: whether a body's length is one its kind allows; none for a kind that names no request. The lengths follow
from each entry's field list and the widths of R213; STREAM_DATA's from its count byte (R218). -/
def bodyFits (kind : Nat) (b : List Byte) : Option Bool :=
  match kind with
  | 0x01 | 0x02 | 0x03 | 0x04 | 0x05 | 0x06 => some (b.length == 0)
  | 0x10 => some (b.length == 6)
  | 0x11 => some (b.length == 1)
  | 0x12 | 0x13 => some (b.length == 3)
  | 0x14 => some (b.length == 2)
  | 0x15 => some (b.length == 1)
  | 0x16 => some (b.length == 2)
  | 0x17 => some (b.length == 3 || b.length == 7)
  | 0x18 => some (b.length == 1)
  | 0x19 => some (b.length == 3)
  | 0x1A => some (b.length == 4)
  | 0x1B | 0x1C | 0x1D => some (b.length == 1)
  | 0x20 => some (b.length == 6)
  | 0x21 => some (b.length == 3)
  | 0x22 | 0x23 => some (b.length == 1)
  | 0x28 => some (b.length == 10)
  | 0x29 => some (b.length == 2)
  | 0x2A => some (b.length == 1)
  | 0x30 => some (b.length == 16)
  | 0x31 | 0x32 => some (b.length == 1)
  | 0x33 => some (decide (2 ≤ b.length) && b.length == 2 * byteAt b 1 + 2)
  | 0x34 => some (b.length == 1)
  | 0x38 => some (b.length == 12)
  | 0x39 | 0x3A => some (b.length == 1)
  | 0x3B => some (b.length == 8)
  | 0x3C => some (b.length == 1)
  | 0x40 => some (b.length == 11)
  | 0x41 => some (b.length == 0)
  | 0x42 => some (b.length == 12)
  | 0x43 | 0x44 => some (b.length == 2)
  | 0x45 => some (b.length == 0)
  | 0x48 => some (b.length == 4)
  | 0x49 => some (b.length == 0)
  | 0x4C => some (b.length == 2)
  | 0x4D | 0x4E | 0x4F => some (b.length == 1)
  | 0x50 => some (b.length == 19)
  | 0x51 | 0x52 => some (b.length == 1)
  | 0x53 => some (b.length == 0)
  | _ => none

/-! ## Answers -/

/-- A taken request: the reply fields after the result code, the state it leaves, its result, and the notices raised
after its reply has joined the reply queue (R210). -/
structure Taken where
  body : List Byte
  state : State
  result : ResultCode := .ok
  raises : List (Nat × Detail) := []

/-- R15, R196: a check; the first that fails gives the reply's result. -/
def require (p : Prop) [Decidable p] (c : ResultCode) : Except ResultCode Unit := if p then .ok () else .error c

/-- A check that also yields what it finds. -/
def need {α : Type} (o : Option α) (c : ResultCode) : Except ResultCode α :=
  match o with | some a => .ok a | none => .error c

/-- R195: the link controller's checks in order: kind, body length, part state; then the owning block's entry.  A refused
request changes no state. -/
def answer (entry : Request → State → Except ResultCode Taken) (r : Request) (s : State) : Except ResultCode Taken := do
  let fits ← need (bodyFits r.kind.toNat r.body) .badRequest
  require (fits = true) .badLength
  require (s.part = .standby ∨ s.part = .running ∨ r.kind = 0x01#8 ∨ r.kind = 0x02#8 ∨ r.kind = 0x05#8) .wrongState
  entry r s

/-- R195: the reply joins the tail of the reply queue, its kind the request's plus 0x80 and its tag the request's. -/
def pushReply (r : Request) (result : ResultCode) (body : List Byte) (s : State) : State :=
  s.setLink { s.link with
    replies := s.link.replies ++ [{ kind := r.kind + 0x80#8, tag := r.tag, result := result, body := body }] }

/-- R195, R196, R210: places the reply, then takes the raises that follow it. -/
def settleAnswer (r : Request) (s : State) : Except ResultCode Taken → State
  | .error c => pushReply r c [] s
  | .ok t => raiseAll t.raises (pushReply r t.result t.body t.state)

/-- R195: the request leaves the request queue when its execution begins. -/
def dropRequest (s : State) : State := s.setLink { s.link with requests := s.link.requests.tail }

/-- R195: executes the request at the head of the request queue if it is one of this kind and the reply queue holds fewer
than 8. Where the head is another request, where execution waits, and where the part is held in reset, the command is not
due and nothing changes (notes/assumptions/3.md). -/
def executeHead (kind : Byte) (entry : Request → State → Except ResultCode Taken) (s : State) : State :=
  match s.link.requests with
  | [] => s
  | r :: _ =>
    if s.hold = none ∧ r.kind = kind ∧ s.link.replies.length < 8 then
      settleAnswer r (dropRequest s) (answer entry r (dropRequest s))
    else s

/-! ## Part state (R202, and the first check of each chapter) -/

/-- A request taken in RUNNING and refused WRONG_STATE in STANDBY. -/
def whenRunning (s : State) : Except ResultCode Unit := require (s.part = .running) .wrongState

/-- A request taken in STANDBY alone. -/
def whenStandby (s : State) : Except ResultCode Unit := require (s.part = .standby) .wrongState

/-! ## Fields -/

/-- An object number; one at or above the count is refused BAD_VALUE. -/
def objectAt (n : Nat) (b : List Byte) (i : Nat) : Except ResultCode (Fin n) := need (object n (byteAt b i)) .badValue

/-- R3, R196: a position number; one at or above the active position count is refused NO_OBJECT. -/
def activePosition (s : State) (k : Nat) : Except ResultCode Position :=
  if k < activeCount s.straps then need (object 16 k) .noObject else .error .noObject

/-- R213: an on/off byte. -/
def onOff : Nat → Option Bool
  | 0 => some false | 1 => some true | _ => none

def roleOf : Nat → Option Role
  | 0 => some .agent | 1 => some .supervisor | _ => none

def supModeOf : Nat → Option SupMode
  | 0 => some .monitor | 1 => some .whisper | 2 => some .barge | _ => none

def sourceKindOf : Nat → Option SourceKind
  | 0 => some .stream | 1 => some .clip | 2 => some .tone | _ => none

def startOf : Nat → Option StartCond
  | 0 => some .now | 1 => some .gap | _ => none

def rateOf : Nat → Option Rate
  | 0 => some .khz16 | 1 => some .khz8 | _ => none

def classOf : Nat → Option ChangeClass
  | 0 => some .routing | 1 => some .levels | 2 => some .echo | _ => none

def portOf : Nat → Option Port
  | 0 => some .network | 1 => some .headset | _ => none

def dirOf : Nat → Option TestDir
  | 0 => some .tx | 1 => some .rx | 2 => some .both | _ => none

/-- R213: bit n of a selection byte; bits above the last item are ignored. -/
def selected (sel i : Nat) : Bool := sel.testBit i

/-- R213: a field that is read only when it is selected. -/
def whenSelected {α : Type} (sel i : Nat) (v : α) : Option α := if selected sel i then some v else none

/-- R15, R213: the member or target kind and number of GROUP_ADD, GROUP_REMOVE and SEND_GAIN: a bad kind or leg number is
BAD_VALUE, a position that is not active NO_OBJECT. -/
def memberAt (s : State) (b : List Byte) (i : Nat) : Except ResultCode Member :=
  match byteAt b i with
  | 0 => do
    let l ← objectAt 24 b (i + 1)
    return .leg l
  | 1 => do
    let p ← activePosition s (byteAt b (i + 1))
    return .pos p
  | _ => .error .badValue

/-- R127, R138: a clip ID; 0 and 65535 are refused BAD_VALUE. -/
def clipIdAt (b : List Byte) (i : Nat) : Except ResultCode Nat := do
  require (1 ≤ wordAt b i ∧ wordAt b i ≤ 65534) .badValue
  return wordAt b i

/-- R35: a requested tail, clamped to 128..1024 and rounded down to a multiple of 16. -/
def tailValue (x : Nat) : Nat := roundDownTo 16 (clampTo 128 1024 x)

/-- R35: a requested bulk delay, clamped to 512 and rounded down to a multiple of 4. -/
def bulkValue (x : Nat) : Nat := roundDownTo 4 (clampTo 0 512 x)

end Sys2Proof.Machine
end

