-- ==== Sys2Proof/Machine/Changes.lean ====
section
/-! DEFINITION. Change records (R162): the class and kind of each, its effect when it applies (R18 to R30, R52, R72, R79,
R81), the projected state (R163), and how an accepted request is staged (R15, R163). -/

namespace Sys2Proof.Machine

/-- R162: the class of each staged request. -/
def ChangeOp.cls : ChangeOp → ChangeClass
  | .sendGain .. => .levels
  | .micSet .. => .levels
  | .echoSet .. => .echo
  | .legClose .. => .routing
  | .groupAdd .. => .routing
  | .groupRemove .. => .routing
  | .hold .. => .routing
  | .resume .. => .routing
  | .mute .. => .routing
  | .supervise .. => .routing
  | .unsupervise .. => .routing

/-- The request kind of a change. -/
def ChangeOp.kind : ChangeOp → Nat
  | .legClose .. => 0x11 | .groupAdd .. => 0x12 | .groupRemove .. => 0x13 | .hold .. => 0x14 | .resume .. => 0x15
  | .mute .. => 0x16 | .supervise .. => 0x17 | .unsupervise .. => 0x18 | .sendGain .. => 0x1A | .micSet .. => 0x28
  | .echoSet .. => 0x20

/-- R174: the object a change names, and the group of a GROUP_ADD or GROUP_REMOVE. -/
def ChangeOp.subject : ChangeOp → Member × Option Group
  | .legClose l => (.leg l, none)
  | .groupAdd g m => (m, some g)
  | .groupRemove g m => (m, some g)
  | .hold l _ => (.leg l, none)
  | .resume l => (.leg l, none)
  | .mute p _ => (.pos p, none)
  | .supervise s _ _ _ => (.pos s, none)
  | .unsupervise s => (.pos s, none)
  | .sendGain t _ => (t, none)
  | .micSet p _ _ _ _ => (.pos p, none)
  | .echoSet l _ _ _ => (.leg l, none)

/-! ## The effect of a change when it applies -/

/-- R18: the leg leaves its group and the adaptation list, releases its cost, and its record takes the values of a closed
leg. -/
def closeLeg (l : Leg) (s : State) : State :=
  let r := s.leg l
  if r.state = .closed then s
  else
    let s := match r.group with | some g => leaveGroup g (.leg l) s | none => s
    let s := s.setWork { s.work with
      commitment := s.work.commitment - legCost r.tail, list := s.work.list.filter (· != l) }
    s.setLeg l blankLeg

/-- R79: an OPEN leg becomes HELD on the source with ramp 0; a HELD leg changes its source and keeps its ramp. -/
def holdLeg (l : Leg) (m : Source) (s : State) : State :=
  let r := s.leg l
  match r.state with
  | .opened => s.setLeg l { r with state := .held, source := some m, ramp := 0 }
  | .held => s.setLeg l { r with source := some m }
  | .closed => s

/-- R81: a held leg becomes OPEN, its source absent and its ramp 0. -/
def resumeLeg (l : Leg) (s : State) : State :=
  let r := s.leg l
  match r.state with
  | .held => s.setLeg l { r with state := .opened, source := none, ramp := 0 }
  | .opened => s
  | .closed => s

/-- R25: a record is created for its supervisor, or takes the mode, and a long body's gains. -/
def putSupervision (sup agent : Position) (mode : SupMode) (coach : Option (Nat × Nat)) (s : State) : State :=
  if (asSupervisor s sup).isSome then
    { s with supervision := s.supervision.map (fun r =>
        if r.supervisor == sup then
          match coach with
          | some (g, d) => { r with mode := mode, coachGain := g, coachDuck := d }
          | none => { r with mode := mode }
        else r) }
  else
    let gains := coach.getD (32768, 8192)
    { s with supervision := s.supervision ++
        [{ supervisor := sup, agent := agent, mode := mode, coachGain := gains.1, coachDuck := gains.2 }] }

/-- R30: the target's send gain takes the value. -/
def setSendGain (t : Member) (gain : Nat) (s : State) : State :=
  match t with
  | .leg l => s.setLeg l { s.leg l with sendGain := gain }
  | .pos p => s.setPos p { s.pos p with sendGain := gain }

/-- R72: each selected microphone setting takes its value. -/
def setMic (p : Position) (trim : Option Nat) (offset : Option Int) (floor sidetone : Option Nat) (s : State) : State :=
  let r := s.pos p
  s.setPos p { r with
    sidetone := sidetone.getD r.sidetone
    mic := { r.mic with
      trim := trim.getD r.mic.trim, offset := offset.getD r.mic.offset, floorGain := floor.getD r.mic.floorGain } }

/-- R49, R52, R56: every tap of a leg is set to 0. -/
def clearTaps (ec : Canceller) : Canceller := { ec with taps := ec.taps.map (fun _ => 0) }

/-- R52: the selected echo settings change; a selected bulk delay clears the taps and moves the leg to the head of the
adaptation list. -/
def setEcho (l : Leg) (bulk shift : Option Nat) (nlp : Option Bool) (s : State) : State :=
  let r := s.leg l
  if r.state = .closed then s
  else
    let r := { r with shift := shift.getD r.shift, nlp := nlp.getD r.nlp }
    match bulk with
    | some b => (s.setLeg l { r with bulk := b, ec := clearTaps r.ec }).headOfList l
    | none => s.setLeg l r

/-- The effect of a change when it applies, as its request's entry gives it. -/
def applyOp (op : ChangeOp) (s : State) : State :=
  match op with
  | .legClose l => closeLeg l s
  | .groupAdd g m => joinGroup g m s
  | .groupRemove g m => leaveGroup g m s
  | .hold l m => holdLeg l m s
  | .resume l => resumeLeg l s
  | .mute p on => s.setPos p { s.pos p with muted := on }
  | .supervise sup a mode coach => putSupervision sup a mode coach s
  | .unsupervise sup => { s with supervision := s.supervision.filter (fun r => r.supervisor != sup) }
  | .sendGain t gain => setSendGain t gain s
  | .micSet p trim offset floor sidetone => setMic p trim offset floor sidetone s
  | .echoSet l bulk shift nlp => setEcho l bulk shift nlp s

/-- Changes applied one at a time, from the head. -/
def applyAll (cs : List Change) (s : State) : State := cs.foldl (fun s c => applyOp c.op s) s

/-! ## Projected state and staging -/

/-- R163: the active tables as they would stand with every pending change applied. LEVELS and ECHO stand first here: such
a change for a leg is accepted only before that leg's close, and otherwise commutes with ROUTING
(R168; notes/assumptions/12.md). -/
def projected (s : State) : State := applyAll s.routing.list (applyAll s.echo.list (applyAll s.levels.list s))

/-- R15, R163: a request that has passed its checks is refused FULL when its class's list holds 16 changes; otherwise its
change record joins the tail and the reply carries the pending count, and the fields given. -/
def stageChange (r : Request) (op : ChangeOp) (fields : State → List Byte) (s : State) : Except ResultCode Taken := do
  let st := s.stage op.cls
  require (st.list.length < 16) .full
  let s := s.setStage op.cls { st with list := st.list ++ [{ tag := r.tag, arrival := s.frame, op := op }] }
  return { body := u8 (st.list.length + 1) ++ fields s, state := s }

end Sys2Proof.Machine
end

