-- ==== Sys2Proof/Machine/Flags.lean ====
section
/-! DEFINITION. The conditions the part computes from its state and its blocks share: ATTN, availability and audibility,
eligibility, and the gap of a GAP prompt. -/

namespace Sys2Proof.Machine

/-- R198: ATTN is asserted while the reply or the notice queue holds a frame, and released while held in reset. -/
def State.attn (s : State) : Bool := s.hold.isNone && !(s.link.replies.isEmpty && s.link.notices.isEmpty)

/-- R191, R197: byte k of a read transfer after its lead byte: the outgoing frame, and 0x00 after its last byte. -/
def ReadInProgress.byteOut (x : ReadInProgress) (k : Nat) : Byte := x.bytes.getD k 0

/-- R191, R197: what the part drives on LDO in the byte the host clocks k bytes after the lead byte of the selection: the read
transfer in progress, and 0x00 where there is none or the part is held in reset. -/
def State.ldo (s : State) (k : Nat) : Byte :=
  match s.hold, s.link.reading with
  | none, some x => x.byteOut k
  | none, none => 0
  | some _, _ => 0

/-- R69: Pn's quiet-mask bit. -/
def quietBit (s : State) (p : Position) : Bool := s.quietMask.getLsbD p.val

/-- R6, R69: whether a position's microphone is available in the frame whose QUIET level is the one sampled last. -/
def micAvailable (s : State) (p : Position) : Bool :=
  (s.pos p).enabled && !(s.pos p).muted && !(s.quietLevel && quietBit s p)

/-- R6: a leg is audible when its state is OPEN. -/
def audible (r : LegRec) : Bool := r.state == .opened

/-- R2: a leg that is processed: OPEN or HELD. -/
def LegRec.live (r : LegRec) : Bool := r.state != .closed

/-- R42, R152: a leg's last power against its tail in force. -/
def eligibleNow (r : LegRec) : Bool := decide (r.tail * 1024 ≤ r.ec.lastPower)

/-- R112: no leg that is a member of the position's group has its caller-active flag set. -/
def callersQuiet (s : State) (p : Position) : Bool :=
  match (s.pos p).group with
  | none => true
  | some g => (s.members g).all (fun m => match m with | .leg l => !(s.leg l).ec.callerActive | .pos _ => true)

/-- R112: whether a head prompt's start condition holds. -/
def startHolds (s : State) (p : Position) (r : PromptRec) : Bool :=
  match r.start with
  | .now => true
  | .gap => !(s.pos p).mic.vad && callersQuiet s p

/-- R161: the enabled positions of the part. -/
def enabledCount (s : State) : Nat := vcount (fun r => r.enabled) s.positions

/-- R97: the legs HELD on a source in the active tables. -/
def heldOn (s : State) (m : Source) : Nat := vcount (fun r => r.state == .held && r.source == some m) s.legs

end Sys2Proof.Machine
end

