-- ==== Sys2Proof/Machine/Sources.lean ====
section
/-! DEFINITION. Hold and the music sources (R75 to R97): one frame of a source, its expiry, and the requests. -/

namespace Sys2Proof.Machine

/-! ## Buffer halves (R87) -/

/-- The samples of block b where a half holds it FULL. -/
def Half.samplesOf (b : Nat) : Half → Option (List Sample)
  | .full k v => if k = b then some v else none
  | .empty => none
  | .waiting _ => none
  | .failed _ => none

/-- The samples of block b where either half holds it FULL. -/
def heldBlock (h0 h1 : Half) (b : Nat) : Option (List Sample) := (h0.samplesOf b).or (h1.samplesOf b)

/-- R90, R108: the half that holds a block just left becomes EMPTY. -/
def Half.leave (b : Nat) (h : Half) : Half := if (h.samplesOf b).isSome then .empty else h

def Half.isWaiting : Half → Bool
  | .waiting _ => true | .empty => false | .failed _ => false | .full _ _ => false

def Half.isFailed : Half → Bool
  | .failed _ => true | .empty => false | .waiting _ => false | .full _ _ => false

def Half.isEmpty : Half → Bool
  | .empty => true | .waiting _ => false | .failed _ => false | .full _ _ => false

/-- R89, R107: the WAITING half becomes FULL with the block's samples. -/
def Half.land (v : List Sample) : Half → Half
  | .waiting b => .full b v
  | h => h

/-- R89: the WAITING half becomes FAILED. -/
def Half.fail : Half → Half
  | .waiting b => .failed b
  | h => h

/-! ## What a served read came to (R129) -/

/-- The outcome of a read known at a frame start: its words, or the offset of the word that failed. -/
structure Landed where
  item : FetchItem
  dropped : Bool
  outcome : Except Nat (List Word16)

/-- R124: the samples in some words of prompt memory, low byte first in each word. -/
def samplesIn (words : List Word16) : List Sample := words.map BitVec.toInt

/-- The outcome handed to a requester that has not given it up. -/
def landingFor (r : Requester) (ls : List Landed) : Option (Except Nat (List Word16)) :=
  (ls.find? (fun x => x.item.requester == r && !x.dropped)).map (·.outcome)

/-! ## Stopping (R95) -/

/-- R95: a stop takes effect on the record: the ring, the clip parts and the tone are reset; the settings are kept. -/
def stoppedSource (r : SourceRec) : SourceRec :=
  { r with
    state := .stopped, cmd := .none, ring := [], lowArmed := true, loc := none, index := 0, phase := .first, next := 0,
    half0 := .empty, half1 := .empty, retryDue := false, retrying := false, tonePhase := 0, cadence := 0 }

/-- R95: a stop takes effect, and the source's fetch item is withdrawn. -/
def stopSource (m : Source) (s : State) : State :=
  withdraw (.source m) (s.setSrc m (stoppedSource (s.src m)))

/-! ## The steps of a frame start (R84) -/

/-- R89: step 1, landing: data fills the WAITING half; a failure leaves it FAILED and the source STARVED. -/
def landSource (ls : List Landed) (m : Source) (s : State) : State :=
  let r := s.src m
  if r.kind = .clip ∧ r.state ≠ .stopped ∧ (r.half0.isWaiting || r.half1.isWaiting) = true then
    match landingFor (.source m) ls with
    | none => s
    | some (.ok words) =>
      s.setSrc m { r with
        half0 := r.half0.land (samplesIn words), half1 := r.half1.land (samplesIn words), retrying := false }
    | some (.error _) =>
      raise m.val (.sourceStarved .fault)
        (s.setSrc m { r with
          half0 := r.half0.fail, half1 := r.half1.fail, retryDue := false, retrying := true, state := .starved })
  else s

/-- R94: a pending START takes effect. -/
def startedSource (r : SourceRec) (loc : Option Location) : SourceRec :=
  match r.kind with
  | .stream => { r with cmd := .none, state := .priming, lowArmed := true }
  | .clip =>
    { r with
      cmd := .none, state := .priming, loc := loc, index := 0, phase := .first, next := 0, half0 := .empty,
      half1 := .empty, retryDue := false, retrying := false }
  | .tone => { r with cmd := .none, state := .playing, tonePhase := 0, cadence := 0 }

/-- R84: step 2, the pending command takes effect. -/
def commandSource (m : Source) (s : State) : State :=
  match (s.src m).cmd with
  | .none => s
  | .start loc => s.setSrc m (startedSource (s.src m) loc)
  | .stop => stopSource m s

/-- R83: whether the block at the play pointer is FULL. -/
def pointerHeld (r : SourceRec) : Bool := (heldBlock r.half0 r.half1 (r.index / 256)).isSome

/-- R83, R89: a PRIMING or STARVED source's condition for PLAYING. After a failure the failed block must have landed as data
first (notes/assumptions/23.md). -/
def entryHolds (r : SourceRec) : Bool :=
  match r.kind, r.state with
  | .stream, .priming => decide (512 ≤ r.ring.length)
  | .stream, .starved => decide (512 ≤ r.ring.length)
  | .clip, .priming => pointerHeld r
  | .clip, .starved => pointerHeld r && !r.half0.isFailed && !r.half1.isFailed && !r.retrying
  | _, _ => false

/-- R84: step 3, the entry test. -/
def enterSource (r : SourceRec) : SourceRec := if entryHolds r then { r with state := .playing } else r

/-- R85: the take of a PLAYING stream source. -/
def streamTake (r : SourceRec) : SourceRec × List Sample × Option StarveCause :=
  if 64 ≤ r.ring.length then ({ r with ring := r.ring.drop 64 }, r.ring.take 64, none)
  else ({ r with ring := [], state := .starved }, padTo 64 r.ring, some .underrun)

/-- R90: the pointer advances by one output sample, and a block left is emptied. -/
def advanceClip (loc : Location) (r : SourceRec) : SourceRec :=
  if loc.rate = .khz8 ∧ r.phase = .first then { r with phase := .second }
  else
    let next := if r.index + 1 < loc.length then r.index + 1 else 0
    if next / 256 = r.index / 256 then { r with index := next, phase := .first }
    else
      { r with
        index := next, phase := .first, half0 := r.half0.leave (r.index / 256), half1 := r.half1.leave (r.index / 256) }

/-- R90: one raw sample of a PLAYING clip source; a sample not held makes the source STARVED, and every later sample of
the frame is 0. -/
def clipSample (loc : Location) (a : SourceRec × List Sample) : SourceRec × List Sample :=
  match a.1.state, heldBlock a.1.half0 a.1.half1 (a.1.index / 256) with
  | .playing, some v => (advanceClip loc a.1, v.getD (a.1.index % 256) 0 :: a.2)
  | _, _ => ({ a.1 with state := .starved }, 0 :: a.2)

/-- R90: the 64 raw samples of a PLAYING clip source. -/
def clipPlay (r : SourceRec) : SourceRec × List Sample × Option StarveCause :=
  match r.loc with
  | none => (r, silence, none)
  | some loc =>
    let out := (List.range Config.frameLen).foldl (fun a _ => clipSample loc a) (r, [])
    (out.1, out.2.reverse, if out.1.state = .starved then some .late else none)

/-- R91: the triangle of a phase. -/
def triangle (p : Nat) : Int := if p < 32768 then 2 * p - 32768 else 98303 - 2 * p

/-- R91: one sample of a sounding tone. -/
def toneSample (a : SourceRec × List Sample) : SourceRec × List Sample :=
  ({ a.1 with tonePhase := (a.1.tonePhase + a.1.step) % 65536 },
   ((a.1.amplitude : Int) * triangle a.1.tonePhase + 16384) / 32768 :: a.2)

/-- R91: the cadence counter after a frame; it returns to 0 on reaching on-frames plus off-frames. -/
def stepCadence (r : SourceRec) : SourceRec :=
  { r with cadence := if r.onFrames + r.offFrames ≤ r.cadence + 1 then 0 else r.cadence + 1 }

/-- R91: the 64 raw samples of a tone source. -/
def tonePlay (r : SourceRec) : SourceRec × List Sample × Option StarveCause :=
  if r.cadence < r.onFrames then
    let out := (List.range Config.frameLen).foldl (fun a _ => toneSample a) (r, [])
    (stepCadence out.1, out.2.reverse, none)
  else (stepCadence r, silence, none)

/-- R84: step 4, the raw samples: a PLAYING source forms them by its kind; any other gives 0. -/
def produce (r : SourceRec) : SourceRec × List Sample × Option StarveCause :=
  match r.state, r.kind with
  | .playing, .stream => streamTake r
  | .playing, .clip => clipPlay r
  | .playing, .tone => tonePlay r
  | _, _ => (r, silence, none)

/-- R84: step 5, the output of a raw sample at the source's level. -/
def levelled (level : Nat) (r : Int) : Int := saturate ((r * level + 16384) / 32768)

/-- R86: step 6 of a stream source: the low-water test. -/
def testLow (m : Source) (s : State) : State :=
  let r := s.src m
  if r.kind = .stream ∧ r.state ≠ .stopped ∧ r.ring.length < r.lowMark ∧ r.lowArmed = true then
    raise m.val (.streamLow r.ring.length) (s.setSrc m { r with lowArmed := false })
  else s

/-- R88: the next block after b, wrapping from the clip's last block to block 0. -/
def wrapBlock (length b : Nat) : Nat := if b + 1 < blocksOf length then b + 1 else 0

/-- R88: step 6 of a clip source: it places a fetch item for a retry or for the next block. -/
def placeClip (m : Source) (s : State) : State :=
  let r := s.src m
  match r.kind, r.state, r.loc with
  | .clip, .stopped, _ => s
  | .clip, _, some loc =>
    if (r.half0.isWaiting || r.half1.isWaiting) = true then s
    else if (r.half0.isFailed || r.half1.isFailed) = true then
      if r.retryDue then
        let b := (if r.half0.isFailed then r.half0.block else r.half1.block).getD 0
        let again := fun (h : Half) => if h.isFailed then Half.waiting b else h
        placeItem (blockItem (.source m) loc b)
          (s.setSrc m { r with half0 := again r.half0, half1 := again r.half1, retryDue := false })
      else s.setSrc m { r with retryDue := true }
    else if r.half0.isEmpty ∧ r.half1.block ≠ some r.next then
      placeItem (blockItem (.source m) loc r.next)
        (s.setSrc m { r with half0 := .waiting r.next, next := wrapBlock loc.length r.next })
    else if r.half1.isEmpty ∧ r.half0.block ≠ some r.next then
      placeItem (blockItem (.source m) loc r.next)
        (s.setSrc m { r with half1 := .waiting r.next, next := wrapBlock loc.length r.next })
    else s
  | _, _, _ => s

/-- R84: the six steps of one source at a frame start; the 64 samples are music(M, n). -/
def sourceFrame (ls : List Landed) (m : Source) (s : State) : State × List Sample :=
  let s := commandSource m (landSource ls m s)
  let made := produce (enterSource (s.src m))
  let s := s.setSrc m made.1
  let s := match made.2.2 with | some c => raise m.val (.sourceStarved c) s | none => s
  (placeClip m (testLow m s), made.2.1.map (levelled made.1.level))

/-! ## Requests -/

/-- R78: a leg must not be CLOSED in the projected state. -/
def holdEntry (r : Request) (s : State) : Except ResultCode Taken := do
  whenRunning s
  let l ← objectAt 24 r.body 0
  let m ← objectAt 4 r.body 1
  require (((projected s).leg l).state ≠ .closed) .noObject
  stageChange r (.hold l m) (fun _ => []) s

/-- R80. -/
def resumeEntry (r : Request) (s : State) : Except ResultCode Taken := do
  whenRunning s
  let l ← objectAt 24 r.body 0
  require (((projected s).leg l).state ≠ .closed) .noObject
  require (((projected s).leg l).state = .held) .wrongState
  stageChange r (.resume l) (fun _ => []) s

/-- R92: the settings of the kind, in the reply. -/
def kindSettings (r : SourceRec) : List Byte :=
  match r.kind with
  | .stream => u16 r.lowMark
  | .clip => u16 (r.clip.getD 0)
  | .tone => u16 r.step ++ u16 r.amplitude ++ u16 r.onFrames ++ u16 r.offFrames

/-- R92: the record with a request's kind, level and the settings of that kind. -/
def setSource (kind : SourceKind) (b : List Byte) (r : SourceRec) : SourceRec :=
  let keep := r.kind = .stream ∧ kind = .stream
  let r := { r with kind := kind, level := clampGain (wordAt b 2), lowArmed := true, ring := if keep then r.ring else [] }
  match kind with
  | .stream => { r with lowMark := clampTo 64 1984 (wordAt b 4) }
  | .clip => { r with clip := some (wordAt b 6) }
  | .tone =>
    { r with
      step := clampTo 0 32767 (wordAt b 8), amplitude := clampTo 0 32768 (wordAt b 10),
      onFrames := clampTo 1 65535 (wordAt b 12), offFrames := wordAt b 14, tonePhase := 0, cadence := 0 }

/-- R92. -/
def sourceSetEntry (r : Request) (s : State) : Except ResultCode Taken := do
  let m ← objectAt 4 r.body 0
  let kind ← need (sourceKindOf (byteAt r.body 1)) .badValue
  require (kind = .clip → 1 ≤ wordAt r.body 6 ∧ wordAt r.body 6 ≤ 65534) .badValue
  require ((s.src m).state = .stopped ∧ (s.src m).cmd = .none) .wrongState
  let k := setSource kind r.body (s.src m)
  return { body := u8 k.kind.code ++ u16 k.level ++ kindSettings k, state := s.setSrc m k }

/-- R93: the entry a clip source's clip ID finds in the index. -/
def sourceClip (s : State) (k : SourceRec) : Option IndexEntry := k.clip.bind (lookupClip s.index)

/-- R93: a clip source captures the location its clip ID finds. -/
def sourceStartEntry (r : Request) (s : State) : Except ResultCode Taken := do
  whenRunning s
  let m ← objectAt 4 r.body 0
  let k := s.src m
  require (k.state = .stopped ∧ k.cmd = .none) .wrongState
  let loc ← (if k.kind = .clip then do
      let e ← need (sourceClip s k) .noObject
      return some e.loc
    else return none)
  return { state := s.setSrc m { k with cmd := .start loc }
           body := u8 SourceState.stopped.code ++ u8 1 ++
             (match loc with | some x => u32 x.length ++ u8 x.rate.code | none => []) }

/-- R95. -/
def sourceStopEntry (r : Request) (s : State) : Except ResultCode Taken := do
  whenRunning s
  let m ← objectAt 4 r.body 0
  let k := s.src m
  return { state := s.setSrc m { k with cmd := .stop }, body := u8 k.state.code ++ u8 SourceCmd.stop.code }

/-- R218: the samples of a STREAM_DATA body. -/
def streamSamples (b : List Byte) : List Sample := (List.range (byteAt b 1)).map (fun i => signedAt b (2 + 2 * i))

/-- R96: the samples that fit join the tail of the ring; the rest are dropped. -/
def streamDataEntry (r : Request) (s : State) : Except ResultCode Taken := do
  let m ← objectAt 4 r.body 0
  require (1 ≤ byteAt r.body 1 ∧ byteAt r.body 1 ≤ 120) .badValue
  let k := s.src m
  require (k.kind = .stream) .wrongState
  let taken := (streamSamples r.body).take (2048 - k.ring.length)
  let ring := k.ring ++ taken
  return { body := u8 taken.length ++ u16 ring.length
           state := s.setSrc m { k with ring := ring, lowArmed := k.lowArmed || decide (k.lowMark ≤ ring.length) } }

/-- A location in a reply: a present byte, then its four parts, 0 when absent (notes/assumptions/14.md). -/
def locationBytes : Option Location → List Byte
  | some x => u8 1 ++ u8 x.area.val ++ u32 x.offset ++ u32 x.length ++ u8 x.rate.code
  | none => u8 0 ++ u8 0 ++ u32 0 ++ u32 0 ++ u8 0

/-- A buffer half in a reply: its status and block number, 0 for a half that holds none. -/
def halfBytes (h : Half) : List Byte := u8 h.code ++ u16 (h.block.getD 0)

/-- R93, R97: the location a source has captured: that of a pending START, or the one it plays from. -/
def SourceRec.captured (k : SourceRec) : Option Location :=
  match k.cmd with
  | .start (some x) => some x
  | .start none => k.loc
  | .none => k.loc
  | .stop => k.loc

/-- R97. -/
def sourceQueryEntry (r : Request) (s : State) : Except ResultCode Taken := do
  let m ← objectAt 4 r.body 0
  let k := s.src m
  return { state := s
           body := u8 m.val ++ u8 k.kind.code ++ u8 k.state.code ++ u16 k.level ++ u8 k.cmd.code ++ u8 (heldOn s m) ++
             u16 k.ring.length ++ u16 k.lowMark ++ flag k.lowArmed ++ u16 (k.clip.getD 0) ++ locationBytes k.captured ++
             u32 k.index ++ u8 k.phase.code ++ u16 k.next ++ halfBytes k.half0 ++ halfBytes k.half1 ++ flag k.retryDue ++
             u16 k.step ++ u16 k.amplitude ++ u16 k.onFrames ++ u16 k.offFrames ++ u16 k.tonePhase ++ u32 k.cadence }

/-! ## The commands -/

/-- HOLD (R78). -/
def execHold (s : State) : Host.Outcome State Fault Refusal := .next (executeHead 0x14#8 holdEntry s)

/-- RESUME (R80). -/
def execResume (s : State) : Host.Outcome State Fault Refusal := .next (executeHead 0x15#8 resumeEntry s)

/-- SOURCE_SET (R92). -/
def execSourceSet (s : State) : Host.Outcome State Fault Refusal := .next (executeHead 0x30#8 sourceSetEntry s)

/-- SOURCE_START (R93). -/
def execSourceStart (s : State) : Host.Outcome State Fault Refusal := .next (executeHead 0x31#8 sourceStartEntry s)

/-- SOURCE_STOP (R95). -/
def execSourceStop (s : State) : Host.Outcome State Fault Refusal := .next (executeHead 0x32#8 sourceStopEntry s)

/-- STREAM_DATA (R96). -/
def execStreamData (s : State) : Host.Outcome State Fault Refusal := .next (executeHead 0x33#8 streamDataEntry s)

/-- SOURCE_QUERY (R97). -/
def execSourceQuery (s : State) : Host.Outcome State Fault Refusal := .next (executeHead 0x34#8 sourceQueryEntry s)

/-- TONE_CADENCE_WRAP (R91): the cadence counter of a PLAYING tone source reaches on-frames plus off-frames and returns to
0. FRAME_START takes the same step; alone, the command is due when the counter stands one short
(notes/assumptions/6.md). -/
def execToneCadenceWrap (m : Source) (s : State) : Host.Outcome State Fault Refusal :=
  let r := s.src m
  .next (if s.hold = none ∧ r.kind = .tone ∧ r.state = .playing ∧ r.onFrames + r.offFrames ≤ r.cadence + 1 then
    s.setSrc m (stepCadence r) else s)

end Sys2Proof.Machine
end

