-- ==== Sys2Proof/Machine/Clips.lean ====
section
/-! DEFINITION. Prompt memory and the clip index (R122 to R144): the reads of a frame interval, the fault record, the
scan's landing step, and the requests. -/

namespace Sys2Proof.Machine

/-! ## Reads (R129, R130) -/

/-- R129: whether every word of the item has been read. -/
def Read.complete (x : Read) : Bool := decide (x.item.count ≤ 2 * x.words.length)

/-- A read whose outcome is not decided yet. -/
def Read.open (x : Read) : Bool := !x.complete && x.failed.isNone

/-- R129: the read on the memory bus: the first in the order of service whose outcome is not decided; none where the part is
held in reset. -/
def State.busRead (s : State) : Option Read := if s.hold.isNone then s.reads.find? Read.open else none

/-- R122, R123: the chip select PCS driven for a read: that of its area, one line for each area. -/
def Read.select (x : Read) : AreaNo := x.item.area

/-- R123: the byte address driven on PA[23:0] for the word in progress of a read. -/
def Read.address (x : Read) : BitVec 24 :=
  BitVec.ofNat 24 (x.item.offset + 2 * x.words.length + x.settings.base * 65536)

/-- R122, R123: the chip select and the address on the memory bus, with PRD marking the word there; none where no read is in
progress (notes/assumptions/21.md). -/
def State.memoryBus (s : State) : Option (AreaNo × BitVec 24) := s.busRead.map (fun x => (x.select, x.address))

/-- The reads are made in the order of service: f changes the first whose outcome is not decided. -/
def onCurrentRead (f : Read → Read) : List Read → List Read
  | [] => []
  | x :: xs => if x.open then f x :: xs else x :: onCurrentRead f xs

/-- R129: words delivered to the read in progress; the read takes no more than the item's. -/
def takeWords (words : List Word16) (x : Read) : Read :=
  { x with words := (x.words ++ words).take ((x.item.count + 1) / 2) }

/-- R129, R130: the word in progress ends the read as a failure at its byte offset. -/
def failWord (x : Read) : Read := { x with failed := some (x.item.offset + 2 * x.words.length) }

/-- R130: a word read of an area whose ready use is off completes without regard to PRDY, so it cannot time out. -/
def timeoutWord (x : Read) : Read := if x.settings.ready then failWord x else x

/-- R129: the outcome of a read at the next frame start; one that is not complete is ended there as a failure. -/
def Read.land (x : Read) : Landed :=
  { item := x.item, dropped := x.dropped
    outcome :=
      match x.failed with
      | some o => .error o
      | none => if x.complete then .ok x.words else .error (x.item.offset + 2 * x.words.length) }

/-- R129: an item served becomes a read under its area's settings as they stand. -/
def openRead (s : State) (it : FetchItem) : Read :=
  { item := it, settings := s.area it.area, words := [], failed := none, dropped := false }

/-! ## The fault record (R132) -/

/-- R132: a failure that becomes known latches a clear record and raises FAULT, or counts as a later failure. -/
def takeFault (it : FetchItem) (offset : Nat) (s : State) : State :=
  if s.fault.latched then { s with fault := { s.fault with later := satInc 255 s.fault.later } }
  else
    raise 0 (.fault it.area it.requester)
      { s with fault := { latched := true, area := it.area, offset := offset, requester := it.requester, stamp := s.frame,
                          later := 0 } }

/-- R132: the failures known at a frame start are taken in the order their items were served. -/
def takeFaults (ls : List Landed) (s : State) : State :=
  ls.foldl (fun s x => match x.outcome with | .error o => takeFault x.item o s | .ok _ => s) s

/-! ## The scan's landing step (R135 to R137) -/

/-- R125, R217: a catalogue entry's clip ID, rate, byte offset and length, low byte first, from its eight words. -/
def catalogueEntry (area : AreaNo) (words : List Word16) : Nat × Location :=
  let w := fun i => (words.getD i 0).toNat
  (w 0, { area := area, offset := w 2 + 65536 * w 3, length := w 4 + 65536 * w 5,
          rate := if (words.getD 1 0).getLsbD 0 then .khz8 else .khz16 })

/-- R136: a catalogue entry is judged by the first test that applies, and counted once. -/
def judgeEntry (a : Area) (id : Nat) (loc : Location) (x : Vector (List IndexEntry) 128 × ScanCounts) :
    Vector (List IndexEntry) 128 × ScanCounts :=
  if id = 65535 ∨ validLocation a loc.offset loc.length = false then (x.1, { x.2 with range := x.2.range + 1 })
  else if (lookupClip x.1 id).isSome then (x.1, { x.2 with duplicate := x.2.duplicate + 1 })
  else if 4 ≤ x.1[bucketOf id].length then (x.1, { x.2 with full := x.2.full + 1 })
  else (putEntry { id := id, loc := loc, origin := .catalogue } x.1, { x.2 with indexed := x.2.indexed + 1 })

/-- R135: the chunk's entries in order, until one whose clip ID is 0 ends the catalogue; k counts the entries left. -/
def judgeChunk (no : AreaNo) (a : Area) : Nat → List Word16 → Vector (List IndexEntry) 128 × ScanCounts →
    (Vector (List IndexEntry) 128 × ScanCounts) × Bool
  | 0, _, x => (x, false)
  | k + 1, words, x =>
    let e := catalogueEntry no (words.take 8)
    if e.1 = 0 then (x, true) else judgeChunk no a k (words.drop 8) (judgeEntry a e.1 e.2 x)

/-- R137: the scan ends: IDLE, and REINDEX_DONE with its counts. -/
def endScan (s : State) : State :=
  raise 0 (.reindexDone s.scan.counts) { s with scan := { s.scan with running := false, outstanding := false } }

/-- R135: an area's catalogue has ended: the scan moves to the next area, or ends. The item to place is returned. -/
def scanNextArea (s : State) : State × Option FetchItem :=
  match nextArea s.areas (s.scan.area.val + 1) with
  | some a =>
    ({ s with scan := { s.scan with area := a, chunk := 0, outstanding := true } }, some (chunkItem a 0))
  | none => (endScan s, none)

/-- R134, R135: the scan's landing step; the item it places joins the fetch list after those of the frame start's other
steps (R128), so it is returned. -/
def landScan (ls : List Landed) (s : State) : State × Option FetchItem :=
  if s.scan.running = false then (s, none)
  else if s.scan.outstanding = false then (endScan s, none)
  else
    match landingFor .scan ls with
    | none => (s, none)
    | some (.error _) =>
      scanNextArea { s with scan := { s.scan with
        counts := { s.scan.counts with aborted := s.scan.counts.aborted + 1 }, outstanding := false } }
    | some (.ok words) =>
      let out := judgeChunk s.scan.area (s.area s.scan.area) 16 words (s.index, s.scan.counts)
      let s := { s with index := out.1.1, scan := { s.scan with counts := out.1.2, outstanding := false } }
      if out.2 = true ∨ 15 ≤ s.scan.chunk then scanNextArea s
      else
        ({ s with scan := { s.scan with chunk := s.scan.chunk + 1, outstanding := true } },
         some (chunkItem s.scan.area (s.scan.chunk + 1)))

/-! ## Requests -/

/-- R139: an area's settings in a reply; cost and wait limit lie in 0..255 once in force (R122), so each takes one byte
(R213; notes/assumptions/14.md). -/
def areaBytes (a : Area) : List Byte :=
  flag a.enable ++ u8 a.base ++ u16 a.size ++ u8 a.cost ++ u8 a.wait ++ flag a.ready ++ flag a.catalogue

/-- R138, R139: the own check stands after the field values. -/
def areaSetEntry (r : Request) (s : State) : Except ResultCode Taken := do
  whenStandby s
  let b := r.body
  let no ← objectAt 4 b 0
  let enable ← need (onOff (byteAt b 1)) .badValue
  let ready ← need (onOff (byteAt b 9)) .badValue
  let catalogue ← need (onOff (byteAt b 10)) .badValue
  let base := byteAt b 2
  let size := wordAt b 3
  require (1 ≤ size ∧ size ≤ 256 ∧ base + size ≤ 256) .badValue
  require (s.scan.running = false) .busy
  let a : Area :=
    { enable := enable, base := base, size := size, cost := clampTo 8 255 (wordAt b 5), wait := clampTo 1 255 (wordAt b 7),
      ready := ready, catalogue := catalogue }
  let index := keepEntries (fun e => e.loc.area != no) s.index
  return { state := { s with areas := s.areas.set no a, index := index }
           body := areaBytes a ++ u16 (indexCount s.index - indexCount index) ++ u16 (indexCount index) }

/-- R140: the areas a scan will read, bit n for An. -/
def scanAreas (s : State) : Nat := bits ((List.finRange 4).map (fun a => (s.area a).enable && (s.area a).catalogue))

/-- R140: the reply is ACCEPTED; the scan finishes with REINDEX_DONE. -/
def reindexEntry (_ : Request) (s : State) : Except ResultCode Taken := do
  require (s.scan.running = false) .busy
  let s := startScan s
  return { result := .accepted, state := s, body := u16 (indexCount s.index) ++ u8 (scanAreas s) }

/-- R141: the reply's replaced entry: a yes/no, and its origin where there was one. -/
def replacedBytes : Option IndexEntry → List Byte
  | some e => flag true ++ u8 e.origin.code
  | none => flag false ++ u8 0

/-- R138, R141. -/
def clipDeclareEntry (r : Request) (s : State) : Except ResultCode Taken := do
  let b := r.body
  let id ← clipIdAt b 0
  let no ← objectAt 4 b 2
  let rate ← need (rateOf (byteAt b 3)) .badValue
  let loc : Location := { area := no, offset := longAt b 4, length := longAt b 8, rate := rate }
  require (loc.offset % 2 = 0 ∧ 1 ≤ loc.length) .badValue
  require ((s.area no).enable = true) .noObject
  require (validLocation (s.area no) loc.offset loc.length = true) .badValue
  let old := lookupClip s.index id
  require (old.isSome = true ∨ (s.index[bucketOf id]).length < 4) .full
  let index := putEntry { id := id, loc := loc, origin := .declared } s.index
  return { state := { s with index := index }
           body := u8 (bucketOf id).val ++ replacedBytes old ++ u8 (index[bucketOf id]).length ++ u16 (indexCount index) }

/-- R142. -/
def clipForgetEntry (r : Request) (s : State) : Except ResultCode Taken := do
  let id ← clipIdAt r.body 0
  let e ← need (lookupClip s.index id) .noObject
  let index := keepEntries (fun x => x.id != id) s.index
  return { state := { s with index := index }, body := u8 e.origin.code ++ u16 (indexCount index) }

/-- R143. -/
def clipLookupEntry (r : Request) (s : State) : Except ResultCode Taken := do
  let id ← clipIdAt r.body 0
  let e ← need (lookupClip s.index id) .noObject
  return { state := s
           body := u16 e.id ++ u8 e.loc.area.val ++ u32 e.loc.offset ++ u32 e.loc.length ++ u8 e.loc.rate.code ++
             u8 e.origin.code ++ u8 (bucketOf id).val ++ u8 (s.index[bucketOf id]).length ++ u16 (indexCount s.index) }

/-- R144: the cause field is TIMEOUT, code 0, in every record. -/
def faultReadEntry (_ : Request) (s : State) : Except ResultCode Taken := do
  let f := s.fault
  return { state := { s with fault := blankFault }
           body := flag f.latched ++ u8 0 ++ u8 f.area.val ++ u32 f.offset ++ f.requester.codes ++ u32 f.stamp.toNat ++
             u8 f.later }

/-! ## The commands -/

/-- AREA_SET (R139). -/
def execAreaSet (s : State) : Host.Outcome State Fault Refusal := .next (executeHead 0x40#8 areaSetEntry s)

/-- REINDEX (R140). -/
def execReindex (s : State) : Host.Outcome State Fault Refusal := .next (executeHead 0x41#8 reindexEntry s)

/-- CLIP_DECLARE (R141). -/
def execClipDeclare (s : State) : Host.Outcome State Fault Refusal := .next (executeHead 0x42#8 clipDeclareEntry s)

/-- CLIP_FORGET (R142). -/
def execClipForget (s : State) : Host.Outcome State Fault Refusal := .next (executeHead 0x43#8 clipForgetEntry s)

/-- CLIP_LOOKUP (R143). -/
def execClipLookup (s : State) : Host.Outcome State Fault Refusal := .next (executeHead 0x44#8 clipLookupEntry s)

/-- FAULT_READ (R144). -/
def execFaultRead (s : State) : Host.Outcome State Fault Refusal := .next (executeHead 0x45#8 faultReadEntry s)

/-- FETCH_READ (R123, R129): words on PD reach the read in progress of a served item, which is complete when it has all. -/
def execFetchRead (words : List Word16) (s : State) : Host.Outcome State Fault Refusal :=
  .next (if s.hold = none then { s with reads := onCurrentRead (takeWords words) s.reads } else s)

/-- WORD_READ_TIMEOUT (R130): the word in progress waits past the wait limit and ends its item's read. -/
def execWordReadTimeout (s : State) : Host.Outcome State Fault Refusal :=
  .next (if s.hold = none then { s with reads := onCurrentRead timeoutWord s.reads } else s)

end Sys2Proof.Machine
end

