-- ==== Sys2Proof/Machine/Budget.lean ====
section
/-! DEFINITION. The frame work budget (R145 to R161): the service of a frame start in its opening and closing parts, the
debts, and the requests. -/

namespace Sys2Proof.Machine

/-- R145: the charge of one adaptation of a leg of tail T. -/
def adaptCost (tail : Nat) : Nat := tail / 8

/-- R145: the spare: 2560 less the commitment. -/
def spareOf (s : State) : Nat := Config.frameUnits - s.work.commitment

/-! ## The opening part (R153 to R155) -/

/-- R154: what the opening part works on: the units remaining, the fetch list, the items served in order, the eligible
legs not yet served in list order, the legs served in order, and which lists have stopped. -/
structure Opening where
  units : Nat
  fetch : List FetchItem
  served : List FetchItem
  todo : List Leg
  granted : List Leg
  fetchStopped : Bool
  adaptStopped : Bool
  deriving DecidableEq, Repr

/-- R154: a fetch turn: the head item is served if there is one and it fits; otherwise the fetch list stops. -/
def fetchTurn (cost : AreaNo → Nat) (o : Opening) : Opening :=
  if o.fetchStopped then o
  else
    match o.fetch with
    | it :: rest =>
      if cost it.area ≤ o.units then
        { o with units := o.units - cost it.area, fetch := rest, served := o.served ++ [it] }
      else { o with fetchStopped := true }
    | [] => { o with fetchStopped := true }

/-- R154: one adaptation turn: the first eligible leg not yet served is served if there is one and it fits; otherwise the
adaptation list stops. -/
def adaptTurn (cost : Leg → Nat) (o : Opening) : Opening :=
  if o.adaptStopped then o
  else
    match o.todo with
    | l :: rest =>
      if cost l ≤ o.units then { o with units := o.units - cost l, todo := rest, granted := o.granted ++ [l] }
      else { o with adaptStopped := true }
    | [] => { o with adaptStopped := true }

/-- R154: up to k adaptation turns. -/
def adaptTurns (cost : Leg → Nat) : Nat → Opening → Opening
  | 0, o => o
  | k + 1, o => adaptTurns cost k (adaptTurn cost o)

/-- R154: rounds of one fetch turn and up to ratio adaptation turns, until both lists have stopped. -/
def openingRounds (fcost : AreaNo → Nat) (acost : Leg → Nat) (ratio : Nat) : Nat → Opening → Opening
  | 0, o => o
  | k + 1, o =>
    let o := adaptTurns acost ratio (fetchTurn fcost o)
    if o.fetchStopped && o.adaptStopped then o else openingRounds fcost acost ratio k o

/-- R153: the opening part of a frame start's service: it begins with the whole spare. Each round serves something or
stops a list, so the lists' lengths bound the rounds. -/
def openingPart (s : State) : Opening :=
  let todo := s.work.list.filter (fun l => eligibleNow (s.leg l))
  openingRounds (fun a => (s.area a).cost) (fun l => adaptCost (s.leg l).tail) s.work.ratio
    (s.fetch.length + todo.length + 2)
    { units := spareOf s, fetch := s.fetch, served := [], todo := todo, granted := [], fetchStopped := false,
      adaptStopped := false }

/-- R157: an eligible leg that was not served has its debt raised; one that reaches 250 while armed raises ADAPT_STARVED
and is disarmed. -/
def settleDebt (l : Leg) (s : State) : State :=
  let r := s.leg l
  let debt := satInc 65535 r.work.debt
  let starved := r.work.armed && decide (250 ≤ debt)
  let s := s.setLeg l { r with work := { r.work with debt := debt, armed := r.work.armed && !starved } }
  if starved then raise l.val (.adaptStarved debt r.tail) s else s

/-- R155: a served leg's fields. -/
def grantLeg (l : Leg) (s : State) : State :=
  s.setLeg l { s.leg l with work := { debt := 0, armed := true, granted := true, eligible := true } }

/-- R152, R155: the judgement and the grant of every leg in the list, before the served legs take theirs. -/
def clearGrant (l : Leg) (s : State) : State :=
  let r := s.leg l
  s.setLeg l { r with work := { r.work with granted := false, eligible := eligibleNow r } }

/-- R155, R157: what the opening part leaves: the served legs at the tail of the list in order of service, every leg's
grant, the items served as reads, and the debts of the eligible legs passed by. -/
def settleOpening (o : Opening) (s : State) : State :=
  let s := s.work.list.foldl (fun s l => clearGrant l s) s
  let s := o.granted.foldl (fun s l => grantLeg l s) s
  let s := s.setWork { s.work with list := s.work.list.filter (fun l => !o.granted.contains l) ++ o.granted }
  let s := { s with fetch := o.fetch, reads := s.reads ++ o.served.map (openRead s) }
  o.todo.foldl (fun s l => settleDebt l s) s

/-! ## The closing part (R156, R158) -/

/-- R156: the items served from the head with the units left, the units and the items that remain. -/
def closingServe (cost : AreaNo → Nat) : Nat → List FetchItem → List FetchItem × Nat × List FetchItem
  | units, [] => ([], units, [])
  | units, it :: rest =>
    if cost it.area ≤ units then
      let out := closingServe cost (units - cost it.area) rest
      (it :: out.1, out.2.1, out.2.2)
    else ([], units, it :: rest)

/-- R156, R158: the closing part, and the record of the service. -/
def closingPart (o : Opening) (spare : Nat) (s : State) : State :=
  let out := closingServe (fun a => (s.area a).cost) o.units s.fetch
  let s := { s with fetch := out.2.2, reads := s.reads ++ out.1.map (openRead s) }
  s.setWork { s.work with last :=
    { stamp := s.frame, spare := spare, adaptations := o.granted.length, openingFetches := o.served.length,
      closingFetches := out.1.length, unitsLeft := out.2.1, eligible := o.granted.length + o.todo.length,
      notServed := o.todo.length, itemsLeft := out.2.2.length } }

/-! ## Requests -/

/-- R160. -/
def budgetSetEntry (r : Request) (s : State) : Except ResultCode Taken := do
  let sel := byteAt r.body 0
  require (sel % 4 ≠ 0) .badValue
  let ceiling := if selected sel 0 then clampTo 512 2048 (wordAt r.body 1) else s.work.ceiling
  let ratio := if selected sel 1 then clampTo 1 4 (byteAt r.body 3) else s.work.ratio
  require (selected sel 0 = false ∨ s.work.commitment ≤ ceiling) .conflict
  return { state := s.setWork { s.work with ceiling := ceiling, ratio := ratio }
           body := u16 ceiling ++ u8 ratio ++ u16 s.work.commitment ++ u16 (spareOf s) }

/-- R161: the sum of the leg costs. -/
def legCosts (s : State) : Nat := s.work.list.foldl (fun n l => n + legCost (s.leg l).tail) 0

/-- R161: the record of the last service. -/
def serviceBytes (x : Service) : List Byte :=
  u32 x.stamp.toNat ++ u16 x.spare ++ u8 x.adaptations ++ u8 x.openingFetches ++ u8 x.closingFetches ++ u16 x.unitsLeft ++
    u8 x.eligible ++ u8 x.notServed ++ u8 x.itemsLeft

/-- R161: a leg of the adaptation list. -/
def listedLeg (s : State) (l : Leg) : List Byte :=
  let r := s.leg l
  u8 l.val ++ u16 r.tail ++ flag r.work.eligible ++ flag r.work.granted ++ u16 r.work.debt

/-- R161. -/
def budgetQueryEntry (_ : Request) (s : State) : Except ResultCode Taken := do
  return { state := s
           body := u16 s.work.commitment ++ u8 Config.mixReserve ++ u16 (enabledCount s * Config.positionCost) ++
             u16 (legCosts s) ++ u16 s.work.ceiling ++ u8 s.work.ratio ++ u16 (spareOf s) ++ u8 s.fetch.length ++
             serviceBytes s.work.last ++ u8 s.work.list.length ++ s.work.list.flatMap (listedLeg s) }

/-! ## The commands -/

/-- BUDGET_SET (R160). -/
def execBudgetSet (s : State) : Host.Outcome State Fault Refusal := .next (executeHead 0x48#8 budgetSetEntry s)

/-- BUDGET_QUERY (R161). -/
def execBudgetQuery (s : State) : Host.Outcome State Fault Refusal := .next (executeHead 0x49#8 budgetQueryEntry s)

/-- ADAPT_STARVED (R157): the debt of a leg in the adaptation list that is armed is raised to 250, the notice is raised and
the leg disarmed. FRAME_START takes the same step at the end of the opening part; alone, the command is due when the debt
stands one short (notes/assumptions/6.md). -/
def execAdaptStarved (l : Leg) (s : State) : Host.Outcome State Fault Refusal :=
  let w := (s.leg l).work
  .next (if s.hold = none ∧ l ∈ s.work.list ∧ w.armed = true ∧ 250 ≤ satInc 65535 w.debt then settleDebt l s else s)

end Sys2Proof.Machine
end

