-- ==== Sys2Proof/Machine/Mic.lean ====
section
/-! DEFINITION. The microphone processor (R58 to R74): one frame of a position, its expiry, and its requests. -/

namespace Sys2Proof.Machine

/-- A function of each band. -/
def Bands.map {α β : Type} (f : α → β) (b : Bands α) : Bands β := ⟨f b.b1, f b.b2, f b.b3, f b.b4⟩

/-- A function of each band of two records. -/
def Bands.map2 {α β γ : Type} (f : α → β → γ) (a : Bands α) (b : Bands β) : Bands γ :=
  ⟨f a.b1 b.b1, f a.b2 b.b2, f a.b3 b.b3, f a.b4 b.b4⟩

/-- The four values in band order. -/
def Bands.toList {α : Type} (b : Bands α) : List α := [b.b1, b.b2, b.b3, b.b4]

/-! ## One sample (R61, R62) -/

/-- R61: the offset is removed and the trim applied. -/
def trimSample (trim : Nat) (offset r : Int) : Int := saturate (((r - offset) * trim + 2048) / 4096)

/-- R62: a band state moves toward 256·m by an arithmetic shift of k. -/
def stepBand (k : Nat) (x s : Int) : Int := s + (x - s) / 2 ^ k

/-- The band states and the band values held, newest first. -/
structure BandRun where
  s1 : Int
  s2 : Int
  s3 : Int
  held : List (Bands Int)

/-- R62: the three states move and the four band values are formed. -/
def bandSample (m : Int) (a : BandRun) : BandRun :=
  let x := 256 * m
  let s1 := stepBand 3 x a.s1
  let s2 := stepBand 2 x a.s2
  let s3 := stepBand 1 x a.s3
  { s1 := s1, s2 := s2, s3 := s3, held := ⟨s1, s2 - s1, s3 - s2, x - s3⟩ :: a.held }

/-! ## The frame steps (R63 to R67) -/

/-- R63: a band's energy, from whole-sample values. -/
def bandEnergy (vs : List Int) : Nat := energy (vs.map (fun b => b / 256))

/-- R64: a noise floor meets the frame's energy. -/
def stepFloor (isSet : Bool) (e n : Nat) : Nat := if isSet = false ∨ e < n then e else n + n / 256 + 1

/-- R65: a speech band. -/
def speechBand (e n : Nat) : Bool := decide (4 * n < e)

/-- R65: the VAD hangover after a frame. -/
def stepVadHangover (speech : Bool) (h : Nat) : Nat := if speech then 50 else countDown h

/-- R66: a band's gain moves to its target. -/
def stepGain (floorGain : Nat) (speech : Bool) (g : Nat) : Nat :=
  let target := if speech then 32768 else floorGain
  if g ≤ target then target else max target (g - g / 8)

/-- R67: one output sample. -/
def micOutput (gains : Bands Nat) (b : Bands Int) : Int :=
  saturate (roundShift 23 (total (Bands.map2 (fun (v : Int) (g : Nat) => v * (g : Int)) b gains).toList))

/-- R60 to R67: one frame of a position's microphone on its raw samples: the record it leaves, and its output. -/
def micFrame (m : Mic) (raw : List Sample) : Mic × List Sample :=
  let run := (raw.map (trimSample m.trim m.offset)).foldl (fun a x => bandSample x a)
    { s1 := m.s1, s2 := m.s2, s3 := m.s3, held := [] }
  let held := run.held.reverse
  let energies : Bands Nat :=
    ⟨bandEnergy (held.map (·.b1)), bandEnergy (held.map (·.b2)), bandEnergy (held.map (·.b3)), bandEnergy (held.map (·.b4))⟩
  let floors := Bands.map2 (stepFloor m.floorsSet) energies m.floors
  let speech := Bands.map2 speechBand energies floors
  let speechFrame := decide (2 ≤ (speech.toList.filter id).length)
  let hang := stepVadHangover speechFrame m.vadHangover
  let gains := Bands.map2 (stepGain m.floorGain) speech m.gains
  ({ m with
      s1 := run.s1, s2 := run.s2, s3 := run.s3, energies := energies, floorsSet := true, floors := floors,
      speech := speech, gains := gains, speechFrame := speechFrame, vadHangover := hang, vad := decide (0 < hang) },
   held.map (micOutput gains))

/-! ## Requests -/

/-- R71: the selected settings, clamped. -/
def micSetEntry (r : Request) (s : State) : Except ResultCode Taken := do
  whenRunning s
  let sel := byteAt r.body 1
  require (sel % 16 ≠ 0) .badValue
  let p ← activePosition s (byteAt r.body 0)
  stageChange r
    (.micSet p (whenSelected sel 0 (clampTo 0 16383 (wordAt r.body 2)))
      (whenSelected sel 1 (clampInt (-2048) 2047 (signedAt r.body 4)))
      (whenSelected sel 2 (clampGain (wordAt r.body 6))) (whenSelected sel 3 (clampGain (wordAt r.body 8))))
    (fun s => let k := (applyAll s.levels.list s).pos p
              u16 k.mic.trim ++ i16 k.mic.offset ++ u16 k.mic.floorGain ++ u16 k.sidetone) s

/-- R73: bits at or above the active position count are taken as 0. -/
def quietMaskEntry (r : Request) (s : State) : Except ResultCode Taken := do
  let mask := BitVec.ofNat 16 (wordAt r.body 0 % 2 ^ activeCount s.straps)
  return { body := u16 mask.toNat ++ flag s.quietLevel, state := { s with quietMask := mask } }

/-- R74. The four band speech flags are four bytes, B1 first, each 1 for true (notes/assumptions/14.md). -/
def micQueryEntry (r : Request) (s : State) : Except ResultCode Taken := do
  let p ← activePosition s (byteAt r.body 0)
  let k := s.pos p
  let m := k.mic
  return { state := s
           body := u8 p.val ++ flag k.enabled ++ u16 m.trim ++ i16 m.offset ++ u16 m.floorGain ++ u16 k.sidetone ++
             m.energies.toList.flatMap u40 ++ flag m.floorsSet ++
             m.floors.toList.flatMap (fun n => u40 (if m.floorsSet then n else 0)) ++ m.gains.toList.flatMap u16 ++
             m.speech.toList.flatMap flag ++ flag m.speechFrame ++ u8 m.vadHangover ++ flag m.vad ++ flag k.muted ++
             flag (quietBit s p) ++ flag s.quietLevel ++ flag (k.enabled && k.available) }

/-! ## The commands -/

/-- MIC_SET (R71). -/
def execMicSet (s : State) : Host.Outcome State Fault Refusal := .next (executeHead 0x28#8 micSetEntry s)

/-- QUIET_MASK (R73). -/
def execQuietMask (s : State) : Host.Outcome State Fault Refusal := .next (executeHead 0x29#8 quietMaskEntry s)

/-- MIC_QUERY (R74). -/
def execMicQuery (s : State) : Host.Outcome State Fault Refusal := .next (executeHead 0x2A#8 micQueryEntry s)

/-- VAD_HANGOVER_EXPIRY (R65): a frame that is not a speech frame takes the hangover from 1 to 0, and VAD becomes false.
FRAME_START takes the same step; alone, the command is due when the hangover stands at 1 (notes/assumptions/6.md). -/
def execVadHangoverExpiry (p : Position) (s : State) : Host.Outcome State Fault Refusal :=
  let r := s.pos p
  .next (if s.hold = none ∧ r.enabled = true ∧ r.mic.vadHangover = 1 then
    s.setPos p { r with mic := { r.mic with vadHangover := stepVadHangover false r.mic.vadHangover, vad := false } } else s)

end Sys2Proof.Machine
end

