-- ==== Sys2Proof/Machine/Mix.lean ====
section
/-! DEFINITION. The mix (R8 to R12): the sums of a frame and the samples formed from them.  Every sum is exact; a term is a
sample times a gain. -/

namespace Sys2Proof.Machine

/-- R6: a frame's inputs to the mix: each leg's canceller output, each position's microphone output, each source's output,
and each position's prompt samples with the gain of the prompt that formed them. -/
structure MixIn where
  echo : Vector (List Sample) 24
  mic : Vector (List Sample) 16
  music : Vector (List Sample) 4
  prompt : Vector (Option (List Sample × Nat)) 16

/-- R8, R181: the member's term τ(m, n). While sync is SEEKING or LOST a leg's is 0; the state that counts is the one at the frame
start (notes/assumptions/28.md). -/
def memberTerm (s : State) (x : MixIn) (n : Nat) : Member → Int
  | .leg l => if audible (s.leg l) ∧ s.sync.state = .locked then x.echo[l].getD n 0 * ((s.leg l).sendGain : Int) else 0
  | .pos p => if micAvailable s p then x.mic[p].getD n 0 * ((s.pos p).sendGain : Int) else 0

/-- R8: the barge term an agent member brings, but for that of the record of the supervisor left out. -/
def bargeTerm (s : State) (x : MixIn) (n : Nat) (except : Option Position) : Member → Int
  | .leg _ => 0
  | .pos a =>
    match asAgent s a with
    | some r =>
      if r.mode = .barge ∧ some r.supervisor ≠ except then memberTerm s x n (.pos r.supervisor) else 0
    | none => 0

/-- R8, R9, R12: the sum over a group's members other than one, with the group's barge terms. -/
def groupSum (s : State) (x : MixIn) (n : Nat) (g : Group) (self : Option Member) (except : Option Position) : Int :=
  total (((s.members g).filter (fun m => some m != self)).map (memberTerm s x n)) +
    total ((s.members g).map (bargeTerm s x n except))

/-- R9: the heard sum H(P, n). -/
def heardSum (s : State) (x : MixIn) (p : Position) (n : Nat) : Int :=
  match (s.pos p).group with
  | some g => groupSum s x n g (some (.pos p)) none
  | none =>
    match asSupervisor s p with
    | some r =>
      match (s.pos r.agent).group with
      | some g => groupSum s x n g none (some p)
      | none => memberTerm s x n (.pos r.agent)
    | none => 0

/-- R10: the coaching term. -/
def coachTerm (s : State) (x : MixIn) (p : Position) (n : Nat) : Int :=
  match asAgent s p with
  | some r =>
    if r.mode = .whisper ∧ micAvailable s r.supervisor = true then x.mic[r.supervisor].getD n 0 * (r.coachGain : Int) * 32768
    else 0
  | none => 0

/-- R10: the prompt term. -/
def promptTerm (x : MixIn) (p : Position) (n : Nat) : Int :=
  match x.prompt[p] with
  | some (v, gain) => v.getD n 0 * (gain : Int) * 32768
  | none => 0

/-- R10: the direct sum W(P, n). -/
def directSum (s : State) (x : MixIn) (p : Position) (n : Nat) : Int :=
  promptTerm x p n + coachTerm s x p n + x.mic[p].getD n 0 * ((s.pos p).sidetone : Int) * 32768

/-- R11: an ear sample from its sums. -/
def earValue (duck : Nat) (heard direct : Int) : Int := saturate ((duck * heard + direct + 2 ^ 29) / 2 ^ 30)

/-- R12: an OPEN leg's outbound sample from its group's sum. -/
def outboundValue (sum : Int) : Int := saturate ((sum + 16384) / 32768)

/-- R12: a HELD leg's outbound sample. -/
def heldValue (music : Int) (ramp : Nat) : Int := (music * (ramp : Int) + 16384) / 32768

/-- R11: an ear sample. -/
def earSample (s : State) (x : MixIn) (p : Position) (n : Nat) : Int :=
  if (s.pos p).enabled then earValue (s.pos p).duck (heardSum s x p n) (directSum s x p n) else 0

/-- R12: a leg's outbound sample. -/
def outboundSample (s : State) (x : MixIn) (l : Leg) (n : Nat) : Int :=
  let r := s.leg l
  match r.state with
  | .closed => 0
  | .opened =>
    match r.group with
    | some g => outboundValue (groupSum s x n g (some (.leg l)) none)
    | none => 0
  | .held =>
    match r.source with
    | some m => heldValue (x.music[m].getD n 0) r.ramp
    | none => 0

/-- A frame of 64 samples from the formula of one. -/
def frameOf (f : Nat → Int) : List Sample := (List.range Config.frameLen).map f

/-- R2: the leg bound to a network slot. -/
def legOnSlot (s : State) (k : NetSlot) : Option Leg :=
  (List.finRange 24).find? (fun l => (s.leg l).live && (s.leg l).slot == some k)

/-- R7, R176: the frame formed for a network slot. -/
def slotFrame (s : State) (x : MixIn) (k : NetSlot) : List Sample :=
  match legOnSlot s k with
  | some l => frameOf (outboundSample s x l)
  | none => silence

/-- R7: the mixer forms every frame that leaves the part in the next interval. -/
def formFrames (x : MixIn) (s : State) : State :=
  { s with ports := { s.ports with
      netTx := vgen 32 (slotFrame s x), headTx := vgen 16 (fun p => frameOf (earSample s x p)) } }

end Sys2Proof.Machine
end

