-- ==== Sys2Proof/Machine/Legs.lean ====
section
/-! DEFINITION. The requests of the connection tables (R15 to R33). -/

namespace Sys2Proof.Machine

/-! ## LEG_OPEN -/

/-- R148: the granted tail: the smaller of the rounded request and 16 × (room − 4). -/
def grantedTail (room requested : Nat) : Nat := min (tailValue requested) (16 * (room - 4))

/-- R16: the record of a leg just opened. Bulk delay, adapt shift and NLP keep what the closed record holds. -/
def openedLeg (r : LegRec) (slot : NetSlot) (tail gain : Nat) : LegRec :=
  { r with
    state := .opened, slot := some slot, sendGain := gain, group := none, source := none, ramp := 0, closing := false,
    tail := tail, ec := blankCanceller tail, work := blankLegWork }

/-- R16: whether another leg that is not CLOSED is bound to the slot. -/
def slotTaken (s : State) (l : Leg) (slot : NetSlot) : Bool :=
  (List.finRange 24).any (fun k => k != l && (s.leg k).live && (s.leg k).slot == some slot)

/-- R16. -/
def legOpenEntry (r : Request) (s : State) : Except ResultCode Taken := do
  whenRunning s
  let l ← objectAt 24 r.body 0
  let slot ← objectAt 32 r.body 1
  require ((s.leg l).state = .closed ∧ (s.leg l).closing = false) .wrongState
  require (slotTaken s l slot = false) .conflict
  let tail := grantedTail (s.work.ceiling - s.work.commitment) (wordAt r.body 2)
  require (128 ≤ tail) .noBudget
  let gain := clampGain (wordAt r.body 4)
  let commitment := s.work.commitment + legCost tail
  let s := s.setLeg l (openedLeg (s.leg l) slot tail gain)
  let s := s.setWork { s.work with commitment := commitment, list := moveHead l s.work.list }
  return { body := u16 tail ++ u16 gain ++ u16 commitment, state := s }

/-! ## Staged requests of the tables -/

/-- R17: the closing flag is set when the change is accepted. -/
def legCloseEntry (r : Request) (s : State) : Except ResultCode Taken := do
  whenRunning s
  let l ← objectAt 24 r.body 0
  require (((projected s).leg l).state ≠ .closed) .noObject
  let t ← stageChange r (.legClose l) (fun _ => []) s
  return { t with state := t.state.setLeg l { t.state.leg l with closing := true } }

/-- R19: a leg that is not CLOSED, or a position that is enabled. -/
def memberInService (s : State) : Member → Bool
  | .leg l => (s.leg l).live
  | .pos p => (s.pos p).enabled

/-- R19: a position that is the supervisor of a record. -/
def memberSupervises (s : State) : Member → Bool
  | .leg _ => false
  | .pos p => (asSupervisor s p).isSome

/-- R19. -/
def groupAddEntry (r : Request) (s : State) : Except ResultCode Taken := do
  whenRunning s
  let g ← objectAt 16 r.body 0
  let m ← memberAt s r.body 1
  let p := projected s
  require (memberInService p m = true) .noObject
  require (memberGroup p m = none ∧ memberSupervises p m = false) .conflict
  require ((p.members g).length < 6) .full
  stageChange r (.groupAdd g m) (fun _ => []) s

/-- R21. -/
def groupRemoveEntry (r : Request) (s : State) : Except ResultCode Taken := do
  whenRunning s
  let g ← objectAt 16 r.body 0
  let m ← memberAt s r.body 1
  require (memberGroup (projected s) m = some g) .noObject
  stageChange r (.groupRemove g m) (fun _ => []) s

/-- R23: the on/off code is a field value, checked before the position. -/
def muteEntry (r : Request) (s : State) : Except ResultCode Taken := do
  whenRunning s
  let on ← need (onOff (byteAt r.body 1)) .badValue
  let p ← activePosition s (byteAt r.body 0)
  stageChange r (.mute p on) (fun _ => []) s

/-- R24: the clamped coach gain and coach duck of a long body. -/
def coachFields (b : List Byte) : Option (Nat × Nat) :=
  if b.length = 7 then some (clampGain (wordAt b 3), clampGain (wordAt b 5)) else none

/-- R24. -/
def superviseEntry (r : Request) (s : State) : Except ResultCode Taken := do
  whenRunning s
  let mode ← need (supModeOf (byteAt r.body 2)) .badValue
  let sup ← activePosition s (byteAt r.body 0)
  let agent ← activePosition s (byteAt r.body 1)
  let p := projected s
  require ((p.pos sup).enabled = true ∧ (p.pos agent).enabled = true) .noObject
  require ((p.pos sup).role = .supervisor ∧ (p.pos agent).role = .agent) .conflict
  require ((p.pos sup).group = none) .conflict
  match asSupervisor p sup with
  | some rec' => require (rec'.agent = agent) .conflict
  | none => do
    require (asAgent p agent = none) .conflict
    require (p.supervision.length < 8) .full
  let coach := coachFields r.body
  stageChange r (.supervise sup agent mode coach)
    (fun _ => match coach with | some (g, d) => u16 g ++ u16 d | none => []) s

/-- R26. -/
def unsuperviseEntry (r : Request) (s : State) : Except ResultCode Taken := do
  whenRunning s
  let sup ← activePosition s (byteAt r.body 0)
  require ((asSupervisor (projected s) sup).isSome = true) .noObject
  stageChange r (.unsupervise sup) (fun _ => []) s

/-- R29: a leg must not be CLOSED; a position need not be enabled. -/
def targetOpen (s : State) : Member → Bool
  | .leg l => (s.leg l).live
  | .pos _ => true

/-- R29: the target is checked against the projected state. -/
def sendGainEntry (r : Request) (s : State) : Except ResultCode Taken := do
  whenRunning s
  let t ← memberAt s r.body 0
  require (targetOpen (projected s) t = true) .noObject
  let gain := clampGain (wordAt r.body 2)
  stageChange r (.sendGain t gain) (fun _ => u16 gain) s

/-! ## POSITION_SET -/

/-- R59: the microphone state of a position that is enabled: the settings are kept, the processing starts afresh. -/
def startMic (m : Mic) : Mic :=
  { blankMic with trim := m.trim, offset := m.offset, floorGain := m.floorGain, floors := m.floors }

/-- R59: the microphone state of a position that is disabled. -/
def stopMic (m : Mic) : Mic := { m with vadHangover := 0, vad := false }

/-- R27: a disabled position is put in service. The availability of the last frame stands until the next frame start. -/
def enablePosition (p : Position) (role : Role) (s : State) : State :=
  let r := s.pos p
  let s := s.setPos p { r with
    enabled := true, role := role, duck := 32768, mic := startMic r.mic }
  s.setWork { s.work with commitment := s.work.commitment + Config.positionCost }

/-- R3, R59: a position leaves service: D 32768 and the microphone closed. -/
def closePosition (p : Position) (s : State) : State :=
  let r := s.pos p
  s.setPos p { r with enabled := false, duck := 32768, mic := stopMic r.mic }

/-- R28: an enabled position is taken out of service; its prompts end CANCELLED. -/
def disablePosition (p : Position) (role : Role) (s : State) : State :=
  let s := closePosition p (cancelAll p s)
  let s := s.setPos p { s.pos p with role := role }
  s.setWork { s.work with commitment := s.work.commitment - Config.positionCost }

/-- R27, R28: a position engaged in the active or the projected state. -/
def engagedAnywhere (s : State) (p : Position) : Bool := engaged s p || engaged (projected s) p

/-- R27, R28. -/
def positionSetEntry (r : Request) (s : State) : Except ResultCode Taken := do
  whenRunning s
  let on ← need (onOff (byteAt r.body 1)) .badValue
  let role ← need (roleOf (byteAt r.body 2)) .badValue
  let p ← activePosition s (byteAt r.body 0)
  let enabled := (s.pos p).enabled
  require (¬ (enabled = true ∧ (on = false ∨ role ≠ (s.pos p).role) ∧ engagedAnywhere s p = true)) .conflict
  require (¬ (enabled = false ∧ on = true ∧ s.work.ceiling < s.work.commitment + Config.positionCost)) .noBudget
  let s :=
    if enabled = on then s.setPos p { s.pos p with role := role }
    else if on then enablePosition p role s
    else disablePosition p role s
  return { body := flag on ++ u8 role.code ++ u16 s.work.commitment, state := s }

/-! ## Queries -/

/-- R31, R219. -/
def legQueryEntry (r : Request) (s : State) : Except ResultCode Taken := do
  let l ← objectAt 24 r.body 0
  let k := s.leg l
  return { state := s
           body := u8 l.val ++ u8 k.state.code ++ orAbsent k.slot ++ u16 k.sendGain ++ orAbsent k.group ++
             orAbsent k.source ++ u16 k.ramp ++ u8 (bits [k.closing, k.nlp]) ++ u16 k.tail ++ u16 k.bulk ++ u8 k.shift }

/-- R32: the supervision part: none, as supervisor or as agent, with the other position, mode, coach gain and coach duck. -/
def supervisionPart (s : State) (p : Position) : List Byte :=
  match asSupervisor s p, asAgent s p with
  | some x, _ => u8 1 ++ u8 x.agent.val ++ u8 x.mode.code ++ u16 x.coachGain ++ u16 x.coachDuck
  | none, some x => u8 2 ++ u8 x.supervisor.val ++ u8 x.mode.code ++ u16 x.coachGain ++ u16 x.coachDuck
  | none, none => u8 0 ++ u8 255 ++ u8 0 ++ u16 0 ++ u16 0

/-- R32. -/
def positionQueryEntry (r : Request) (s : State) : Except ResultCode Taken := do
  let p ← activePosition s (byteAt r.body 0)
  let k := s.pos p
  return { state := s
           body := u8 p.val ++ flag k.enabled ++ u8 k.role.code ++ flag k.muted ++ flag (quietBit s p) ++
             flag (k.enabled && k.available) ++ u16 k.sendGain ++ u16 k.sidetone ++ orAbsent k.group ++
             supervisionPart s p ++ u16 k.duck ++ flag (k.enabled && k.mic.vad) }

/-- R33. -/
def groupQueryEntry (r : Request) (s : State) : Except ResultCode Taken := do
  let g ← objectAt 16 r.body 0
  let ms := s.members g
  return { state := s, body := u8 g.val ++ u8 ms.length ++ ms.flatMap Member.codes }

/-! ## The commands -/

/-- LEG_OPEN (R16). -/
def execLegOpen (s : State) : Host.Outcome State Fault Refusal := .next (executeHead 0x10#8 legOpenEntry s)

/-- LEG_CLOSE (R17). -/
def execLegClose (s : State) : Host.Outcome State Fault Refusal := .next (executeHead 0x11#8 legCloseEntry s)

/-- GROUP_ADD (R19). -/
def execGroupAdd (s : State) : Host.Outcome State Fault Refusal := .next (executeHead 0x12#8 groupAddEntry s)

/-- GROUP_REMOVE (R21). -/
def execGroupRemove (s : State) : Host.Outcome State Fault Refusal := .next (executeHead 0x13#8 groupRemoveEntry s)

/-- MUTE (R23). -/
def execMute (s : State) : Host.Outcome State Fault Refusal := .next (executeHead 0x16#8 muteEntry s)

/-- SUPERVISE (R24). -/
def execSupervise (s : State) : Host.Outcome State Fault Refusal := .next (executeHead 0x17#8 superviseEntry s)

/-- UNSUPERVISE (R26). -/
def execUnsupervise (s : State) : Host.Outcome State Fault Refusal := .next (executeHead 0x18#8 unsuperviseEntry s)

/-- POSITION_SET (R27, R28). -/
def execPositionSet (s : State) : Host.Outcome State Fault Refusal := .next (executeHead 0x19#8 positionSetEntry s)

/-- SEND_GAIN (R29). -/
def execSendGain (s : State) : Host.Outcome State Fault Refusal := .next (executeHead 0x1A#8 sendGainEntry s)

/-- LEG_QUERY (R31). -/
def execLegQuery (s : State) : Host.Outcome State Fault Refusal := .next (executeHead 0x1B#8 legQueryEntry s)

/-- POSITION_QUERY (R32). -/
def execPositionQuery (s : State) : Host.Outcome State Fault Refusal := .next (executeHead 0x1C#8 positionQueryEntry s)

/-- GROUP_QUERY (R33). -/
def execGroupQuery (s : State) : Host.Outcome State Fault Refusal := .next (executeHead 0x1D#8 groupQueryEntry s)

end Sys2Proof.Machine
end

