-- ==== Sys2Proof/Machine/Echo.lean ====
section
/-! DEFINITION. The line echo canceller (R34 to R57): one frame of a leg, its expiries and divergence reset, and its
requests. -/

namespace Sys2Proof.Machine

/-! ## Reference history (R37, R38) -/

/-- R37: the value transmitted in a period joins the front, and the oldest value leaves the back. -/
def pushHistory (v : Sample) (h : List Sample) : List Sample := (v :: h).take Config.keptLen

/-- R183: a relock interval of periods 0..j adds 64 values of 0 in place of the j + 1 recorded. -/
def relockHistory (j : Nat) (h : List Sample) : List Sample :=
  (List.replicate Config.frameLen 0 ++ h.drop (j + 1)).take Config.keptLen

/-- R38: the reference values x(n), x(n − 1), ... for sample n of a frame: x(63) is the newest entry. -/
def referenceFrom (h : List Sample) (n : Nat) : List Sample := h.drop (63 - n)

/-- R38: the window of sample n: x_0 .. x_(T−1), from lag Bd. -/
def window (h : List Sample) (n bulk tail : Nat) : List Sample := ((referenceFrom h n).drop bulk).take tail

/-! ## One sample (R41 to R44) -/

/-- The values carried through a frame's samples. outs is e, newest first. -/
structure EchoRun where
  taps : List Int
  hangover : Nat
  doubleTalk : Bool
  quiet : Bool
  outs : List Sample
  power : Nat

/-- R41: y, the rounded and saturated prediction. -/
def predictEcho (taps xs : List Int) : Int := saturate (roundShift 30 (dot taps xs))

/-- R43: the hangover after a sample's double-talk step. -/
def stepHangover (detected : Bool) (h : Nat) : Nat := if detected then 480 else countDown h

/-- R44: the update coefficient c, its quotient truncated toward zero. -/
def updateCoefficient (e : Int) (shift power tail : Nat) : Int :=
  (e * 2 ^ (30 - shift)).tdiv ((power + tail * 256 : Nat) : Int)

/-- R44: every tap becomes clamp32(h_k + c·x_k). -/
def updateTaps (c : Int) (taps xs : List Int) : List Int := List.zipWith (fun h x => clamp32 (h + c * x)) taps xs

/-- R41 to R44: one sample d with its window xs, in the order prediction, power, double talk, update. -/
def echoSample (granted : Bool) (shift tail : Nat) (xs : List Int) (d : Int) (a : EchoRun) : EchoRun :=
  let e := saturate (d - predictEcho a.taps xs)
  let power := energy xs
  let detected := decide (peak xs ≤ 2 * d.natAbs)
  let hangover := stepHangover detected a.hangover
  let update := granted && !detected && hangover == 0 && decide (tail * 1024 ≤ power)
  { taps := if update then updateTaps (updateCoefficient e shift power tail) a.taps xs else a.taps
    hangover := hangover
    doubleTalk := a.doubleTalk || detected
    quiet := a.quiet && hangover == 0
    outs := e :: a.outs
    power := power }

/-- R40: the samples 0..63 in order. -/
def echoSamples (r : LegRec) (d : List Sample) : EchoRun :=
  (List.range Config.frameLen).foldl
    (fun a n => echoSample r.work.granted r.shift r.tail (window r.ec.history n r.bulk r.tail) (d.getD n 0) a)
    { taps := r.ec.taps, hangover := r.ec.hangover, doubleTalk := false, quiet := true, outs := [], power := 0 }

/-! ## The frame steps (R45 to R50) -/

/-- R45: the reference aligned to the start of the echo tail, x(n − Bd) for n = 0..63. -/
def alignedReference (h : List Sample) (bulk : Nat) : List Sample := (h.drop bulk).take Config.frameLen

/-- R47: the caller hangover after a frame of residual energy Er. -/
def stepCallerHangover (er h : Nat) : Nat := if 262144 ≤ er then 50 else countDown h

/-- R48: the divergence count after a frame. -/
def stepDivergence (ed er ex n : Nat) : Nat := if 65536 ≤ ex ∧ ed < er then n + 1 else 0

/-- R46: the non-linear processor's conditions. -/
def nlpApplies (nlp quiet : Bool) (ex : Nat) : Bool := nlp && quiet && decide (65536 ≤ ex)

/-- R46: the residual divided by 8, rounded half up. -/
def attenuate (e : Int) : Int := (e + 4) / 8

/-- R40 to R48, R50: one frame of a leg's canceller on the inbound samples d: the record it leaves, its divergence count
not yet tested against 16, and the output e'. -/
def echoFrame (r : LegRec) (d : List Sample) : LegRec × List Sample :=
  let a := echoSamples r d
  let es := a.outs.reverse
  let ed := energy d
  let er := energy es
  let ex := energy (alignedReference r.ec.history r.bulk)
  let nlp := nlpApplies r.nlp a.quiet ex
  let hang := stepCallerHangover er r.ec.callerHangover
  let ec := { r.ec with
    taps := a.taps, hangover := a.hangover, doubleTalk := a.doubleTalk, lastPower := a.power,
    ed := ed, er := er, ex := ex, nlpApplied := nlp,
    callerHangover := hang, callerActive := decide (0 < hang),
    divergence := stepDivergence ed er ex r.ec.divergence,
    framesAdapted := if r.work.granted then r.ec.framesAdapted + 1 else r.ec.framesAdapted }
  ({ r with ec := ec }, if nlp then es.map attenuate else es)

/-- R49: a divergence reset: the taps, hangover and count are cleared, the leg moves to the head of the adaptation list,
the reset count rises, and DIVERGENCE_RESET is raised. -/
def divergenceResetOf (l : Leg) (s : State) : State :=
  let r := s.leg l
  let n := satInc 65535 r.ec.divergenceResets
  let s := s.setLeg l { r with ec := { clearTaps r.ec with hangover := 0, divergence := 0, divergenceResets := n } }
  raise l.val (.divergenceReset n) (s.headOfList l)

/-- R48, R49: a divergence count that has reached 16 makes a divergence reset. -/
def testDivergence (l : Leg) (s : State) : State :=
  if 16 ≤ (s.leg l).ec.divergence then divergenceResetOf l s else s

/-! ## Requests -/

/-- R53: the selected settings, clamped and rounded. -/
def echoSetEntry (r : Request) (s : State) : Except ResultCode Taken := do
  whenRunning s
  let l ← objectAt 24 r.body 0
  let sel := byteAt r.body 1
  require (sel % 8 ≠ 0) .badValue
  require (selected sel 2 = false ∨ (onOff (byteAt r.body 5)).isSome = true) .badValue
  require (((projected s).leg l).state ≠ .closed) .noObject
  stageChange r
    (.echoSet l (whenSelected sel 0 (bulkValue (wordAt r.body 2))) (whenSelected sel 1 (clampTo 0 6 (byteAt r.body 4)))
      (if selected sel 2 then onOff (byteAt r.body 5) else none))
    (fun s => let k := (applyAll s.echo.list s).leg l; u16 k.bulk ++ u8 k.shift ++ flag k.nlp) s

/-- R55: the taps under a new tail: the first are kept, and zeros are added. -/
def resizeTaps (tail : Nat) (taps : List Int) : List Int := padTo tail taps

/-- R54, R148: the tail ECHO_TAIL is granted. -/
def grantedGrowth (room current requested : Nat) : Nat :=
  if tailValue requested ≤ current then tailValue requested else grantedTail room requested

/-- R54, R55. -/
def echoTailEntry (r : Request) (s : State) : Except ResultCode Taken := do
  whenRunning s
  let l ← objectAt 24 r.body 0
  let k := s.leg l
  require (k.state ≠ .closed ∧ k.closing = false) .noObject
  let others := s.work.commitment - legCost k.tail
  let tail := grantedGrowth (s.work.ceiling - others) k.tail (wordAt r.body 1)
  let commitment := others + legCost tail
  let s := s.setLeg l { k with tail := tail, ec := { k.ec with taps := resizeTaps tail k.ec.taps } }
  return { body := u16 tail ++ u16 commitment, state := s.setWork { s.work with commitment := commitment } }

/-- R56. -/
def echoResetEntry (r : Request) (s : State) : Except ResultCode Taken := do
  whenRunning s
  let l ← objectAt 24 r.body 0
  let k := s.leg l
  require (k.state ≠ .closed ∧ k.closing = false) .noObject
  let s := s.setLeg l { k with ec := { clearTaps k.ec with hangover := 0, divergence := 0 } }
  return { body := [], state := s.headOfList l }

/-- R57, R220. -/
def echoQueryEntry (r : Request) (s : State) : Except ResultCode Taken := do
  let l ← objectAt 24 r.body 0
  let k := s.leg l
  return { state := s
           body := u8 l.val ++ u8 k.state.code ++ u16 k.tail ++ u16 k.bulk ++ u8 k.shift ++
             u8 (bits [k.nlp, k.ec.doubleTalk, k.ec.nlpApplied, k.ec.callerActive]) ++
             u40 k.ec.ed ++ u40 k.ec.er ++ u40 k.ec.ex ++ u16 k.ec.hangover ++ u8 k.ec.divergence ++ u16 k.work.debt ++
             u32 k.ec.framesAdapted.toNat ++ u16 k.ec.divergenceResets }

/-! ## The commands -/

/-- ECHO_SET (R53). -/
def execEchoSet (s : State) : Host.Outcome State Fault Refusal := .next (executeHead 0x20#8 echoSetEntry s)

/-- ECHO_TAIL (R54, R55). -/
def execEchoTail (s : State) : Host.Outcome State Fault Refusal := .next (executeHead 0x21#8 echoTailEntry s)

/-- ECHO_RESET (R56). -/
def execEchoReset (s : State) : Host.Outcome State Fault Refusal := .next (executeHead 0x22#8 echoResetEntry s)

/-- ECHO_QUERY (R57). -/
def execEchoQuery (s : State) : Host.Outcome State Fault Refusal := .next (executeHead 0x23#8 echoQueryEntry s)

/-- DT_HANGOVER_EXPIRY (R43): at a sample without detection the hangover of a processed leg falls from 1 to 0. FRAME_START
takes the same step for each of its samples; alone, the command is due when the hangover stands at 1
(notes/assumptions/6.md). -/
def execDtHangoverExpiry (l : Leg) (s : State) : Host.Outcome State Fault Refusal :=
  let r := s.leg l
  .next (if s.hold = none ∧ r.live = true ∧ r.ec.hangover = 1 then
    s.setLeg l { r with ec := { r.ec with hangover := stepHangover false r.ec.hangover } } else s)

/-- CALLER_HANGOVER_EXPIRY (R47): the caller hangover falls from 1 to 0 and caller-active becomes false. -/
def execCallerHangoverExpiry (l : Leg) (s : State) : Host.Outcome State Fault Refusal :=
  let r := s.leg l
  .next (if s.hold = none ∧ r.live = true ∧ r.ec.callerHangover = 1 then
    s.setLeg l { r with ec := { r.ec with callerHangover := countDown r.ec.callerHangover, callerActive := false } } else s)

/-- DIVERGENCE_RESET (R48, R49): the divergence count of a processed leg goes from 15 to 16, and the reset is made. -/
def execDivergenceReset (l : Leg) (s : State) : Host.Outcome State Fault Refusal :=
  .next (if s.hold = none ∧ (s.leg l).live = true ∧ 15 ≤ (s.leg l).ec.divergence then divergenceResetOf l s else s)

end Sys2Proof.Machine
end

