-- ==== Sys2Proof/Machine/Ports.lean ====
section
/-! DEFINITION. The ports, the frame clock, network sync and the pattern tests (R175 to R190): sample periods and their
marks, the sync record, and the requests. -/

namespace Sys2Proof.Machine

/-! ## Pattern tests (R184 to R186) -/

/-- R184: a record whose test runs. -/
def PortTest.running (t : PortTest) : Bool := t.state != .off

/-- R185: a running test in direction TX or BOTH. -/
def PortTest.sends (t : PortTest) : Bool := t.running && t.dir != .rx

/-- R186: a running test in direction RX or BOTH. -/
def PortTest.checks (t : PortTest) : Bool := t.running && t.dir != .tx

/-- Word k of the pattern. -/
def PortTest.word (t : PortTest) (k : Nat) : Sample := t.pattern.getD k 0

/-- The top value of a 32-bit saturating count. -/
def topCount : Nat := 4294967295

/-- R185: a period in which the slot was transmitted: the index advances, and a TX test counts a word 7 sent. -/
def sentWord (t : PortTest) : PortTest :=
  { t with
    txIndex := (t.txIndex + 1) % 8
    passes := if t.dir = .tx ∧ t.txIndex = 7 then satInc topCount t.passes else t.passes }

/-- R186: the effect of one checked value. -/
def checkedWord (v : Sample) (t : PortTest) : PortTest :=
  match t.expected with
  | none => if v = t.word 0 then { t with expected := some 1 } else t
  | some k =>
    if v = t.word k then
      if k = 7 then { t with expected := some 0, passes := satInc topCount t.passes, state := .locked }
      else { t with expected := some (k + 1) }
    else { t with expected := none, errors := satInc topCount t.errors, state := .seeking }

/-- R187, R189: the test record that governs the period in progress. -/
def acting (s : State) (p : Port) : PortTest := (s.held p).getD (s.test p)

/-- R187, R189: a request changes a port's record, which acts from the next sample period on: in the period in progress, if it
has not been carried, the record it began with goes on (notes/assumptions/27.md). -/
def keepActing (p : Port) (s : State) : State :=
  if s.clockRuns = true ∧ s.clock.carried = false ∧ s.held p = none then s.setHeld p (some (s.test p)) else s

/-- R185, R186: a record's test in a sample period: whether its slot was transmitted, and the value its slot received where
the period is checked. -/
def actTest (sent : Bool) (received : Option Sample) (t : PortTest) : PortTest :=
  let t1 := if t.sends ∧ sent = true then sentWord t else t
  match received with
  | some v => if t.checks then checkedWord v t1 else t1
  | none => t1

/-- R185, R186: one port's test in a sample period; a change of state raises TEST_STATE. A record that a request has changed
within the period does not act in it. -/
def runTest (p : Port) (sent : Bool) (received : Option Sample) (s : State) : State :=
  match s.held p with
  | some _ => s
  | none =>
    let t := s.test p
    let t2 := actTest sent received t
    let s := s.setTest p t2
    if t2.state = t.state then s else raise p.code (.testState t2.state t2.passes t2.errors) s

/-! ## One sample period (R13, R176, R177, R181) -/

/-- R176, R181: the values on NTX in the period in progress; none where it was marked by the internal timebase. -/
def netSent (s : State) : Option (Vector Sample 32) :=
  if s.clock.mark = .internal then none
  else
    some (vgen 32 (fun k =>
      if (acting s .network).sends ∧ (acting s .network).slot = k.val then
        (acting s .network).word (acting s .network).txIndex
      else s.ports.netTx[k].getD s.clock.period 0))

/-- R177: the values on HTX in the period in progress. -/
def headSent (s : State) : Vector Sample 16 :=
  vgen 16 (fun k =>
    if (acting s .headset).sends ∧ (acting s .headset).slot = k.val then
      (acting s .headset).word (acting s .headset).txIndex
    else s.ports.headTx[k].getD s.clock.period 0)

/-- R176, R178, R181: the network values handed to processing: those received in a period a pulse marked, and 0 in any other
and on a slot under an RX or BOTH test. -/
def netTaken (net : Vector Word16 32) (s : State) : Vector Sample 32 :=
  vgen 32 (fun k =>
    if s.clock.mark = .pulse ∧ ¬ ((acting s .network).checks ∧ (acting s .network).slot = k.val) then net[k].toInt else 0)

/-- R177: the microphone values handed to processing. -/
def headTaken (head : Vector Word16 16) (s : State) : Vector Sample 16 :=
  vgen 16 (fun k => if (acting s .headset).checks ∧ (acting s .headset).slot = k.val then 0 else head[k].toInt)

/-- R13, R37: the value a leg's reference history records for the period. -/
def recordedValue (sent : Option (Vector Sample 32)) (r : LegRec) : Sample :=
  match sent, r.slot with
  | some v, some k => v[k]
  | some _, none => 0
  | none, _ => 0

/-- R13, R37: the period's value joins the history of every leg that is not CLOSED. -/
def recordPeriod (sent : Option (Vector Sample 32)) (r : LegRec) : LegRec :=
  if r.live then { r with ec := { r.ec with history := pushHistory (recordedValue sent r) r.ec.history } } else r

/-- The value received on a test's slot. -/
def receivedOn {n : Nat} (v : Vector Word16 n) (t : PortTest) : Sample := (v.toList.map BitVec.toInt).getD t.slot 0

/-- R176, R177, R185, R186: the period in progress is carried: both ports send and receive one value a slot, the histories
record, and the tests act. A flywheel period is checked by no test (R178, R186). -/
def carryPeriod (net : Vector Word16 32) (head : Vector Word16 16) (s : State) : State :=
  let old := s.link.notices.length
  let sent := netSent s
  let s1 := { s with
    legs := vmap (recordPeriod sent) s.legs
    ports := { s.ports with
      ntx := sent, htx := some (headSent s),
      netRx := s.ports.netRx ++ [netTaken net s], headRx := s.ports.headRx ++ [headTaken head s] } }
  let s2 := s1.setClock { s.clock with carried := true }
  let s3 := runTest .network (s.clock.mark != .internal)
    (if s.clock.mark = .pulse then some (receivedOn net s.ports.netTest) else none) s2
  let s4 := runTest .headset true
    (if s.clock.mark = .flywheel then none else some (receivedOn head s.ports.headTest)) s3
  let s5 := orderNew old ((s4.setHeld .network none).setHeld .headset none)
  { s5 with draws := s.draws + 1 }

/-- A sample period is due while the clock runs, for a period in progress that has not been carried, and not while a frame
start is due. -/
def periodDue (s : State) : Bool := s.clockRuns && !s.clock.carried && s.clock.due.isNone

/-! ## Marks (R178) -/

/-- R178, R183: the period in progress ends and the next begins: it ends a frame as period 63, or as period j of a relock
frame. -/
def beginPeriod (kind : MarkKind) (c : Clock) : Clock :=
  if c.prolonged then { period := 0, mark := kind, carried := false, prolonged := false, due := some (.relock c.period) }
  else if c.period = 63 then { period := 0, mark := kind, carried := false, prolonged := false, due := some .whole }
  else { period := c.period + 1, mark := kind, carried := false, prolonged := false, due := c.due }

/-- R178: a mark. A period whose slots no SAMPLE_PERIOD has given is carried first with every received value 0; while a
frame start is due no mark comes (notes/assumptions/7.md). -/
def markPeriod (kind : MarkKind) (s : State) : State :=
  if s.clock.due.isSome then s
  else
    let s := if s.clock.carried then s else carryPeriod (Vector.replicate 32 0) (Vector.replicate 16 0) s
    s.setClock (beginPeriod kind s.clock)

/-! ## Sync (R180 to R183) -/

/-- R181, R183: SYNC is raised with the new state and the two counts. -/
def raiseSync (s : State) : State := raise 0 (.sync s.sync.state s.sync.slips s.sync.losses) s

/-- R181: network sync is lost. -/
def loseSync (s : State) : State :=
  raiseSync { s with sync :=
    { s.sync with state := .lost, seeking := 0, losses := satInc 65535 s.sync.losses } }

/-- R183: the relock: the period in progress is prolonged to the next mark, which ends the frame. -/
def relockSync (s : State) : State :=
  raiseSync { s with
    sync := { s.sync with state := .locked, seeking := 0, slips := satInc 65535 s.sync.slips }
    clock := { s.clock with prolonged := true } }

/-- R182, R183: a pulse taken while SEEKING. -/
def seekPulse (s : State) : State :=
  if 63 ≤ s.sync.seeking then relockSync s else { s with sync := { s.sync with seeking := s.sync.seeking + 1 } }

/-- R178: whether a pulse that comes this long after the period's start ends the period: at 31.25 µs or more, and at any
time a prolonged period. -/
def pulseMarks (since : Nat) (c : Clock) : Bool := c.prolonged || decide (125 ≤ since)

/-- R178, R182: an NSYNC pulse by the sync state. A pulse too early to be a mark moves at most the start time of a flywheel
period. -/
def takePulse (since : Nat) (s : State) : State :=
  match s.sync.state with
  | .locked => if pulseMarks since s.clock then markPeriod .pulse s else s
  | .seeking => seekPulse s
  | .lost => { s with sync := { s.sync with state := .seeking, seeking := 1 } }

/-! ## Requests -/

/-- A test record in a reply: expected is 0xFF when none (notes/assumptions/14.md). -/
def testBytes (t : PortTest) : List Byte :=
  u8 t.state.code ++ u8 t.slot ++ u8 t.dir.code ++ t.pattern.flatMap i16 ++ u8 t.txIndex ++ u8 (t.expected.getD 255) ++
    u32 t.passes ++ u32 t.errors

/-- R184: the count of slots of a port. -/
def Port.slots : Port → Nat
  | .network => 32 | .headset => 16

/-- R187: the record of a test just started. -/
def startedTest (slot : Nat) (dir : TestDir) (pattern : List Sample) : PortTest :=
  { state := if dir = .tx then .locked else .seeking, slot := slot, dir := dir, pattern := pattern, txIndex := 0,
    expected := none, passes := 0, errors := 0 }

/-- R187. -/
def portTestEntry (r : Request) (s : State) : Except ResultCode Taken := do
  let b := r.body
  let port ← need (portOf (byteAt b 0)) .badValue
  let dir ← need (dirOf (byteAt b 2)) .badValue
  let slot := byteAt b 1
  require (slot < port.slots) .badValue
  require (port = .headset → slot < activeCount s.straps) .noObject
  require ((s.test port).state = .off) .wrongState
  let t := startedTest slot dir ((List.range 8).map (fun i => signedAt b (3 + 2 * i)))
  return { body := testBytes t, state := (keepActing port s).setTest port t }

/-- R188. -/
def portTestReadEntry (r : Request) (s : State) : Except ResultCode Taken := do
  let port ← need (portOf (byteAt r.body 0)) .badValue
  return { body := testBytes (s.test port), state := s }

/-- R189: the record of a test stopped. -/
def stoppedTest (t : PortTest) : PortTest := { t with state := .off, expected := none }

/-- R189: a stop of a record already OFF changes nothing. -/
def portTestStopEntry (r : Request) (s : State) : Except ResultCode Taken := do
  let port ← need (portOf (byteAt r.body 0)) .badValue
  let t := s.test port
  if t.running then
    return { body := testBytes (stoppedTest t), state := (keepActing port s).setTest port (stoppedTest t) }
  else return { body := testBytes t, state := s }

/-- R190. -/
def syncQueryEntry (_ : Request) (s : State) : Except ResultCode Taken := do
  return { state := s
           body := u8 s.sync.state.code ++ u8 s.sync.seeking ++ u16 s.sync.slips ++ u16 s.sync.losses ++ u32 s.frame.toNat }

/-! ## The commands -/

/-- PORT_TEST (R187). -/
def execPortTest (s : State) : Host.Outcome State Fault Refusal := .next (executeHead 0x50#8 portTestEntry s)

/-- PORT_TEST_READ (R188). -/
def execPortTestRead (s : State) : Host.Outcome State Fault Refusal := .next (executeHead 0x51#8 portTestReadEntry s)

/-- PORT_TEST_STOP (R189). -/
def execPortTestStop (s : State) : Host.Outcome State Fault Refusal := .next (executeHead 0x52#8 portTestStopEntry s)

/-- SYNC_QUERY (R190). -/
def execSyncQuery (s : State) : Host.Outcome State Fault Refusal := .next (executeHead 0x53#8 syncQueryEntry s)

/-- NSYNC_PULSE (R178, R182): a pulse this long after the start of the period in progress. -/
def execNsyncPulse (since : Nat) (s : State) : Host.Outcome State Fault Refusal :=
  .next (if s.clockRuns then takePulse since s else s)

/-- SYNC_RELOCK (R183): the pulse that would raise the seeking count to 64. -/
def execSyncRelock (s : State) : Host.Outcome State Fault Refusal :=
  .next (if s.clockRuns = true ∧ s.sync.state = .seeking ∧ s.sync.seeking = 63 then relockSync s else s)

/-- SYNC_LOSS (R181): 250 µs pass without a pulse while LOCKED or SEEKING. A loss that falls at a mark is taken before that
mark and a frame start there, so its notice has the stamp from before the increase (notes/assumptions/26.md). -/
def execSyncLoss (s : State) : Host.Outcome State Fault Refusal :=
  .next (if s.clockRuns = true ∧ s.sync.state ≠ .lost then loseSync s else s)

/-- FLYWHEEL_PERIOD (R178): 62.5 µs pass while LOCKED without a pulse, and the timebase marks the next period; none is
marked in a period a relock prolongs (R183). -/
def execFlywheelPeriod (s : State) : Host.Outcome State Fault Refusal :=
  .next (if s.clockRuns = true ∧ s.sync.state = .locked ∧ s.clock.prolonged = false then markPeriod .flywheel s else s)

/-- INTERNAL_MARK (R178): the internal timebase marks a period while SEEKING or LOST; the first one after a loss follows it
(notes/assumptions/26.md). -/
def execInternalMark (s : State) : Host.Outcome State Fault Refusal :=
  .next (if s.clockRuns = true ∧ s.sync.state ≠ .locked then markPeriod .internal s else s)

/-- SAMPLE_PERIOD (R176): the period in progress with the values received on NRX and HRX. -/
def execSamplePeriod (net : Vector Word16 32) (head : Vector Word16 16) (s : State) : Host.Outcome State Fault Refusal :=
  .next (if periodDue s then carryPeriod net head s else s)

end Sys2Proof.Machine
end

