-- ==== Sys2Proof/Machine/Prompts.lean ====
section
/-! DEFINITION. The prompt player (R98 to R121) and the duck gain (R14): one frame of a position's player, its expiry, and
the requests. -/

namespace Sys2Proof.Machine

/-! ## Step 1: expiry (R106) -/

/-- R106: a record's wait count is raised, saturating. -/
def waited (r : PromptRec) : PromptRec := { r with wait := satInc 65535 r.wait }

/-- R106: a record whose wait count, as raised, has reached its deadline. -/
def expires (r : PromptRec) : Bool := r.deadline != 0 && decide (r.deadline ≤ r.wait)

/-- R106: every pending record waits one frame start more; those that reach their deadline end EXPIRED in queue order. -/
def expireStep (p : Position) (s : State) : State :=
  let queue := (s.pos p).queue.map waited
  let s := s.setPos p { s.pos p with queue := queue }
  (queue.filter expires).foldl (fun s r => endPending p .expired r s) s

/-! ## Step 2: the playing slot (R107 to R110) -/

/-- R108: the values carried through a frame's samples of a PLAYING prompt. outs is newest first; missing says that a
sample was not held, ended that the last play-through has ended. -/
structure PlayRun where
  pl : Playing
  outs : List Sample
  missing : Bool
  ended : Bool

/-- R108: the pointer moves to another clip sample, and the half that held a block it leaves becomes EMPTY. -/
def movePointer (next : Nat) (pl : Playing) : Playing :=
  if next / 256 = pl.index / 256 then { pl with index := next, phase := .first }
  else
    { pl with
      index := next, phase := .first, half0 := pl.half0.leave (pl.index / 256), half1 := pl.half1.leave (pl.index / 256) }

/-- R109: a play-through ends: the clip repeats from sample 0, or the prompt ends COMPLETE. -/
def endPass (a : PlayRun) : PlayRun :=
  let pl := { a.pl with prompt := { a.pl.prompt with played := a.pl.prompt.played + 1 } }
  if pl.prompt.played < pl.prompt.repeats then { a with pl := movePointer 0 pl } else { a with pl := pl, ended := true }

/-- R108: the pointer advances by one output sample. -/
def advancePrompt (a : PlayRun) : PlayRun :=
  if a.pl.loc.rate = .khz8 ∧ a.pl.phase = .first then { a with pl := { a.pl with phase := .second } }
  else if a.pl.index + 1 < a.pl.loc.length then { a with pl := movePointer (a.pl.index + 1) a.pl }
  else endPass a

/-- R108, R109: one sample: the held clip sample, or 0 from the first missing one or the end of the last play-through on. -/
def promptSample (a : PlayRun) : PlayRun :=
  if a.ended || a.missing then { a with outs := 0 :: a.outs }
  else
    match heldBlock a.pl.half0 a.pl.half1 (a.pl.index / 256) with
    | some v => advancePrompt { a with outs := v.getD (a.pl.index % 256) 0 :: a.outs }
    | none => { a with outs := 0 :: a.outs, missing := true }

/-- R108: the 64 samples of a PLAYING prompt; a frame with a missing sample is counted once. -/
def promptPlay (pl : Playing) : PlayRun :=
  let a := (List.range Config.frameLen).foldl (fun a _ => promptSample a)
    { pl := pl, outs := [], missing := false, ended := false }
  if a.missing then
    { a with pl := { a.pl with prompt := { a.pl.prompt with underruns := satInc 65535 a.pl.prompt.underruns } } }
  else a

/-- R110: the next fetch after block b of pass k. -/
def nextFetch (length repeats b k : Nat) : Option (Nat × Nat) :=
  if blocksOf length = 1 then none
  else if b + 1 < blocksOf length then some (b + 1, k)
  else if k < repeats then some (0, k + 1)
  else none

/-- R110: a prompt in the slot considers fetching. With both halves EMPTY half 0 becomes WAITING (notes/assumptions/24.md). -/
def placePrompt (p : Position) (s : State) : State :=
  match (s.pos p).slot with
  | none => s
  | some pl =>
    match pl.next with
    | none => s
    | some (b, k) =>
      let next := nextFetch pl.loc.length pl.prompt.repeats b k
      let put := fun (x : Playing) => placeItem (blockItem (.prompt p) pl.loc b) (s.setPos p { s.pos p with slot := some x })
      if (pl.half0.isWaiting || pl.half1.isWaiting) = true then s
      else if pl.half0.isEmpty = true then put { pl with half0 := .waiting b, next := next }
      else if pl.half1.isEmpty = true then put { pl with half1 := .waiting b, next := next }
      else s

/-- R107: data lands in the WAITING half; a PRIMING prompt whose block 0 lands becomes PLAYING. -/
def landPrompt (words : List Word16) (pl : Playing) : Playing :=
  let v := samplesIn words
  let pl' := { pl with half0 := pl.half0.land v, half1 := pl.half1.land v }
  if pl.prompt.state = .priming ∧ (heldBlock pl'.half0 pl'.half1 0).isSome = true then
    { pl' with prompt := { pl'.prompt with state := .playing } }
  else pl'

/-- R107 to R110: the slot's prompt after its landing: a PLAYING prompt forms its samples, then completes or fetches. The
samples handed to the mixer go with the prompt's gain (R105). -/
def playSlot (p : Position) (pl : Playing) (s : State) : State × Option (List Sample × Nat) :=
  if pl.prompt.state = .playing then
    let a := promptPlay pl
    let s := s.setPos p { s.pos p with slot := some a.pl }
    (if a.ended then endSlot p .complete s else placePrompt p s, some (a.outs.reverse, pl.prompt.gain))
  else (placePrompt p (s.setPos p { s.pos p with slot := some pl }), none)

/-- R107: the playing-slot step: the cancel mark, then the landing, then the samples. -/
def slotStep (ls : List Landed) (p : Position) (s : State) : State × Option (List Sample × Nat) :=
  match (s.pos p).slot with
  | none => (s, none)
  | some pl =>
    if pl.prompt.cancel then (endSlot p .cancelled s, none)
    else
      match landingFor (.prompt p) ls with
      | some (.error _) => (endSlot p .clipFault s, none)
      | some (.ok words) => playSlot p (landPrompt words pl) s
      | none => playSlot p pl s

/-! ## Step 3: selection (R111 to R113) -/

/-- R113: the head prompt enters the slot PRIMING at the location captured, and places block 0. -/
def primePrompt (p : Position) (r : PromptRec) (loc : Location) (s : State) : State :=
  let s := s.setPos p { s.pos p with
    queue := (s.pos p).queue.filter (fun x => x.handle != r.handle)
    slot := some { prompt := { r with state := .priming }, loc := loc, half0 := .empty, half1 := .empty, index := 0,
                   phase := .first, next := some (0, 1) } }
  placePrompt p s

/-- R112, R113: with the slot free, the head starts when its condition holds; one that ends NOT_FOUND leaves the slot to
the next head. k bounds the heads tried. -/
def selectHead (ix : Vector (List IndexEntry) 128) (p : Position) : Nat → State → State
  | 0, s => s
  | k + 1, s =>
    match (s.pos p).queue with
    | [] => s
    | r :: _ =>
      if startHolds s p r then
        match lookupClip ix r.clip with
        | some e => primePrompt p r e.loc s
        | none => selectHead ix p k (endPending p .notFound r s)
      else s

/-- R111: whether the head preempts the prompt in the slot. -/
def preempts (s : State) (p : Position) : Bool :=
  match (s.pos p).queue, (s.pos p).slot with
  | r :: _, some pl => r.level == 3 && decide (pl.prompt.level < 3) && startHolds s p r
  | _, _ => false

/-- R111, R112: the selection step, against the index as it stands for this selection. -/
def selectStep (ix : Vector (List IndexEntry) 128) (p : Position) (s : State) : State :=
  let s := if preempts s p then endSlot p .preempted s else s
  if (s.pos p).slot.isSome then s else selectHead ix p 8 s

/-! ## Step 4: the duck gain (R14) -/

/-- R14: the duck target's three values. -/
def duckTarget (s : State) (p : Position) : Nat :=
  let prompt := match (s.pos p).slot with
    | some pl => if pl.prompt.state = .playing then pl.prompt.duck else 32768
    | none => 32768
  let coach := match asAgent s p with
    | some r =>
      if r.mode = .whisper ∧ (s.pos r.supervisor).mic.vad = true ∧ micAvailable s r.supervisor = true then r.coachDuck
      else 32768
    | none => 32768
  min 32768 (min prompt coach)

/-- R14: D moves toward its target. -/
def moveDuck (target d : Nat) : Nat :=
  if target < d then max target (d - 2048) else if d < target then min target (d + 1024) else d

/-- R14: D of a position is moved once. -/
def duckStep (p : Position) (s : State) : State :=
  s.setPos p { s.pos p with duck := moveDuck (duckTarget s p) (s.pos p).duck }

/-- R105: the four steps of an enabled position's prompt player; the samples formed go to the mixer with the gain of the
prompt that formed them. -/
def playerFrame (ix : Vector (List IndexEntry) 128) (ls : List Landed) (p : Position) (s : State) :
    State × Option (List Sample × Nat) :=
  if (s.pos p).enabled then
    let out := slotStep ls p (expireStep p s)
    (duckStep p (selectStep ix p out.1), out.2)
  else (s, none)

/-! ## Requests -/

/-- R101: the record goes after every pending record of the same or a higher level. -/
def insertPrompt (r : PromptRec) (queue : List PromptRec) : List PromptRec :=
  queue.filter (fun x => decide (r.level ≤ x.level)) ++ r :: queue.filter (fun x => decide (x.level < r.level))

/-- R117. -/
def promptQueueEntry (r : Request) (s : State) : Except ResultCode Taken := do
  whenRunning s
  let b := r.body
  let cls ← objectAt 8 b 3
  let start ← need (startOf (byteAt b 4)) .badValue
  let clip ← clipIdAt b 1
  let p ← activePosition s (byteAt b 0)
  require ((s.pos p).enabled = true) .noObject
  require ((s.pos p).queue.length < 8) .full
  let h ← need s.free.min? .full
  require ((lookupClip s.index clip).isSome = true) .noObject
  let level := s.classMap[cls]
  let rec' : PromptRec :=
    { handle := h, clip := clip, cls := cls.val, level := level, start := start, gain := clampGain (wordAt b 5),
      duck := clampGain (wordAt b 7), deadline := wordAt b 9, repeats := clampTo 1 8 (byteAt b 11), played := 0, wait := 0,
      cancel := false, underruns := 0, state := .pending, result := none, stamp := 0 }
  let place := ((s.pos p).queue.filter (fun x => decide (level ≤ x.level))).length
  let queue := insertPrompt rec' (s.pos p).queue
  let free := s.free.erase h
  return { state := { s.setPos p { s.pos p with queue := queue } with free := free }
           body := u8 h.val ++ u8 level ++ u8 place ++ u8 queue.length ++ u8 free.length ++ u16 rec'.gain ++
             u16 rec'.duck ++ u8 rec'.repeats }

/-- The position whose pending queue holds a handle, with the record. -/
def pendingAt (s : State) (h : Handle) : Option (Position × PromptRec) :=
  (List.finRange 16).findSome? (fun p => ((s.pos p).queue.find? (fun r => r.handle == h)).map (fun r => (p, r)))

/-- The position whose playing slot holds a handle, with the slot. -/
def playingAt (s : State) (h : Handle) : Option (Position × Playing) :=
  (List.finRange 16).findSome? (fun p =>
    ((s.pos p).slot.filter (fun pl => pl.prompt.handle == h)).map (fun pl => (p, pl)))

/-- R118: a pending prompt ends CANCELLED at once, a started one is marked, and any other handle is refused. The reply has the
fields in R118's order, state, marked, handle and position (R213), marked 0 for a prompt ended (notes/assumptions/14.md). -/
def promptCancelEntry (r : Request) (s : State) : Except ResultCode Taken := do
  let h ← objectAt 128 r.body 0
  match pendingAt s h, playingAt s h with
  | some (p, k), _ =>
    return { state := endPending p .cancelled k s
             body := u8 PromptState.done.code ++ flag false ++ u8 h.val ++ u8 p.val }
  | none, some (p, pl) =>
    return { state := s.setPos p { s.pos p with slot := some { pl with prompt := { pl.prompt with cancel := true } } }
             body := u8 pl.prompt.state.code ++ flag true ++ u8 h.val ++ u8 p.val }
  | none, none => .error .wrongState

/-- R103, R216: a done record's seven fields, in 12 bytes. -/
def doneBytes (r : PromptRec) : List Byte :=
  u8 r.handle.val ++ u16 r.clip ++ u8 r.cls ++ u8 (match r.result with | some x => x.code | none => 0) ++ u8 r.played ++
    u16 r.underruns ++ u32 r.stamp.toNat

/-- R119, R216. -/
def promptDrainEntry (r : Request) (s : State) : Except ResultCode Taken := do
  let p ← activePosition s (byteAt r.body 0)
  let out := (s.pos p).done.take 8
  let left := (s.pos p).done.drop 8
  return { state := { s.setPos p { s.pos p with done := left } with
                      free := out.foldl (fun f x => freeHandle x.handle f) s.free }
           body := u8 out.length ++ out.flatMap doneBytes ++ u8 left.length }

/-- R120. -/
def classMapEntry (r : Request) (s : State) : Except ResultCode Taken := do
  require (∀ i ∈ List.range 8, byteAt r.body i ≤ 3) .badValue
  let map := vgen 8 (fun i => byteAt r.body i.val)
  return { state := { s with classMap := map }, body := map.toList.flatMap u8 }

/-- R121: a pending record's fields. -/
def pendingBytes (r : PromptRec) : List Byte :=
  u8 r.handle.val ++ u16 r.clip ++ u8 r.cls ++ u8 r.level ++ u8 r.start.code ++ u16 r.wait ++ u16 r.deadline

/-- R121: the slot's fields behind a present byte, 0 when absent (notes/assumptions/14.md). -/
def slotBytes : Option Playing → List Byte
  | some pl =>
    let k := pl.prompt
    u8 1 ++ u8 k.handle.val ++ u16 k.clip ++ u8 k.level ++ u8 k.state.code ++ flag k.cancel ++ u8 k.played ++
      u8 k.repeats ++ u16 k.underruns ++ u32 pl.index ++ u8 pl.phase.code
  | none => List.replicate 16 0

/-- R121. -/
def promptQueryEntry (r : Request) (s : State) : Except ResultCode Taken := do
  let p ← activePosition s (byteAt r.body 0)
  let k := s.pos p
  let waiting := match k.slot with | some pl => pl.half0.isWaiting || pl.half1.isWaiting | none => false
  return { state := s
           body := u8 p.val ++ flag k.enabled ++ u8 s.free.length ++ u8 k.queue.length ++ k.queue.flatMap pendingBytes ++
             slotBytes k.slot ++ flag waiting ++ u8 k.done.length ++ u16 k.duck }

/-! ## The commands -/

/-- PROMPT_QUEUE (R117). -/
def execPromptQueue (s : State) : Host.Outcome State Fault Refusal := .next (executeHead 0x38#8 promptQueueEntry s)

/-- PROMPT_CANCEL (R118). -/
def execPromptCancel (s : State) : Host.Outcome State Fault Refusal := .next (executeHead 0x39#8 promptCancelEntry s)

/-- PROMPT_DRAIN (R119). -/
def execPromptDrain (s : State) : Host.Outcome State Fault Refusal := .next (executeHead 0x3A#8 promptDrainEntry s)

/-- CLASS_MAP (R120). -/
def execClassMap (s : State) : Host.Outcome State Fault Refusal := .next (executeHead 0x3B#8 classMapEntry s)

/-- PROMPT_QUERY (R121). -/
def execPromptQuery (s : State) : Host.Outcome State Fault Refusal := .next (executeHead 0x3C#8 promptQueryEntry s)

/-- PROMPT_EXPIRE (R106): a pending prompt of an enabled position whose wait count reaches its deadline ends EXPIRED.
FRAME_START takes the same step for every pending record; alone, the command is due when one frame start more reaches the
deadline (notes/assumptions/6.md). -/
def execPromptExpire (h : Handle) (s : State) : Host.Outcome State Fault Refusal :=
  .next (match pendingAt s h with
    | some (p, r) =>
      if s.hold = none ∧ (s.pos p).enabled = true ∧ expires (waited r) = true then endPending p .expired (waited r) s else s
    | none => s)

end Sys2Proof.Machine
end

