-- ==== Sys2Proof/Machine/Stager.lean ====
section
/-! DEFINITION. The change stager (R162 to R174): application at a frame start, the APPLY edge, and the requests. -/

namespace Sys2Proof.Machine

/-! ## Application at a frame start (R166 to R169) -/

/-- The counts a frame start's application makes, and the legs a HOLD has just put on hold (R76). -/
structure Applied where
  state : State
  levelsDropped : Nat
  echoDropped : Nat
  fresh : List Leg

/-- R167: whether a pending change is a SEND_GAIN or ECHO_SET of a leg. -/
def namesLeg (l : Leg) (c : Change) : Bool :=
  match c.op with
  | .sendGain t _ => t == .leg l
  | .echoSet k _ _ _ => k == l
  | _ => false

/-- R167: an applied close purges the leg's pending LEVELS and ECHO changes, which count as discarded. -/
def purgeLeg (l : Leg) (a : Applied) : Applied :=
  let s := a.state
  let keep := fun (c : Change) => !namesLeg l c
  { a with
    state := { s with levels := { s.levels with list := s.levels.list.filter keep },
                      echo := { s.echo with list := s.echo.list.filter keep } }
    levelsDropped := a.levelsDropped + (s.levels.list.filter (namesLeg l)).length
    echoDropped := a.echoDropped + (s.echo.list.filter (namesLeg l)).length }

/-- R166: one change is applied on the tables as the one before it left them. -/
def applyChange (a : Applied) (c : Change) : Applied :=
  let next := { a with state := applyOp c.op a.state }
  match c.op with
  | .legClose l => purgeLeg l next
  | .hold l _ => if (a.state.leg l).state = .opened then { next with fresh := l :: a.fresh } else next
  | _ => next

/-- R166: a class that applies at this frame start. -/
def classDue (s : State) (c : ChangeClass) : Bool := (s.stage c).nextFrame || (s.stage c).latch

/-- R166: a class's whole list is applied from the head; the records leave the list and the latch is cleared. The list
stands as it is when the class's turn comes. -/
def applyClass (a : Applied) (c : ChangeClass) : Applied :=
  let st := a.state.stage c
  let cleared := a.state.setStage c { st with list := [], latch := false }
  st.list.foldl applyChange { a with state := cleared }

/-- R169: a class's APPLIED notice, for a class that applied or lost a record. -/
def raiseApplied (c : ChangeClass) (applied : List Change) (dropped : Nat) (s : State) : State :=
  if applied.isEmpty ∧ dropped = 0 then s
  else raise c.code (.applied applied.length dropped (applied.getLast?.map (·.tag))) s

/-- R166, R168: the classes due, with changes, in the order the part takes them. -/
def applyOrder (s : State) : List ChangeClass :=
  shuffle (Config.classOrder s.draws)
    ([ChangeClass.routing, ChangeClass.levels, ChangeClass.echo].filter (fun c => classDue s c && !(s.stage c).list.isEmpty))

/-- The changes each class has applied: those of its list less the ones a close purged before its turn. -/
def applyInOrder : List ChangeClass → Applied × List (ChangeClass × List Change) → Applied × List (ChangeClass × List Change)
  | [], x => x
  | c :: cs, (a, done) => applyInOrder cs (applyClass a c, done ++ [(c, (a.state.stage c).list)])

/-- The changes a class applied. -/
def appliedOf (c : ChangeClass) (done : List (ChangeClass × List Change)) : List Change :=
  ((done.find? (fun x => x.1 == c)).map (·.2)).getD []

/-- A due class's latch is cleared, also where its list is empty (R166). -/
def clearLatches (s : State) : State :=
  let clear := fun (st : Stage) => if st.nextFrame || st.latch then { st with latch := false } else st
  { s with routing := clear s.routing, levels := clear s.levels, echo := clear s.echo }

/-- R166 to R169: the stager's application at a frame start while the part is RUNNING, with the legs freshly held. -/
def stageApplication (s : State) : State × List Leg :=
  let out := applyInOrder (applyOrder s) ({ state := s, levelsDropped := 0, echoDropped := 0, fresh := [] }, [])
  let s := clearLatches out.1.state
  let s := raiseApplied .routing (appliedOf .routing out.2) 0 s
  let s := raiseApplied .levels (appliedOf .levels out.2) out.1.levelsDropped s
  let s := raiseApplied .echo (appliedOf .echo out.2) out.1.echoDropped s
  (s, out.1.fresh)

/-! ## Requests -/

/-- A class's mask in a reply: bit 0 NEXT_FRAME, bit 1 APPLY_LINE. -/
def maskBits (st : Stage) : Nat := bits [st.nextFrame, st.applyLine]

/-- R171, R213: the bits above the two sources are ignored, so no byte names a source that R170 refuses
(notes/assumptions/13.md). -/
def stageModeEntry (r : Request) (s : State) : Except ResultCode Taken := do
  let c ← need (classOf (byteAt r.body 0)) .badValue
  let src := byteAt r.body 1
  let s := s.setStage c { s.stage c with nextFrame := selected src 0, applyLine := selected src 1 }
  let all := [s.routing, s.levels, s.echo]
  return { state := s
           body := all.flatMap (fun st => u8 (maskBits st)) ++ all.flatMap (fun st => flag st.latch) ++
             all.flatMap (fun st => u8 st.list.length) }

/-- The classes a selection byte names, in class order. -/
def namedClasses (sel : Nat) : List ChangeClass :=
  [ChangeClass.routing, ChangeClass.levels, ChangeClass.echo].filter (fun c => selected sel c.code)

/-- R172: a class's latch is set if its list is not empty. -/
def latchIfPending (st : Stage) : Stage := if st.list.isEmpty then st else { st with latch := true }

/-- R172: whatever the masks. -/
def applyEntry (r : Request) (s : State) : Except ResultCode Taken := do
  let sel := byteAt r.body 0
  require (sel % 8 ≠ 0) .badValue
  let hit := (namedClasses sel).filter (fun c => !(s.stage c).list.isEmpty)
  let s := (namedClasses sel).foldl (fun s c => s.setStage c (latchIfPending (s.stage c))) s
  return { state := s
           body := u8 (bits ([ChangeClass.routing, .levels, .echo].map (fun c => hit.contains c))) ++
             hit.flatMap (fun c => u8 (s.stage c).list.length) }

/-- R2, R173: the closing flags of the closes in a list are cleared. -/
def clearClosing (cs : List Change) (s : State) : State :=
  cs.foldl (fun s c =>
    match c.op with
    | .legClose l => s.setLeg l { s.leg l with closing := false }
    | _ => s) s

/-- R173: a class's list is emptied without applying, its latch cleared, its mask kept. -/
def discardClass (c : ChangeClass) (s : State) : State :=
  let st := s.stage c
  (clearClosing st.list s).setStage c { st with list := [], latch := false }

/-- R173. -/
def discardEntry (r : Request) (s : State) : Except ResultCode Taken := do
  let sel := byteAt r.body 0
  require (sel % 8 ≠ 0) .badValue
  let named := namedClasses sel
  return { state := named.foldl (fun s c => discardClass c s) s
           body := named.flatMap (fun c => u8 (s.stage c).list.length) }

/-- R174: a change record in a reply: kind, tag, arrival frame, subject, and the group of a GROUP_ADD or GROUP_REMOVE. -/
def changeBytes (c : Change) : List Byte :=
  u8 c.op.kind ++ [c.tag] ++ u32 c.arrival.toNat ++ c.op.subject.1.codes ++ orAbsent c.op.subject.2

/-- R174. -/
def stageQueryEntry (r : Request) (s : State) : Except ResultCode Taken := do
  let c ← need (classOf (byteAt r.body 0)) .badValue
  return { state := s
           body := [s.routing, s.levels, s.echo].flatMap (fun st => u8 st.list.length ++ u8 (maskBits st) ++ flag st.latch) ++
             (s.stage c).list.flatMap changeBytes }

/-! ## The commands -/

/-- STAGE_MODE (R171). -/
def execStageMode (s : State) : Host.Outcome State Fault Refusal := .next (executeHead 0x4C#8 stageModeEntry s)

/-- APPLY (R172). -/
def execApply (s : State) : Host.Outcome State Fault Refusal := .next (executeHead 0x4D#8 applyEntry s)

/-- DISCARD (R173). -/
def execDiscard (s : State) : Host.Outcome State Fault Refusal := .next (executeHead 0x4E#8 discardEntry s)

/-- STAGE_QUERY (R174). -/
def execStageQuery (s : State) : Host.Outcome State Fault Refusal := .next (executeHead 0x4F#8 stageQueryEntry s)

/-- R165: a class's latch at an edge on APPLY. -/
def edgeOn (st : Stage) : Stage := if st.applyLine then latchIfPending st else st

/-- APPLY_EDGE (R165): each class whose mask holds APPLY_LINE and whose list is not empty is latched. -/
def execApplyEdge (s : State) : Host.Outcome State Fault Refusal :=
  .next (if s.hold = none then
    { s with routing := edgeOn s.routing, levels := edgeOn s.levels, echo := edgeOn s.echo } else s)

end Sys2Proof.Machine
end

