-- ==== Sys2Proof/Machine/Frame.lean ====
section
/-! DEFINITION. The frame start (R7, R179): the frame clock's actions, and the steps of every block in their order. -/

namespace Sys2Proof.Machine

/-! ## The frame clock's part (R179, R183) -/

/-- R176, R183: the 64 inbound values of a network slot; all 0 in a relock frame. -/
def netInbound (e : FrameEnd) (k : NetSlot) (s : State) : List Sample :=
  match e with
  | .whole => padTo Config.frameLen (s.ports.netRx.map (fun v => v[k]))
  | .relock _ => silence

/-- R177, R183: the 64 microphone values of a headset slot; 0 for the periods a relock frame does not hold. -/
def headInbound (p : Position) (s : State) : List Sample := padTo Config.frameLen (s.ports.headRx.map (fun v => v[p]))

/-- R183: a relock interval's 64 values of 0 in the history of a leg that is not CLOSED. -/
def completeHistory (e : FrameEnd) (r : LegRec) : LegRec :=
  match e with
  | .whole => r
  | .relock j => if r.live then { r with ec := { r.ec with history := relockHistory j r.ec.history } } else r

/-- R179: the frame counter rises, QUIET is sampled, and the histories of a relock interval are completed. -/
def openFrame (e : FrameEnd) (quiet : Bool) (s : State) : State :=
  { s with frame := s.frame + 1, quietLevel := quiet, legs := vmap (completeHistory e) s.legs }

/-- R179: the collection is emptied for the frame that begins, and the frame start has been taken. -/
def closeFrame (s : State) : State :=
  { s with ports := { s.ports with netRx := [], headRx := [] }, clock := { s.clock with due := none } }

/-! ## The first stage (R7) -/

/-- R76: the ramp of a leg HELD for this frame and the one before, which no HOLD has just put on hold. -/
def raiseRamp (before : State) (fresh : List Leg) (s : State) (l : Leg) : State :=
  let r := s.leg l
  if r.state = .held ∧ (before.leg l).state = .held ∧ l ∉ fresh then
    s.setLeg l { r with ramp := min 32768 (r.ramp + 2048) }
  else s

/-- R76: every ramp. -/
def rampStep (before : State) (fresh : List Leg) (s : State) : State :=
  (List.finRange 24).foldl (raiseRamp before fresh) s

/-- R40, R48: one leg's canceller, its output kept at the end of the outputs so far. -/
def echoLeg (e : FrameEnd) (a : State × List (List Sample)) (l : Leg) : State × List (List Sample) :=
  let r := a.1.leg l
  match r.state, r.slot with
  | .closed, _ => (a.1, a.2 ++ [silence])
  | _, none => (a.1, a.2 ++ [silence])
  | _, some k =>
    let out := echoFrame r (netInbound e k a.1)
    (testDivergence l (a.1.setLeg l out.1), a.2 ++ [out.2])

/-- R40: the canceller bank. -/
def echoStep (e : FrameEnd) (s : State) : State × List (List Sample) := (List.finRange 24).foldl (echoLeg e) (s, [])

/-- R6, R60: one position's microphone, and its availability in this frame; a disabled position's is not available. -/
def micLeg (a : State × List (List Sample)) (p : Position) : State × List (List Sample) :=
  let r := a.1.pos p
  if r.enabled then
    let out := micFrame r.mic (headInbound p a.1)
    (a.1.setPos p { r with mic := out.1, available := micAvailable a.1 p }, a.2 ++ [out.2])
  else (a.1.setPos p { r with available := false }, a.2 ++ [silence])

/-- R60: the microphone processor. -/
def micStep (s : State) : State × List (List Sample) := (List.finRange 16).foldl micLeg (s, [])

/-- R84: the music sources in increasing number. -/
def sourceStep (ls : List Landed) (s : State) : State × List (List Sample) :=
  (List.finRange 4).foldl (fun a m => let out := sourceFrame ls m a.1; (out.1, a.2 ++ [out.2])) (s, [])

/-- R105: the prompt players in increasing position number. A selection reads the clip index before or after the scan's
landing step of this frame start, as the part takes it (R135). -/
def playerStep (ls : List Landed) (before after : Vector (List IndexEntry) 128) (s : State) :
    State × List (Option (List Sample × Nat)) :=
  let draw := s.draws
  (List.finRange 16).foldl
    (fun a p =>
      let ix := if Config.selectsAfterScan draw p.val then after else before
      let out := playerFrame ix ls p a.1
      (out.1, a.2 ++ [out.2])) (s, [])

/-- R128: the scan's item joins after those of the frame start's other steps. -/
def placeScan (it : Option FetchItem) (s : State) : State := match it with | some x => placeItem x s | none => s

/-! ## The frame in each part state -/

/-- R7: a frame start in RUNNING, after the staged changes have applied and the service's opening part is made: the steps of
the canceller bank, the microphones, the sources, the players and the scan, the closing part, and the mix. -/
def audioFrame (e : FrameEnd) (ls : List Landed) (o : Opening) (spare : Nat) (s : State) : State :=
  let echo := echoStep e s
  let mic := micStep echo.1
  let music := sourceStep ls mic.1
  let scan := landScan ls music.1
  let prompt := playerStep ls music.1.index scan.1.index scan.1
  let s := closingPart o spare (placeScan scan.2 prompt.1)
  formFrames
    { echo := vgen 24 (fun l => echo.2.getD l.val []), mic := vgen 16 (fun p => mic.2.getD p.val []),
      music := vgen 4 (fun m => music.2.getD m.val []), prompt := vgen 16 (fun p => prompt.2.getD p.val none) } s

/-- R7, R153, R166: a frame start in RUNNING. -/
def runningFrame (e : FrameEnd) (ls : List Landed) (s : State) : State :=
  let applied := stageApplication s
  let o := openingPart applied.1
  audioFrame e ls o (spareOf applied.1) (rampStep s applied.2 (settleOpening o applied.1))

/-- R153, R210: a frame start in STANDBY: the fetch list is served for a running scan, no microphone is available (R6), and
both ports carry 0. -/
def standbyFrame (ls : List Landed) (s : State) : State :=
  let o := openingPart s
  let scan := landScan ls (settleOpening o s)
  let s := closingPart o (spareOf s) (placeScan scan.2 scan.1)
  { s with
    positions := vmap (fun r => { r with available := false }) s.positions
    ports := { s.ports with netTx := Vector.replicate 32 silence, headTx := Vector.replicate 16 silence } }

/-- R129, R132: what the reads of the interval came to is known, and their failures are taken by the fault record. -/
def landReads (s : State) : State × List Landed :=
  let ls := s.reads.map Read.land
  (takeFaults ls { s with reads := [] }, ls)

/-- R179: a frame start that ends a frame so. The notices it raises take an order the part chooses (R200). -/
def takeFrame (e : FrameEnd) (quiet : Bool) (s : State) : State :=
  let landed := landReads (openFrame e quiet s)
  let done := closeFrame
    (if s.part = .running then runningFrame e landed.2 landed.1 else standbyFrame landed.2 landed.1)
  { orderNew s.link.notices.length done with draws := s.draws + 1 }

/-- FRAME_START (R179): due when a frame has ended (R178). -/
def execFrameStart (quiet : Bool) (s : State) : Host.Outcome State Fault Refusal :=
  .next (if s.clockRuns then
    match s.clock.due with
    | some e => takeFrame e quiet s
    | none => s
  else s)

end Sys2Proof.Machine
end

