-- ==== Sys2Proof/Machine/Link.lean ====
section
/-! DEFINITION. The control link and the part states (R191 to R212): reset, self-test, transfers in both directions, the
execution of a request of no kind, and the requests of the link controller. -/

namespace Sys2Proof.Machine

/-! ## Read transfers (R197, R201) -/

/-- R193: a read ended early, or a write cut short, raises SHORT. -/
def countShort (s : State) : State := s.setLink { s.link with short := satInc 65535 s.link.short }

/-- R197: a read transfer begins: the head reply, or the head notice, or the byte 0x00. -/
def startRead (s : State) : State :=
  let r : ReadInProgress :=
    match s.link.replies, s.link.notices with
    | x :: _, _ => { what := .reply, bytes := x.bytes, raises := 0 }
    | [], n :: _ => { what := .notice, bytes := n.bytes, raises := 0 }
    | [], [] => { what := .nothing, bytes := [0#8], raises := 0 }
  s.setLink { s.link with reading := some r }

/-- R201: the notice queue when the notice being read has left whole: the head leaves, or stays with the raises taken since
its first byte. -/
def noticeRead (raises : Nat) : List Notice → List Notice
  | [] => []
  | n :: ns => if raises = 0 then ns else { n with count := min 255 raises } :: ns

/-- R197, R201: a read transfer ends with this many bytes of its frame clocked out. DESIGN CHOICE: this is the moment the last check
byte is clocked out, or LSEL is released before it; a raise given before it is folded into the entry being sent, and one given
after it finds none, and ATTN is released at it (notes/assumptions/30.md). -/
def endRead (clocked : Nat) (s : State) : State :=
  match s.link.reading with
  | none => s
  | some r =>
    let s := s.setLink { s.link with reading := none }
    match r.what with
    | .nothing => s
    | .reply =>
      if r.bytes.length ≤ clocked then s.setLink { s.link with replies := s.link.replies.tail } else countShort s
    | .notice =>
      if r.bytes.length ≤ clocked then s.setLink { s.link with notices := noticeRead r.raises s.link.notices }
      else countShort s

/-- A new selection finds a read transfer whose end was not given: LSEL has been released before it, and nothing past the
lead byte is known to have been clocked out, so that read was cut short (notes/assumptions/16.md). -/
def closeRead (s : State) : State := endRead 0 s

/-! ## Write transfers (R191 to R194) -/

/-- R194: a whole frame joins the request queue, or is answered BUSY, or its answer is dropped and counted. -/
def offerRequest (r : Request) (s : State) : State :=
  if s.link.requests.length < 4 then s.setLink { s.link with requests := s.link.requests ++ [r] }
  else if s.link.replies.length < 8 then pushReply r .busy [] s
  else s.setLink { s.link with overrun := satInc 65535 s.link.overrun }

/-- R193, R194: what follows the lead byte 0xA5. -/
def takeWrite (bytes : List Byte) (s : State) : State :=
  match parseWrite bytes with
  | .short => countShort s
  | .badLength => s.setLink { s.link with badLength := satInc 65535 s.link.badLength }
  | .badCheck => s.setLink { s.link with badCheck := satInc 65535 s.link.badCheck }
  | .whole r => offerRequest r s

/-- R191, R197: what the part drives on LDO while the host clocks the bytes of a WRITE_TRANSFER, a byte for each: 0x00, but
after a lead 0x5A the outgoing frame. During the lead byte it drives 0x00 (notes/assumptions/16.md). -/
def transferOut (bytes : List Byte) (s : State) : List Byte :=
  match bytes with
  | [] => []
  | lead :: rest =>
    if lead = 0x5A#8 then 0 :: (List.range rest.length).map (startRead (closeRead s)).ldo
    else List.replicate bytes.length 0

/-- R191: the first byte decides the transfer; the bytes after a 0x5A clock the outgoing frame. -/
def takeTransfer (bytes : List Byte) (s : State) : State :=
  match bytes with
  | [] => s
  | lead :: rest =>
    if lead = 0xA5#8 then takeWrite rest s
    else if lead = 0x5A#8 then endRead rest.length (startRead s)
    else s

/-! ## Self-test (R204) -/

/-- R204: a phase that finds a fault enters FAILED; another moves to the next phase, or after phase 4 to STANDBY with every
memory tested at its reset values again. -/
def endPhase (fault : Bool) (s : State) : State :=
  if fault then raise 0 (.partState .failed s.progress (.reset s.cause)) { s with part := .failed }
  else if s.progress < 4 then { s with progress := s.progress + 1 }
  else enterStandby s

/-! ## Requests -/

/-- R206, R207: the straps as sampled, one byte with a bit for each in the order written (notes/assumptions/14.md). -/
def strapBits (st : Straps) : Nat := bits [st.pos1, st.pos0, st.test, st.scan]

/-- R206. -/
def identifyEntry (_ : Request) (s : State) : Except ResultCode Taken := do
  return { state := s, body := u16 0x4A44 ++ u16 416 ++ u8 1 ++ u8 (strapBits s.straps) ++ u8 (activeCount s.straps) }

/-- R207. -/
def statusEntry (_ : Request) (s : State) : Except ResultCode Taken := do
  return { state := s
           body := u8 s.part.code ++ u8 s.progress ++ u8 s.cause.code ++ u32 s.frame.toNat ++ u8 s.sync.state.code ++
             u16 s.work.commitment ++ flag s.fault.latched ++ u8 s.link.notices.length ++ u8 (strapBits s.straps) }

/-- R208. -/
def startEntry (_ : Request) (s : State) : Except ResultCode Taken := do
  whenStandby s
  return { state := { s with part := .running }, body := u32 s.frame.toNat }

/-- R209: a position at the teardown: it is disabled and in no group; role, muted, gains, microphone settings and done list
are kept. -/
def tearPosition (r : PosRec) : PosRec :=
  { r with enabled := false, group := none, duck := 32768, mic := stopMic r.mic }

/-- R209: a class at the teardown: its list is emptied and its latch cleared, its mask kept. -/
def tearStage (st : Stage) : Stage := { st with list := [], latch := false }

/-- R82, R209: every source is stopped at once and its fetch item withdrawn. -/
def stopSources (s : State) : State := (List.finRange 4).foldl (fun s m => stopSource m s) s

/-- R115, R209: the prompts of every position end CANCELLED, in increasing position number. -/
def cancelPrompts (s : State) : State := (List.finRange 16).foldl (fun s p => cancelAll p s) s

/-- R209: the teardown, but for the notices that follow the reply. -/
def tearDown (s : State) : State :=
  let s := cancelPrompts (stopSources s)
  { s with
    part := .standby
    legs := vmap (fun _ => blankLeg) s.legs
    positions := vmap tearPosition s.positions
    groups := vmap (fun _ => []) s.groups
    supervision := []
    routing := tearStage s.routing, levels := tearStage s.levels, echo := tearStage s.echo
    work := { s.work with commitment := Config.mixReserve, list := [] } }

/-- R209, R210: PART_STATE follows the reply and the PROMPT_DONE notices of the teardown. -/
def stopEntry (_ : Request) (s : State) : Except ResultCode Taken := do
  whenRunning s
  let legs := vcount LegRec.live s.legs
  let prompts := s.positions.toList.foldl (fun n r => n + promptsOf r) 0
  let staged := s.routing.list.length + s.levels.list.length + s.echo.list.length
  return { state := tearDown s, body := u8 legs ++ u8 prompts ++ u8 staged
           raises := [(0, .partState .standby 0 .stop)] }

/-- R212. -/
def linkStatusEntry (_ : Request) (s : State) : Except ResultCode Taken := do
  let k := s.link
  return { state := s.setLink { k with badCheck := 0, badLength := 0, short := 0, overrun := 0 }
           body := u16 k.badCheck ++ u16 k.badLength ++ u16 k.short ++ u16 k.overrun ++ u8 k.requests.length ++
             u8 k.replies.length ++ u8 k.notices.length }

/-- R195, R211: a RESET whose body is not empty is answered BAD_LENGTH; it never reaches an entry. -/
def resetEntry (_ : Request) (_ : State) : Except ResultCode Taken := .error .badLength

/-- R195: a kind that names no request has no entry either. -/
def noEntry (_ : Request) (_ : State) : Except ResultCode Taken := .error .badRequest

/-! ## The commands -/

/-- POWER_ON (R203): the part is held in reset until power is stable. DESIGN CHOICE: also where RESETN already holds the part the
source the release reports is POWER_ON (notes/assumptions/29.md). -/
def execPowerOn (s : State) : Host.Outcome State Fault Refusal :=
  .next ({ s with hold := some .powerOn }.setLink { s.link with reading := none })

/-- RESETN_ASSERT (R191, R203): the part is held in reset and a transfer in progress is abandoned. Where power is still
coming up, the cause the release reports is the part's choice (notes/assumptions/15.md). -/
def execResetnAssert (s : State) : Host.Outcome State Fault Refusal :=
  let kept := decide (s.hold = some .powerOn) && Config.powerOnOutlastsPin s.draws
  .next ({ s with hold := some (if kept then .powerOn else .pin), draws := s.draws + 1 }.setLink
    { s.link with reading := none })

/-- RESET_RELEASE (R203). -/
def execResetRelease (pins : Straps) (s : State) : Host.Outcome State Fault Refusal :=
  .next (match s.hold with | some cause => resetPart pins cause s | none => s)

/-- SELFTEST_PHASE_END (R204). -/
def execSelftestPhaseEnd (fault : Bool) (s : State) : Host.Outcome State Fault Refusal :=
  .next (if s.hold = none ∧ s.part = .selftest then endPhase fault s else s)

/-- WRITE_TRANSFER (R191 to R194). -/
def execWriteTransfer (bytes : List Byte) (s : State) : Host.Outcome State Fault Refusal :=
  .next (if s.hold = none then takeTransfer bytes (closeRead s) else s)

/-- READ_TRANSFER (R197): the outgoing frame as it stands when its first byte is clocked out. -/
def execReadTransfer (s : State) : Host.Outcome State Fault Refusal :=
  .next (if s.hold = none then startRead (closeRead s) else s)

/-- READ_TRANSFER_END (R197, R201). -/
def execReadTransferEnd (clocked : Nat) (s : State) : Host.Outcome State Fault Refusal :=
  .next (if s.hold = none then endRead clocked s else s)

/-- BAD_REQUEST (R195): the head request's kind names no request. -/
def execBadRequest (s : State) : Host.Outcome State Fault Refusal :=
  .next (match s.link.requests with
    | [] => s
    | r :: _ => if bodyFits r.kind.toNat r.body = none then executeHead r.kind noEntry s else s)

/-- IDENTIFY (R206). -/
def execIdentify (s : State) : Host.Outcome State Fault Refusal := .next (executeHead 0x01#8 identifyEntry s)

/-- STATUS (R207). -/
def execStatus (s : State) : Host.Outcome State Fault Refusal := .next (executeHead 0x02#8 statusEntry s)

/-- START (R208). -/
def execStart (s : State) : Host.Outcome State Fault Refusal := .next (executeHead 0x03#8 startEntry s)

/-- STOP (R209). -/
def execStop (s : State) : Host.Outcome State Fault Refusal := .next (executeHead 0x04#8 stopEntry s)

/-- RESET (R211): executed at the head whatever the reply queue holds; a malformed one is answered, and waits for room. -/
def execReset (pins : Straps) (s : State) : Host.Outcome State Fault Refusal :=
  .next (match s.link.requests with
    | [] => s
    | r :: _ =>
      if s.hold = none ∧ r.kind = 0x05#8 ∧ r.body = [] then resetPart pins .request s
      else executeHead 0x05#8 resetEntry s)

/-- LINK_STATUS (R212). -/
def execLinkStatus (s : State) : Host.Outcome State Fault Refusal := .next (executeHead 0x06#8 linkStatusEntry s)

end Sys2Proof.Machine
end

