-- ==== Sys2Proof/Machine/Dispatch.lean ====
section
/-! DEFINITION. One arm for each command: the meaning it calls. -/

namespace Sys2Proof.Machine

def exec (i : Instr) (s : State) : Host.Outcome State Fault Refusal :=
  match i with
  | .powerOn => Sys2Proof.Machine.execPowerOn s
  | .resetnAssert => Sys2Proof.Machine.execResetnAssert s
  | .resetRelease pins => Sys2Proof.Machine.execResetRelease pins s
  | .selftestPhaseEnd fault => Sys2Proof.Machine.execSelftestPhaseEnd fault s
  | .writeTransfer bytes => Sys2Proof.Machine.execWriteTransfer bytes s
  | .readTransfer => Sys2Proof.Machine.execReadTransfer s
  | .badRequest => Sys2Proof.Machine.execBadRequest s
  | .identify => Sys2Proof.Machine.execIdentify s
  | .status => Sys2Proof.Machine.execStatus s
  | .start => Sys2Proof.Machine.execStart s
  | .stop => Sys2Proof.Machine.execStop s
  | .reset pins => Sys2Proof.Machine.execReset pins s
  | .linkStatus => Sys2Proof.Machine.execLinkStatus s
  | .legOpen => Sys2Proof.Machine.execLegOpen s
  | .legClose => Sys2Proof.Machine.execLegClose s
  | .groupAdd => Sys2Proof.Machine.execGroupAdd s
  | .groupRemove => Sys2Proof.Machine.execGroupRemove s
  | .hold => Sys2Proof.Machine.execHold s
  | .resume => Sys2Proof.Machine.execResume s
  | .mute => Sys2Proof.Machine.execMute s
  | .supervise => Sys2Proof.Machine.execSupervise s
  | .unsupervise => Sys2Proof.Machine.execUnsupervise s
  | .positionSet => Sys2Proof.Machine.execPositionSet s
  | .sendGain => Sys2Proof.Machine.execSendGain s
  | .legQuery => Sys2Proof.Machine.execLegQuery s
  | .positionQuery => Sys2Proof.Machine.execPositionQuery s
  | .groupQuery => Sys2Proof.Machine.execGroupQuery s
  | .echoSet => Sys2Proof.Machine.execEchoSet s
  | .echoTail => Sys2Proof.Machine.execEchoTail s
  | .echoReset => Sys2Proof.Machine.execEchoReset s
  | .echoQuery => Sys2Proof.Machine.execEchoQuery s
  | .micSet => Sys2Proof.Machine.execMicSet s
  | .quietMask => Sys2Proof.Machine.execQuietMask s
  | .micQuery => Sys2Proof.Machine.execMicQuery s
  | .sourceSet => Sys2Proof.Machine.execSourceSet s
  | .sourceStart => Sys2Proof.Machine.execSourceStart s
  | .sourceStop => Sys2Proof.Machine.execSourceStop s
  | .streamData => Sys2Proof.Machine.execStreamData s
  | .sourceQuery => Sys2Proof.Machine.execSourceQuery s
  | .promptQueue => Sys2Proof.Machine.execPromptQueue s
  | .promptCancel => Sys2Proof.Machine.execPromptCancel s
  | .promptDrain => Sys2Proof.Machine.execPromptDrain s
  | .classMap => Sys2Proof.Machine.execClassMap s
  | .promptQuery => Sys2Proof.Machine.execPromptQuery s
  | .areaSet => Sys2Proof.Machine.execAreaSet s
  | .reindex => Sys2Proof.Machine.execReindex s
  | .clipDeclare => Sys2Proof.Machine.execClipDeclare s
  | .clipForget => Sys2Proof.Machine.execClipForget s
  | .clipLookup => Sys2Proof.Machine.execClipLookup s
  | .faultRead => Sys2Proof.Machine.execFaultRead s
  | .budgetSet => Sys2Proof.Machine.execBudgetSet s
  | .budgetQuery => Sys2Proof.Machine.execBudgetQuery s
  | .stageMode => Sys2Proof.Machine.execStageMode s
  | .apply => Sys2Proof.Machine.execApply s
  | .discard => Sys2Proof.Machine.execDiscard s
  | .stageQuery => Sys2Proof.Machine.execStageQuery s
  | .portTest => Sys2Proof.Machine.execPortTest s
  | .portTestRead => Sys2Proof.Machine.execPortTestRead s
  | .portTestStop => Sys2Proof.Machine.execPortTestStop s
  | .syncQuery => Sys2Proof.Machine.execSyncQuery s
  | .applyEdge => Sys2Proof.Machine.execApplyEdge s
  | .nsyncPulse since => Sys2Proof.Machine.execNsyncPulse since s
  | .syncRelock => Sys2Proof.Machine.execSyncRelock s
  | .syncLoss => Sys2Proof.Machine.execSyncLoss s
  | .flywheelPeriod => Sys2Proof.Machine.execFlywheelPeriod s
  | .internalMark => Sys2Proof.Machine.execInternalMark s
  | .samplePeriod net head => Sys2Proof.Machine.execSamplePeriod net head s
  | .fetchRead words => Sys2Proof.Machine.execFetchRead words s
  | .wordReadTimeout => Sys2Proof.Machine.execWordReadTimeout s
  | .frameStart quiet => Sys2Proof.Machine.execFrameStart quiet s
  | .adaptStarved leg => Sys2Proof.Machine.execAdaptStarved leg s
  | .dtHangoverExpiry leg => Sys2Proof.Machine.execDtHangoverExpiry leg s
  | .callerHangoverExpiry leg => Sys2Proof.Machine.execCallerHangoverExpiry leg s
  | .divergenceReset leg => Sys2Proof.Machine.execDivergenceReset leg s
  | .vadHangoverExpiry pos => Sys2Proof.Machine.execVadHangoverExpiry pos s
  | .toneCadenceWrap source => Sys2Proof.Machine.execToneCadenceWrap source s
  | .promptExpire handle => Sys2Proof.Machine.execPromptExpire handle s
  | .readTransferEnd clocked => Sys2Proof.Machine.execReadTransferEnd clocked s

end Sys2Proof.Machine
end

