-- ==== Sys2Proof/Safety.lean ====
section
/-! DEFINITION. The words claims about the part use: a request due at the head of its queue, the state a reply leaves, and
the invariants of a safe run. -/

namespace Sys2Proof.Machine

/-! ## A request at the head (R195) -/

/-- R195: the request r of this kind stands at the head, with rest behind it, and is executed: the part is not held in reset
and the reply queue has room. -/
def HeadDue (kind : Byte) (r : Request) (rest : List Request) (s : State) : Prop :=
  s.hold = none ∧ s.link.requests = r :: rest ∧ r.kind = kind ∧ s.link.replies.length < 8

/-- R202: the part states in which requests beyond IDENTIFY, STATUS and RESET are taken. -/
def Serving (s : State) : Prop := s.part = .standby ∨ s.part = .running

/-- R195: the state s with r gone from the request queue and its reply at the tail of the reply queue. -/
def answered (r : Request) (rest : List Request) (result : ResultCode) (body : List Byte) (s : State) : State :=
  s.setLink { s.link with
    requests := rest
    replies := s.link.replies ++ [{ kind := r.kind + 0x80#8, tag := r.tag, result := result, body := body }] }

/-- R162, R163: the state with a change at the tail of the ROUTING list, and the reply with the count after it. -/
def stagedRouting (r : Request) (rest : List Request) (op : ChangeOp) (fields : List Byte) (s : State) : State :=
  answered r rest .ok (u8 (s.routing.list.length + 1) ++ fields)
    { s with routing := { s.routing with
      list := s.routing.list ++ [{ tag := r.tag, arrival := s.frame, op := op }] } }

/-- The kind a request row executes; RESET is not among them, since it has its own rule. -/
def rowKind : Instr → Option Byte
  | .identify => some 0x01#8 | .status => some 0x02#8 | .start => some 0x03#8 | .stop => some 0x04#8 | .linkStatus => some 0x06#8
  | .legOpen => some 0x10#8 | .legClose => some 0x11#8 | .groupAdd => some 0x12#8 | .groupRemove => some 0x13#8
  | .hold => some 0x14#8 | .resume => some 0x15#8 | .mute => some 0x16#8 | .supervise => some 0x17#8 | .unsupervise => some 0x18#8
  | .positionSet => some 0x19#8 | .sendGain => some 0x1A#8 | .legQuery => some 0x1B#8 | .positionQuery => some 0x1C#8
  | .groupQuery => some 0x1D#8 | .echoSet => some 0x20#8 | .echoTail => some 0x21#8 | .echoReset => some 0x22#8
  | .echoQuery => some 0x23#8 | .micSet => some 0x28#8 | .quietMask => some 0x29#8 | .micQuery => some 0x2A#8
  | .sourceSet => some 0x30#8 | .sourceStart => some 0x31#8 | .sourceStop => some 0x32#8 | .streamData => some 0x33#8
  | .sourceQuery => some 0x34#8 | .promptQueue => some 0x38#8 | .promptCancel => some 0x39#8 | .promptDrain => some 0x3A#8
  | .classMap => some 0x3B#8 | .promptQuery => some 0x3C#8 | .areaSet => some 0x40#8 | .reindex => some 0x41#8
  | .clipDeclare => some 0x42#8 | .clipForget => some 0x43#8 | .clipLookup => some 0x44#8 | .faultRead => some 0x45#8
  | .budgetSet => some 0x48#8 | .budgetQuery => some 0x49#8 | .stageMode => some 0x4C#8 | .apply => some 0x4D#8
  | .discard => some 0x4E#8 | .stageQuery => some 0x4F#8 | .portTest => some 0x50#8 | .portTestRead => some 0x51#8
  | .portTestStop => some 0x52#8 | .syncQuery => some 0x53#8
  | .powerOn => none | .resetnAssert => none | .resetRelease _ => none | .selftestPhaseEnd _ => none
  | .writeTransfer _ => none | .readTransfer => none | .badRequest => none | .reset _ => none | .applyEdge => none
  | .nsyncPulse _ => none | .syncRelock => none | .syncLoss => none | .flywheelPeriod => none | .internalMark => none
  | .samplePeriod _ _ => none | .fetchRead _ => none | .wordReadTimeout => none | .frameStart _ => none
  | .adaptStarved _ => none | .dtHangoverExpiry _ => none | .callerHangoverExpiry _ => none | .divergenceReset _ => none
  | .vadHangoverExpiry _ => none | .toneCadenceWrap _ => none | .promptExpire _ => none | .readTransferEnd _ => none

/-- The kinds a part in SELFTEST or FAILED takes (R202). -/
def takenAlways (kind : Byte) : Bool := kind == 0x01#8 || kind == 0x02#8 || kind == 0x05#8

/-! ## Prompts that end together (R28, R115, R210) -/

/-- R28, R115: the done records of the prompts that end when a position is disabled or torn down: the slot's prompt, then the
pending ones from head to tail, each CANCELLED with the frame counter's stamp. -/
def cancelledRecords (s : State) (p : Position) : List PromptRec :=
  (((s.pos p).slot.map Playing.prompt).toList ++ (s.pos p).queue).map
    (fun k => { k with state := .done, result := some .cancelled, stamp := s.frame })

/-- R103, R115: the PROMPT_DONEs those endings raise, each with the done list's length after its own
(notes/assumptions/10.md). -/
def doneRaises (s : State) (p : Position) : List (Nat × Detail) :=
  (List.range (promptsOf (s.pos p))).map (fun i => (p.val, .promptDone ((s.pos p).done.length + i + 1)))

/-- R95, R114, R115: the requesters that give up their fetch items at the teardown: each source, and the player of each position
whose slot holds a prompt. -/
def tornDown (s : State) : Requester → Bool
  | .source _ => true
  | .prompt p => (s.pos p).slot.isSome
  | .scan => false

/-! ## A running test (R185, R186) -/

/-- R185, R186: what a sample period does to a running test's record q, leaving q': whether its slot was transmitted, and the
value its slot received where the period is checked. A TX test checks nothing and an RX test sends nothing; passes of a BOTH
test count matched cycles alone. -/
def TestActs (q q' : PortTest) (sent : Bool) (received : Option Sample) : Prop :=
  q'.slot = q.slot ∧ q'.dir = q.dir ∧ q'.pattern = q.pattern ∧
    q'.txIndex = (if q.dir ≠ .rx ∧ sent = true then (q.txIndex + 1) % 8 else q.txIndex) ∧
    match (if q.dir = .tx then none else received), q.expected with
    | none, _ =>
      q'.state = q.state ∧ q'.expected = q.expected ∧ q'.errors = q.errors ∧
        q'.passes = if q.dir = .tx ∧ sent = true ∧ q.txIndex = 7 then
          (if q.passes < 4294967295 then q.passes + 1 else 4294967295) else q.passes
    | some v, none =>
      q'.state = q.state ∧ q'.errors = q.errors ∧ q'.passes = q.passes ∧
        q'.expected = if v = q.pattern.getD 0 0 then some 1 else none
    | some v, some k =>
      if v = q.pattern.getD k 0 then
        q'.errors = q.errors ∧ q'.expected = some (if k = 7 then 0 else k + 1) ∧
          (if k = 7 then
            q'.state = .locked ∧ q'.passes = if q.passes < 4294967295 then q.passes + 1 else 4294967295
          else q'.state = q.state ∧ q'.passes = q.passes)
      else
        q'.state = .seeking ∧ q'.expected = none ∧ q'.passes = q.passes ∧
          q'.errors = if q.errors < 4294967295 then q.errors + 1 else 4294967295

/-! ## The value a setting will have (R53, R71) -/

/-- R53, R71: the value a setting takes when the pending changes and then op have applied: that of the last of them that selects
it, or the value it has where none does. -/
def settled {α : Type} (pick : ChangeOp → Option α) (pending : List Change) (op : ChangeOp) (now : α) : α :=
  ((pending.map Change.op ++ [op]).filterMap pick).getLast?.getD now

/-! ## The turns of the opening part (R154) -/

/-- R154: a fetch turn takes the opening part from x to y: the head item is served if it fits, else the fetch list stops. -/
def TakesFetchTurn (cost : AreaNo → Nat) (x y : Opening) : Prop :=
  (x.fetchStopped = true → y = x) ∧
    (∀ it more, x.fetchStopped = false → x.fetch = it :: more → cost it.area ≤ x.units →
      y = { x with units := x.units - cost it.area, fetch := more, served := x.served ++ [it] }) ∧
    (x.fetchStopped = false → (∀ it, x.fetch.head? = some it → x.units < cost it.area) → y = { x with fetchStopped := true })

/-- R154: an adaptation turn: the first eligible leg not yet served is served if it fits, else the adaptation list stops. -/
def TakesAdaptTurn (cost : Leg → Nat) (x y : Opening) : Prop :=
  (x.adaptStopped = true → y = x) ∧
    (∀ l more, x.adaptStopped = false → x.todo = l :: more → cost l ≤ x.units →
      y = { x with units := x.units - cost l, todo := more, granted := x.granted ++ [l] }) ∧
    (x.adaptStopped = false → (∀ l, x.todo.head? = some l → x.units < cost l) → y = { x with adaptStopped := true })

/-! ## Clip samples and fetch items (R87, R90, R108) -/

/-- R87: a half FULL with block b holds the samples v; half 0 is looked at first. -/
def IsHeld (h0 h1 : Half) (b : Nat) (v : List Sample) : Prop := h0 = .full b v ∨ (h1 = .full b v ∧ ∀ w, h0 ≠ .full b w)

/-- R90, R108: a half when the play pointer has left block b. -/
def leftHalf (b : Nat) : Half → Half
  | .full k v => if k = b then .empty else .full k v
  | .empty => .empty
  | .waiting k => .waiting k
  | .failed k => .failed k

/-- R89, R107: a half when the words of its block have landed, each a sample. -/
def landedHalf (words : List Word16) : Half → Half
  | .waiting k => .full k (words.map BitVec.toInt)
  | .empty => .empty
  | .failed k => .failed k
  | .full k v => .full k v

/-- R87: the item for block b: 512 bytes a block, and the last block's own length. -/
def clipItem (r : Requester) (loc : Location) (b : Nat) : FetchItem :=
  { requester := r, area := loc.area, offset := loc.offset + 512 * b, count := 2 * min 256 (loc.length - 256 * b) }

/-! ## The steps of a music source (R84) -/

/-- R89: landing takes a source from r to a; fault says that a failure landed. -/
def SourceLands (outcome : Option (Except Nat (List Word16))) (r a : SourceRec) (fault : Bool) : Prop :=
  let waits := r.kind = .clip ∧ r.state ≠ .stopped ∧ ∃ k, r.half0 = .waiting k ∨ r.half1 = .waiting k
  (¬ waits ∨ outcome = none → a = r ∧ fault = false) ∧
    (∀ words, waits → outcome = some (.ok words) → fault = false ∧ a =
      { r with half0 := landedHalf words r.half0, half1 := landedHalf words r.half1, retrying := false }) ∧
    ∀ o, waits → outcome = some (.error o) → fault = true ∧
      ∃ h0 h1, a = { r with half0 := h0, half1 := h1, retryDue := false, retrying := true, state := .starved } ∧
        (∀ k, r.half0 = .waiting k → h0 = .failed k) ∧ ((∀ k, r.half0 ≠ .waiting k) → h0 = r.half0) ∧
        (∀ k, r.half1 = .waiting k → h1 = .failed k) ∧ ((∀ k, r.half1 ≠ .waiting k) → h1 = r.half1)

/-- R94, R95: the pending command takes a source from a to b. -/
def SourceObeys (a b : SourceRec) : Prop :=
  (a.cmd = .none → b = a) ∧
    (a.cmd = .stop → b = { a with
      state := .stopped, cmd := .none, ring := [], lowArmed := true, loc := none, index := 0, phase := .first, next := 0,
      half0 := .empty, half1 := .empty, retryDue := false, retrying := false, tonePhase := 0, cadence := 0 }) ∧
    ∀ loc, a.cmd = .start loc →
      (a.kind = .stream → b = { a with cmd := .none, state := .priming, lowArmed := true }) ∧
      (a.kind = .clip → b = { a with
        cmd := .none, state := .priming, loc := loc, index := 0, phase := .first, next := 0, half0 := .empty,
        half1 := .empty, retryDue := false, retrying := false }) ∧
      (a.kind = .tone → b = { a with cmd := .none, state := .playing, tonePhase := 0, cadence := 0 })

/-- R83, R89: the entry test takes a source from b to c; a source a failure has STARVED waits for the failed block's data
(notes/assumptions/23.md). -/
def SourceEnters (b c : SourceRec) : Prop :=
  let enters :=
    (b.kind = .stream ∧ (b.state = .priming ∨ b.state = .starved) ∧ 512 ≤ b.ring.length) ∨
    (b.kind = .clip ∧ (∃ v, IsHeld b.half0 b.half1 (b.index / 256) v) ∧
      (b.state = .priming ∨
        (b.state = .starved ∧ b.retrying = false ∧ ∀ k, b.half0 ≠ .failed k ∧ b.half1 ≠ .failed k)))
  (enters → c = { b with state := .playing }) ∧ (¬ enters → c = b)

/-- R90: a clip source whose pointer has moved by one output sample. A half is left in the frame that plays its block's last sample:
the model's reading (notes/assumptions/11.md). -/
def sourceMoved (loc : Location) (r : SourceRec) : SourceRec :=
  let next := if r.index + 1 < loc.length then r.index + 1 else 0
  let half := fun h => if next / 256 = r.index / 256 then h else leftHalf (r.index / 256) h
  if loc.rate = .khz8 ∧ r.phase = .first then { r with phase := .second }
  else { r with index := next, phase := .first, half0 := half r.half0, half1 := half r.half1 }

/-- R85, R90, R91: the raw samples a source forms in state c, the record d it leaves, and why it is STARVED, if it is. -/
def SourceForms (c d : SourceRec) (raw : Nat → Int) (starved : Option StarveCause) : Prop :=
  (c.state ≠ .playing → d = c ∧ (∀ n < 64, raw n = 0) ∧ starved = none) ∧
  (c.state = .playing → c.kind = .stream →
    (∀ n < 64, raw n = c.ring.getD n 0) ∧
    (64 ≤ c.ring.length → d = { c with ring := c.ring.drop 64 } ∧ starved = none) ∧
    (c.ring.length < 64 → d = { c with ring := [], state := .starved } ∧ starved = some .underrun)) ∧
  (∀ loc, c.state = .playing → c.kind = .clip → c.loc = some loc →
    ∃ run : Nat → SourceRec, run 0 = c ∧ d = run 64 ∧
      starved = (if d.state = .starved then some .late else none) ∧
      ∀ n < 64,
        let held := IsHeld (run n).half0 (run n).half1 ((run n).index / 256)
        (∀ v, (run n).state = .playing → held v →
          raw n = v.getD ((run n).index % 256) 0 ∧ run (n + 1) = sourceMoved loc (run n)) ∧
        ((run n).state ≠ .playing ∨ (∀ v, ¬ held v) → raw n = 0 ∧ run (n + 1) = { run n with state := .starved })) ∧
  (c.state = .playing → c.kind = .tone →
    let cadence := if c.onFrames + c.offFrames ≤ c.cadence + 1 then 0 else c.cadence + 1
    starved = none ∧
    (c.onFrames ≤ c.cadence → (∀ n < 64, raw n = 0) ∧ d = { c with cadence := cadence }) ∧
    (c.cadence < c.onFrames → ∃ phase : Nat → Nat, phase 0 = c.tonePhase ∧
      (∀ n, phase (n + 1) = (phase n + c.step) % 65536) ∧ d = { c with cadence := cadence, tonePhase := phase 64 } ∧
      ∀ n < 64, raw n =
        (c.amplitude * (if phase n < 32768 then 2 * (phase n : Int) - 32768 else 98303 - 2 * phase n) + 16384) / 32768))

/-- R86, R88: the follow-up takes a source from d to z, with the item it places. -/
def SourceFollows (m : Source) (d z : SourceRec) (low : Bool) (placed : List FetchItem) : Prop :=
  low = decide (d.kind = .stream ∧ d.state ≠ .stopped ∧ d.ring.length < d.lowMark ∧ d.lowArmed = true) ∧
  (d.kind ≠ .clip → placed = [] ∧ z = { d with lowArmed := d.lowArmed && !low }) ∧
  (d.kind = .clip → (d.state = .stopped ∨ d.loc = none ∨ ∃ k, d.half0 = .waiting k ∨ d.half1 = .waiting k) →
    placed = [] ∧ z = d) ∧
  ∀ loc, d.kind = .clip → d.state ≠ .stopped → d.loc = some loc → (∀ k, d.half0 ≠ .waiting k ∧ d.half1 ≠ .waiting k) →
    let next := if d.next + 1 < (loc.length + 255) / 256 then d.next + 1 else 0
    let elsewhere := fun h : Half => ∃ v, h = .full d.next v
    ((∃ k, d.half0 = .failed k ∨ d.half1 = .failed k) → d.retryDue = false → placed = [] ∧ z = { d with retryDue := true }) ∧
    (∀ k, d.half0 = .failed k → (∀ j, d.half1 ≠ .failed j) → d.retryDue = true →
      placed = [clipItem (.source m) loc k] ∧ z = { d with half0 := .waiting k, retryDue := false }) ∧
    (∀ k, d.half1 = .failed k → (∀ j, d.half0 ≠ .failed j) → d.retryDue = true →
      placed = [clipItem (.source m) loc k] ∧ z = { d with half1 := .waiting k, retryDue := false }) ∧
    ((∀ k, d.half0 ≠ .failed k ∧ d.half1 ≠ .failed k) →
      (d.half0 = .empty → ¬ elsewhere d.half1 →
        placed = [clipItem (.source m) loc d.next] ∧ z = { d with half0 := .waiting d.next, next := next }) ∧
      (d.half0 ≠ .empty → d.half1 = .empty → ¬ elsewhere d.half0 →
        placed = [clipItem (.source m) loc d.next] ∧ z = { d with half1 := .waiting d.next, next := next }) ∧
      ((d.half0 ≠ .empty ∨ elsewhere d.half1) → (d.half1 ≠ .empty ∨ elsewhere d.half0) → placed = [] ∧ z = d))

/-! ## The steps of a prompt player (R105) -/

/-- R108, R109: the play pointer of a prompt moves by one output sample from x to y; complete says that the last play-through
has ended. -/
def PromptMoves (x y : Playing) (complete : Bool) : Prop :=
  let half := fun next h => if next / 256 = x.index / 256 then h else leftHalf (x.index / 256) h
  let at' := fun next => { x with index := next, phase := .first, half0 := half next x.half0, half1 := half next x.half1 }
  let ended := { x.prompt with played := x.prompt.played + 1 }
  if x.loc.rate = .khz8 ∧ x.phase = .first then y = { x with phase := .second } ∧ complete = false
  else if x.index + 1 < x.loc.length then y = at' (x.index + 1) ∧ complete = false
  else if x.prompt.played + 1 < x.prompt.repeats then y = { at' 0 with prompt := ended } ∧ complete = false
  else y = { x with prompt := ended } ∧ complete = true

/-- R108, R109: a PLAYING prompt forms its 64 samples from x and leaves y. -/
def PromptPlays (x y : Playing) (out : List Sample) (complete : Bool) : Prop :=
  ∃ (run : Nat → Playing) (missing ended : Nat → Bool) (v : Nat → Int),
    run 0 = x ∧ missing 0 = false ∧ ended 0 = false ∧
    (∀ n < 64,
      let held := IsHeld (run n).half0 (run n).half1 ((run n).index / 256)
      (missing n = true ∨ ended n = true →
        v n = 0 ∧ run (n + 1) = run n ∧ missing (n + 1) = missing n ∧ ended (n + 1) = ended n) ∧
      (missing n = false → ended n = false →
        (∀ w, held w → v n = w.getD ((run n).index % 256) 0 ∧ missing (n + 1) = false ∧
          PromptMoves (run n) (run (n + 1)) (ended (n + 1))) ∧
        ((∀ w, ¬ held w) → v n = 0 ∧ run (n + 1) = run n ∧ missing (n + 1) = true ∧ ended (n + 1) = false))) ∧
    out = (List.range 64).map v ∧ complete = ended 64 ∧
    y = if missing 64 = true then { run 64 with prompt := { (run 64).prompt with
        underruns := if (run 64).prompt.underruns < 65535 then (run 64).prompt.underruns + 1 else 65535 } }
      else run 64

/-- R110: the prompt x in the slot considers fetching, and leaves y; with both halves EMPTY half 0 takes the block
(notes/assumptions/24.md). -/
def PromptFetches (p : Position) (x y : Playing) (placed : List FetchItem) : Prop :=
  let waits := ∃ k, x.half0 = .waiting k ∨ x.half1 = .waiting k
  (waits ∨ x.next = none ∨ (x.half0 ≠ .empty ∧ x.half1 ≠ .empty) → placed = [] ∧ y = x) ∧
    ∀ b k, ¬ waits → x.next = some (b, k) →
      let next :=
        if (x.loc.length + 255) / 256 = 1 then none
        else if b + 1 < (x.loc.length + 255) / 256 then some (b + 1, k)
        else if k < x.prompt.repeats then some (0, k + 1)
        else none
      (x.half0 = .empty → placed = [clipItem (.prompt p) x.loc b] ∧ y = { x with half0 := .waiting b, next := next }) ∧
      (x.half0 ≠ .empty → x.half1 = .empty →
        placed = [clipItem (.prompt p) x.loc b] ∧ y = { x with half1 := .waiting b, next := next })

/-- R107 to R110: the playing-slot step of the prompt x: the slot it leaves, the ending it makes, the item it places and the
samples it hands to the mixer. -/
def SlotSteps (p : Position) (outcome : Option (Except Nat (List Word16))) (x : Playing) (slot : Option Playing)
    (ends : Option (PromptRec × PromptResult)) (placed : List FetchItem) (out : Option (List Sample × Nat)) : Prop :=
  (x.prompt.cancel = true → slot = none ∧ ends = some (x.prompt, .cancelled) ∧ placed = [] ∧ out = none) ∧
  (∀ o, x.prompt.cancel = false → outcome = some (.error o) →
    slot = none ∧ ends = some (x.prompt, .clipFault) ∧ placed = [] ∧ out = none) ∧
  (x.prompt.cancel = false → (∀ o, outcome ≠ some (.error o)) → ∃ l : Playing,
    (outcome = none → l = x) ∧
    (∀ words, outcome = some (.ok words) →
      let z := { x with half0 := landedHalf words x.half0, half1 := landedHalf words x.half1 }
      let starts := x.prompt.state = .priming ∧ ∃ v, IsHeld z.half0 z.half1 0 v
      (starts → l = { z with prompt := { x.prompt with state := .playing } }) ∧ (¬ starts → l = z)) ∧
    (l.prompt.state ≠ .playing → ends = none ∧ out = none ∧ ∃ y, slot = some y ∧ PromptFetches p l y placed) ∧
    (l.prompt.state = .playing → ∃ y v complete, PromptPlays l y v complete ∧ out = some (v, l.prompt.gain) ∧
      (complete = true → slot = none ∧ ends = some (y.prompt, .complete) ∧ placed = []) ∧
      (complete = false → ends = none ∧ ∃ z, slot = some z ∧ PromptFetches p y z placed)))

/-! ## Notices (R200) -/

/-- R200: on s, whatever notices wait, the operation f raises these notices in this order, and changes the link in nothing else. -/
def RaisesOn (f : State → State) (s : State) (raises : List (Nat × Detail)) : Prop :=
  ∀ k : Link, (f (s.setLink k)).link = (raiseAll raises (s.setLink k)).link

/-- R84, R200: the link kept but for the raises given, which fold into the entries that stood before or join the tail; the new
entries stand in some order in which a source's SOURCE_STARVED comes before its STREAM_LOW. -/
def LinkRaised (raises : List (Nat × Detail)) (s t : State) : Prop :=
  let k := (raiseAll raises s).link
  let old := s.link.notices.length
  t.link = { k with notices := t.link.notices } ∧ t.link.notices.take old = k.notices.take old ∧
    (t.link.notices.drop old).Perm (k.notices.drop old) ∧
    (t.link.notices.drop old).Pairwise (fun a b =>
      ∀ fill cause, a.detail = .streamLow fill → b.detail = .sourceStarved cause → a.subject ≠ b.subject)

/-! ## The scan at a frame start (R134 to R137) -/

/-- R128: the item joined the fetch list, where it stands unless this frame start's service has taken it. -/
def isPlaced (it : FetchItem) (t : State) : Prop := it ∈ t.fetch ∨ ∃ x ∈ t.reads, x.item = it

/-- R135, R137: from s to t the scan has moved to the area found, with its first chunk's item placed, or, where none is found,
has ended with REINDEX_DONE; either way with these counts. -/
def ScanMoves (s t : State) (found : Option AreaNo) (counts : ScanCounts) : Prop :=
  match found with
  | some a =>
    t.scan = { running := true, area := a, chunk := 0, outstanding := true, counts := counts } ∧
      isPlaced { requester := .scan, area := a, offset := 0, count := 256 } t
  | none =>
    t.scan = { s.scan with running := false, outstanding := false, counts := counts } ∧
      ∃ n ∈ t.link.notices, n.subject = 0 ∧ n.stamp = t.frame ∧ n.detail = .reindexDone counts

/-! ## Invariants -/

/-- R193, R194, R195: the link queues and error counts keep their bounds. -/
def LinkBounded (s : State) : Prop :=
  s.link.requests.length ≤ 4 ∧ s.link.replies.length ≤ 8 ∧ s.link.badCheck ≤ 65535 ∧ s.link.badLength ≤ 65535 ∧
    s.link.short ≤ 65535 ∧ s.link.overrun ≤ 65535

/-- R199: the number of subjects of a notice kind. -/
def Detail.subjects : Detail → Nat
  | .partState .. => 1 | .sync .. => 1 | .fault .. => 1 | .reindexDone .. => 1 | .applied .. => 3 | .promptDone .. => 16
  | .sourceStarved .. => 4 | .streamLow .. => 4 | .adaptStarved .. => 24 | .divergenceReset .. => 24 | .testState .. => 2

/-- R199, R200: no two notices of one kind and subject, each count in 1..255, each subject one of its kind's. -/
def NoticesDistinct (s : State) : Prop :=
  s.link.notices.Pairwise (fun a b => ¬ (a.detail.kind = b.detail.kind ∧ a.subject = b.subject)) ∧
    ∀ n ∈ s.link.notices, 1 ≤ n.count ∧ n.count ≤ 255 ∧ n.subject < n.detail.subjects

/-- R162: each pending list holds changes of its own class. -/
def ClassesHeld (s : State) : Prop :=
  (∀ x ∈ s.routing.list, x.op.cls = .routing) ∧ (∀ x ∈ s.levels.list, x.op.cls = .levels) ∧
    ∀ x ∈ s.echo.list, x.op.cls = .echo

/-- R146, R147, R160, R162, R163, R180: the limits of settings, lists and counts that a request or a pulse moves; a pending list
holds changes of its own class. -/
def LimitsHeld (s : State) : Prop :=
  (512 ≤ s.work.ceiling ∧ s.work.ceiling ≤ 2048) ∧ (1 ≤ s.work.ratio ∧ s.work.ratio ≤ 4) ∧
    (s.routing.list.length ≤ 16 ∧ s.levels.list.length ≤ 16 ∧ s.echo.list.length ≤ 16) ∧
    ClassesHeld s ∧
    (s.sync.seeking ≤ 63 ∧ s.sync.slips ≤ 65535 ∧ s.sync.losses ≤ 65535) ∧ s.clock.period ≤ 63 ∧ s.fault.later ≤ 255

/-- R47: a leg's caller-active flag says that its caller hangover runs; R43, R48: its counts keep their bounds. -/
def LegRec.flagsHeld (r : LegRec) : Prop :=
  r.ec.callerActive = decide (0 < r.ec.callerHangover) ∧ r.ec.callerHangover ≤ 50 ∧ r.ec.hangover ≤ 480 ∧
    r.ec.divergence ≤ 15

/-- R65: a position's VAD says that its hangover runs. -/
def PosRec.flagsHeld (r : PosRec) : Prop :=
  r.mic.vad = decide (0 < r.mic.vadHangover) ∧ r.mic.vadHangover ≤ 50

/-- R43, R47, R48, R65: the activity flags agree with their hangovers. -/
def ActivityHeld (s : State) : Prop := (∀ l : Leg, (s.leg l).flagsHeld) ∧ ∀ p : Position, (s.pos p).flagsHeld

/-- R145, R146: the cost a leg has committed. -/
def committedLeg (r : LegRec) : Nat := if r.live then legCost r.tail else 0

/-- R146: the commitment the tables give. -/
def commitmentOf (s : State) : Nat :=
  Config.mixReserve + enabledCount s * Config.positionCost + (s.legs.toList.map committedLeg).sum

/-- R146, R147, R150: the commitment is what the tables give and at most the ceiling; the adaptation list holds each leg that
is not CLOSED once. -/
def BudgetHeld (s : State) : Prop :=
  s.work.commitment = commitmentOf s ∧ s.work.commitment ≤ s.work.ceiling ∧ s.work.list.Nodup ∧
    ∀ l : Leg, l ∈ s.work.list ↔ (s.leg l).live = true

/-- R4, R5, R16: in one set of tables each group's list and its members' own fields agree, a member stands in its list once
and at most 6 in one list, member legs are not CLOSED and member positions enabled; a supervisor and an agent stand in at most
one of at most 8 records, both enabled in their roles, the supervisor in no group; and no slot is bound to two legs that are
not CLOSED. -/
def TablesAgree (s : State) : Prop :=
  (∀ g : Group, (s.members g).Nodup ∧ (s.members g).length ≤ 6 ∧
    (∀ l : Leg, .leg l ∈ s.members g ↔ (s.leg l).group = some g) ∧
    ∀ p : Position, .pos p ∈ s.members g ↔ (s.pos p).group = some g) ∧
  (∀ l : Leg, (s.leg l).group ≠ none → (s.leg l).state ≠ .closed) ∧
  (∀ p : Position, (s.pos p).group ≠ none → (s.pos p).enabled = true) ∧
  (s.supervision.map SupRec.supervisor).Nodup ∧ (s.supervision.map SupRec.agent).Nodup ∧ s.supervision.length ≤ 8 ∧
  (∀ k ∈ s.supervision,
    (s.pos k.supervisor).enabled = true ∧ (s.pos k.supervisor).role = .supervisor ∧ (s.pos k.supervisor).group = none ∧
      (s.pos k.agent).enabled = true ∧ (s.pos k.agent).role = .agent) ∧
  ∀ (l j : Leg) (k : NetSlot), l ≠ j → (s.leg l).state ≠ .closed → (s.leg j).state ≠ .closed →
    (s.leg l).slot = some k → (s.leg j).slot ≠ some k

/-- R4, R5, R16, R163: the active tables agree, and so would they with every pending change applied. -/
def TablesHeld (s : State) : Prop := TablesAgree s ∧ TablesAgree (projected s)

/-- R99: the handles of the records in a position's queue, slot and done list. -/
def handlesOf (r : PosRec) : List Handle :=
  r.queue.map PromptRec.handle ++ (r.slot.map (fun x => x.prompt.handle)).toList ++ r.done.map PromptRec.handle

/-- R99, R101: each of the 128 handles stands in exactly one of the free pool, the queues, the slots and the done lists; a queue
holds at most 8 records, and a disabled position's queue and slot are empty. -/
def HandlesHeld (s : State) : Prop :=
  (s.free ++ s.positions.toList.flatMap handlesOf).Perm (List.finRange 128) ∧
    ∀ p : Position, (s.pos p).queue.length ≤ 8 ∧
      ((s.pos p).enabled = false → (s.pos p).queue = [] ∧ (s.pos p).slot = none)

end Sys2Proof.Machine
end

