-- ==== Sys2Proof/Certificates/Slice0/Obligations.lean ====
section
/-! DEFINITION. The statements for the provers, chapter by chapter. A statement about a request says which reply it gives and
the whole state it leaves, so it is its result, its completion and its frame in one equation. -/

open Sys2Proof Sys2Proof.Machine

/-! ## The machine -/

/-- The command that waits longest is executed on the state with the queue's rest; with none waiting the part idles
(notes/assumptions/2.md). -/
def Obligations.StepRunsTheFrontCommand : Prop :=
  (∀ (c : Instr) (q : List Instr) (s : State), s.pending = c :: q → step s = exec c (s.setPending q)) ∧
    ∀ s : State, s.pending = [] → step s = .next s

/-- The reset state meets the seven invariants. -/
def Obligations.ResetMeetsTheInvariants : Prop :=
  LinkBounded State.reset ∧ NoticesDistinct State.reset ∧ LimitsHeld State.reset ∧ ActivityHeld State.reset ∧
    BudgetHeld State.reset ∧ TablesHeld State.reset ∧ HandlesHeld State.reset

/-- R193, R194, R195: the request queue holds at most 4 frames, the reply queue at most 8 replies, and each link error count
holds at 65535, after every step from a state in which they do. -/
def Obligations.LinkStaysBounded : Prop :=
  ∀ s t : State, LinkBounded s → step s = .next t → LinkBounded t

/-- R200: the notice queue never holds two notices of one kind and subject, each count lies in 1..255 and each subject is one
of its kind's, after every step from a state in which it is so; the queue then holds at most 81 entries. -/
def Obligations.NoticesStayDistinct : Prop :=
  (∀ s t : State, NoticesDistinct s → step s = .next t → NoticesDistinct t) ∧
    ∀ s : State, NoticesDistinct s → s.link.notices.length ≤ 81

/-- The ceiling, the service ratio, the pending lists, the sync counts, the period number and the later-failure count keep
their ranges, and each pending list holds changes of its own class. -/
def Obligations.LimitsStayHeld : Prop := ∀ s t : State, LimitsHeld s → step s = .next t → LimitsHeld t

/-- R47, R65: caller-active and VAD always agree with their hangovers, which keep their ranges, as do the double-talk
hangover and the divergence count. -/
def Obligations.ActivityStaysHeld : Prop := ∀ s t : State, ActivityHeld s → step s = .next t → ActivityHeld t

/-- R146, R147, R150: the commitment stays 64 plus 24 for each enabled position plus the cost of each leg that is not CLOSED,
and at most the ceiling; the adaptation list stays a list of exactly those legs, each once. -/
def Obligations.BudgetStaysHeld : Prop := ∀ s t : State, BudgetHeld s → step s = .next t → BudgetHeld t

/-- R4, R5, R16: the group lists and the members' own fields agree, the supervision records name each supervisor and agent once and
in their roles, and no slot is bound to two legs that are not CLOSED, in the active tables and as they would stand with every
pending change applied, after every step from a state in which it is so and the limits hold, so that each pending list holds
changes of its own class (R162; LimitsStayHeld keeps the limits). -/
def Obligations.TablesStayHeld : Prop := ∀ s t : State, TablesHeld s → LimitsHeld s → step s = .next t → TablesHeld t

/-- R99, R101: each of the 128 prompt handles stays in exactly one of the free pool, the queues, the slots and the done lists, a
queue holds at most 8 records, and a disabled position has none pending and none in its slot. -/
def Obligations.HandlesStayHeld : Prop := ∀ s t : State, HandlesHeld s → step s = .next t → HandlesHeld t

/-! ## Reset and self-test (R203 to R205, R211) -/

/-- R203: power-on and an assertion of RESETN hold the part in reset: ATTN is released, the transfer in progress is abandoned,
and the cause that will be reported names the source. Where RESETN is asserted while power is still coming up, which of the
two is reported is the part's choice (notes/assumptions/15.md); that POWER_ON is reported where power comes up while RESETN
holds the part is the model's choice (notes/assumptions/29.md). -/
def Obligations.ResetSourcesHoldThePart : Prop :=
  ∀ s : State,
    (∃ t, exec .powerOn s = .next t ∧ t.hold = some .powerOn ∧ t.attn = false ∧ t.link.reading = none) ∧
    ∃ t, exec .resetnAssert s = .next t ∧ t.attn = false ∧ t.link.reading = none ∧
      (s.hold ≠ some .powerOn → t.hold = some .pin) ∧ (t.hold = some .pin ∨ t.hold = some .powerOn)

/-- R191, R203: a part held in reset acts on nothing but a reset source and its release. R191 says so of transfers; that any other
command is not due in a held part, and leaves the state as it is, is the model's choice (notes/assumptions/3.md). -/
def Obligations.HeldPartIgnoresCommands : Prop :=
  ∀ (c : Instr) (s : State), s.hold ≠ none → c ≠ .powerOn → c ≠ .resetnAssert → (∀ pins, c ≠ .resetRelease pins) →
    exec c s = .next s

/-- R203, R205: the release of reset samples the straps, records the cause, gives every block its reset values, and enters
SELFTEST when TEST is 1, else STANDBY, with PART_STATE, the frame clock and, when SCAN is 1, an index scan started. The formed
frames, the values on NTX and HTX, the last service's stamp and spare, and an idle scan's area and chunk are the model's choice
(notes/assumptions/4.md). -/
def Obligations.ReleaseRestoresEveryBlock : Prop :=
  ∀ (s : State) (pins : Straps) (cause : ResetCause), s.hold = some cause →
    ∃ t, exec (.resetRelease pins) s = .next t ∧ t.pending = s.pending ∧ t.hold = none ∧ t.straps = pins ∧ t.cause = cause ∧
      t.frame = 0 ∧
      t.link.requests = [] ∧ t.link.replies = [] ∧ t.link.reading = none ∧ t.link.badCheck = 0 ∧ t.link.badLength = 0 ∧
      t.link.short = 0 ∧ t.link.overrun = 0 ∧
      t.sync = { state := .seeking, seeking := 0, slips := 0, losses := 0 } ∧
      t.clock = { period := 0, mark := .internal, carried := false, prolonged := false, due := none } ∧
      t.ports = {
        netTest := blankTest, headTest := blankTest, netHeld := none, headHeld := none,
        netTx := Vector.replicate 32 (List.replicate 64 0), headTx := Vector.replicate 16 (List.replicate 64 0),
        netRx := [], headRx := [], ntx := none, htx := none } ∧
      (∀ l, t.leg l = blankLeg) ∧ (∀ p, t.pos p = blankPos) ∧ (∀ g, t.members g = []) ∧ t.supervision = [] ∧
      t.quietMask = 0 ∧ t.quietLevel = false ∧ (∀ m, t.src m = blankSource) ∧ t.free = List.finRange 128 ∧
      t.classMap = #v[0, 0, 1, 1, 2, 2, 3, 3] ∧ (∀ a, t.area a = blankArea (a == 0)) ∧ indexCount t.index = 0 ∧
      t.reads = [] ∧ t.fault = blankFault ∧
      t.work = {
        commitment := 64, ceiling := 2048, ratio := 2, list := [],
        last := { stamp := 0, spare := 0, adaptations := 0, openingFetches := 0, closingFetches := 0, unitsLeft := 0,
                  eligible := 0, notServed := 0, itemsLeft := 0 } } ∧
      (∀ c, t.stage c = blankStage) ∧
      t.scan.area = 0 ∧ t.scan.chunk = 0 ∧ t.scan.counts = { indexed := 0, duplicate := 0, full := 0, range := 0, aborted := 0 } ∧
      t.scan.outstanding = t.scan.running ∧
      (if pins.test then
        t.part = .selftest ∧ t.progress = 1 ∧ t.link.notices = [] ∧ t.scan.running = false ∧ t.fetch = []
      else
        t.part = .standby ∧ t.progress = 0 ∧
          t.link.notices = [{ subject := 0, count := 1, stamp := 0, detail := .partState .standby 0 (.reset cause) }] ∧
          t.scan.running = pins.scan ∧ t.fetch = if pins.scan then [chunkItem 0 0] else [])

/-- R211: a RESET request with an empty body resets at once, whatever the reply queue holds, as a release of reset with cause
REQUEST does, and gives no reply; one with any other body is answered BAD_LENGTH and resets nothing. -/
def Obligations.ResetRequestResetsAtOnce : Prop :=
  (∀ (s : State) (r : Request) (rest : List Request) (pins : Straps),
    s.hold = none → s.link.requests = r :: rest → r.kind = 0x05#8 → r.body = [] →
      ∃ t, exec (.reset pins) s = .next t ∧ exec (.resetRelease pins) { s with hold := some .request } = .next t ∧
        t.cause = .request ∧ t.link.requests = [] ∧ t.link.replies = []) ∧
  ∀ (s : State) (r : Request) (rest : List Request) (pins : Straps),
    HeadDue 0x05#8 r rest s → r.body ≠ [] → exec (.reset pins) s = .next (answered r rest .badLength [] s)

/-- R204, R205: a phase that finds no fault moves to the next, and after phase 4 to STANDBY with PART_STATE raised, the frame clock
started and, when SCAN is 1, an index scan started; one that finds a fault enters FAILED with its phase in PART_STATE. Nothing
else changes: SELFTEST leaves the memories it tested at their reset values. A0 and chunk 0 for a scan that finds no area are the
model's choice (notes/assumptions/25.md). -/
def Obligations.SelfTestRunsItsPhases : Prop :=
  ∀ s : State, s.hold = none → s.part = .selftest →
    (s.progress < 4 → exec (.selftestPhaseEnd false) s = .next { s with progress := s.progress + 1 }) ∧
    (s.progress = 4 → ∃ t, exec (.selftestPhaseEnd false) s = .next t ∧ t.part = .standby ∧ t.progress = 0 ∧
      t.clock = { period := 0, mark := .internal, carried := false, prolonged := false, due := none } ∧
      t.link = (raiseAll [(0, .partState .standby 0 (.reset s.cause))] s).link ∧
      (s.straps.scan = false → t.scan = s.scan ∧ t.index = s.index ∧ t.fetch = s.fetch) ∧
      (s.straps.scan = true → t.index = keepEntries (fun e => e.origin != .catalogue) s.index ∧
        (∀ a, nextArea s.areas 0 = some a →
          t.scan = { running := true, area := a, chunk := 0, outstanding := true
                     counts := { indexed := 0, duplicate := 0, full := 0, range := 0, aborted := 0 } } ∧
          t.fetch = s.fetch ++ [{ requester := .scan, area := a, offset := 0, count := 256 }]) ∧
        (nextArea s.areas 0 = none →
          t.scan = { running := true, area := 0, chunk := 0, outstanding := false
                     counts := { indexed := 0, duplicate := 0, full := 0, range := 0, aborted := 0 } } ∧
          t.fetch = s.fetch)) ∧
      { t with
        part := s.part, progress := s.progress, clock := s.clock, link := s.link, scan := s.scan, index := s.index
        fetch := s.fetch } = s) ∧
    ((s.link.notices = [] ∧ s.link.reading = none) →
      (raiseAll [(0, .partState .standby 0 (.reset s.cause))] s).link = { s.link with notices :=
        [{ subject := 0, count := 1, stamp := s.frame, detail := .partState .standby 0 (.reset s.cause) }] }) ∧
    exec (.selftestPhaseEnd true) s = .next ({ s with part := .failed }.setLink
      (raiseAll [(0, .partState .failed s.progress (.reset s.cause))] s).link)

/-! ## The control link (R191 to R202, R206 to R212) -/

/-- R192, R194: a whole frame, whatever follows it, joins the tail of a request queue that holds fewer than 4; otherwise it is
answered BUSY, or, with 8 replies queued, the answer is dropped and OVERRUN counted. That the BUSY reply to a kind of 0x80 and
above has its kind modulo 256 is read by inference (notes/assumptions/17.md). -/
def Obligations.WholeFrameIsOffered : Prop :=
  ∀ (s : State) (r : Request) (extra : List Byte), s.hold = none → s.link.reading = none → r.body.length ≤ 248 →
    exec (.writeTransfer (frameBytes 0xA5#8 r.kind r.tag r.body ++ extra)) s = .next
      (if s.link.requests.length < 4 then s.setLink { s.link with requests := s.link.requests ++ [r] }
      else if s.link.replies.length < 8 then answered r s.link.requests .busy [] s
      else s.setLink { s.link with overrun := if s.link.overrun < 65535 then s.link.overrun + 1 else 65535 })

/-- R193: a write transfer whose length byte is out of range, that is released early, or whose check differs is discarded and
counted once; any first byte but 0xA5 and 0x5A is ignored. -/
def Obligations.BrokenFrameIsCounted : Prop :=
  ∀ s : State, s.hold = none → s.link.reading = none →
    exec (.writeTransfer [0xA5#8]) s =
      .next (s.setLink { s.link with short := if s.link.short < 65535 then s.link.short + 1 else 65535 }) ∧
    (∀ (len : Byte) (rest : List Byte), len.toNat < 4 ∨ 252 < len.toNat →
      exec (.writeTransfer (0xA5#8 :: len :: rest)) s = .next (s.setLink
        { s.link with badLength := if s.link.badLength < 65535 then s.link.badLength + 1 else 65535 })) ∧
    (∀ (len : Byte) (rest : List Byte), 4 ≤ len.toNat → len.toNat ≤ 252 → rest.length < len.toNat →
      exec (.writeTransfer (0xA5#8 :: len :: rest)) s =
        .next (s.setLink { s.link with short := if s.link.short < 65535 then s.link.short + 1 else 65535 })) ∧
    (∀ (core : List Byte) (hi lo : Byte) (extra : List Byte), 2 ≤ core.length → core.length ≤ 250 →
      u16 (crc (BitVec.ofNat 8 (core.length + 2) :: core)).toNat ≠ [hi, lo] →
      exec (.writeTransfer (0xA5#8 :: BitVec.ofNat 8 (core.length + 2) :: core ++ hi :: lo :: extra)) s = .next (s.setLink
        { s.link with badCheck := if s.link.badCheck < 65535 then s.link.badCheck + 1 else 65535 })) ∧
    (∀ (lead : Byte) (rest : List Byte), lead ≠ 0xA5#8 → lead ≠ 0x5A#8 → exec (.writeTransfer (lead :: rest)) s = .next s)

/-- R191, R197, R198, R201: a read transfer sends the head reply, or the head notice where no reply waits, or the byte 0x00, as it stands when
its first byte is clocked out. A frame leaves its queue when its last byte has been clocked out; a notice reached by raises since
its first byte stays with those raises; a read cut short leaves the frame and counts SHORT. That READ_TRANSFER_END stands for the
moment the last check byte is clocked out, or LSEL is released before it, is the model's choice (notes/assumptions/30.md).
LDO carries the bytes of the read in progress and 0x00 after them, and 0x00 with none in progress and in a part held in reset.
A WRITE_TRANSFER whose lead byte is 0x5A is a READ_TRANSFER that clocks the bytes after it and ends there, and any other drives
0x00; a transfer that finds a read in progress first ends it as one cut short (notes/assumptions/16.md). ATTN is asserted while
a reply or a notice waits, and released in a part held in reset. -/
def Obligations.ReadTransfersSendAndEnd : Prop :=
  (∀ s : State, s.hold = none →
    (s.link.reading = none → ∀ (x : Reply) (xs : List Reply), s.link.replies = x :: xs → exec .readTransfer s =
      .next (s.setLink { s.link with reading := some { what := .reply, bytes := x.bytes, raises := 0 } })) ∧
    (s.link.reading = none → ∀ (n : Notice) (ns : List Notice), s.link.replies = [] → s.link.notices = n :: ns →
      exec .readTransfer s =
      .next (s.setLink { s.link with reading := some { what := .notice, bytes := n.bytes, raises := 0 } })) ∧
    (s.link.reading = none → s.link.replies = [] → s.link.notices = [] → exec .readTransfer s =
      .next (s.setLink { s.link with reading := some { what := .nothing, bytes := [0], raises := 0 } })) ∧
    ∀ (x : ReadInProgress) (clocked : Nat), s.link.reading = some x →
      (x.what ≠ .nothing → clocked < x.bytes.length → exec (.readTransferEnd clocked) s = .next (s.setLink
        { s.link with reading := none, short := if s.link.short < 65535 then s.link.short + 1 else 65535 })) ∧
      (x.what = .reply → x.bytes.length ≤ clocked → exec (.readTransferEnd clocked) s =
        .next (s.setLink { s.link with reading := none, replies := s.link.replies.tail })) ∧
      (x.what = .notice → x.bytes.length ≤ clocked → x.raises = 0 → exec (.readTransferEnd clocked) s =
        .next (s.setLink { s.link with reading := none, notices := s.link.notices.tail })) ∧
      (∀ (n : Notice) (ns : List Notice), s.link.notices = n :: ns → x.what = .notice → x.bytes.length ≤ clocked →
        0 < x.raises → exec (.readTransferEnd clocked) s = .next (s.setLink
          { s.link with reading := none, notices := { n with count := min 255 x.raises } :: ns })) ∧
      (x.what = .nothing → exec (.readTransferEnd clocked) s = .next (s.setLink { s.link with reading := none }))) ∧
  (∀ (s : State) (k : Nat),
    (∀ x, s.hold = none → s.link.reading = some x → s.ldo k = x.bytes.getD k 0) ∧
    (s.hold ≠ none ∨ s.link.reading = none → s.ldo k = 0)) ∧
  (∀ (s : State) (rest : List Byte), s.hold = none → ∃ u t, exec .readTransfer s = .next u ∧
    exec (.readTransferEnd rest.length) u = .next t ∧ exec (.writeTransfer (0x5A#8 :: rest)) s = .next t ∧
    transferOut (0x5A#8 :: rest) s = 0 :: (List.range rest.length).map u.ldo) ∧
  (∀ (s : State) (lead : Byte) (rest : List Byte), lead ≠ 0x5A#8 →
    transferOut (lead :: rest) s = List.replicate (rest.length + 1) 0) ∧
  (∀ (s : State) (x : ReadInProgress) (bytes : List Byte), s.hold = none → s.link.reading = some x →
    ∃ u, exec (.readTransferEnd 0) s = .next u ∧ u.link.reading = none ∧ exec .readTransfer s = exec .readTransfer u ∧
      exec (.writeTransfer bytes) s = exec (.writeTransfer bytes) u) ∧
  ∀ s : State, s.attn = decide (s.hold = none ∧ (s.link.replies ≠ [] ∨ s.link.notices ≠ []))

/-- R195: a kind that names no request is answered BAD_REQUEST; every request row checks the body's length first, then the part
state: a body that does not fit is answered BAD_LENGTH, and in SELFTEST and FAILED any request but IDENTIFY, STATUS and RESET
is answered WRONG_STATE, with no other change. With 8 replies queued execution waits, and no row changes anything. That the
reply to a kind of 0x80 and above has its kind modulo 256 is read by inference (notes/assumptions/17.md). -/
def Obligations.LinkChecksComeFirst : Prop :=
  (∀ (s : State) (r : Request) (rest : List Request), HeadDue r.kind r rest s → bodyFits r.kind.toNat r.body = none →
    exec .badRequest s = .next (answered r rest .badRequest [] s)) ∧
  ∀ (c : Instr) (k : Byte) (s : State), rowKind c = some k →
    (8 ≤ s.link.replies.length → exec c s = .next s) ∧
    ∀ (r : Request) (rest : List Request), HeadDue k r rest s →
      (bodyFits k.toNat r.body = some false → exec c s = .next (answered r rest .badLength [] s)) ∧
      (bodyFits k.toNat r.body = some true → takenAlways k = false → ¬ Serving s →
        exec c s = .next (answered r rest .wrongState [] s))

/-- R195, R196: an executed request gets exactly one reply, of its kind plus 0x80 and its tag; where its result is neither OK
nor ACCEPTED, the reply carries the result alone and the request changes no state. -/
def Obligations.RefusedRequestChangesNothing : Prop :=
  ∀ (c : Instr) (k : Byte) (s : State) (r : Request) (rest : List Request), rowKind c = some k → HeadDue k r rest s →
    ∃ t x, exec c s = .next t ∧ t.link.requests = rest ∧ t.link.replies = s.link.replies ++ [x] ∧
      x.kind = r.kind + 0x80#8 ∧ x.tag = r.tag ∧
      (x.result ≠ .ok → x.result ≠ .accepted → x.body = [] ∧ t = answered r rest x.result [] s)

/-- R206, R207: IDENTIFY and STATUS, taken in every part state, report and change no state; the straps are one byte of bits
(notes/assumptions/14.md). -/
def Obligations.IdentifyAndStatusReport : Prop :=
  ∀ (s : State) (r : Request) (rest : List Request), r.body = [] →
    (HeadDue 0x01#8 r rest s → exec .identify s = .next (answered r rest .ok
      ([0x4A, 0x44, 0x01, 0xA0, 1] ++ u8 (strapBits s.straps) ++
        u8 (if s.straps.pos1 then 16 else if s.straps.pos0 then 12 else 8)) s)) ∧
    (HeadDue 0x02#8 r rest s → exec .status s = .next (answered r rest .ok
      (u8 s.part.code ++ u8 s.progress ++ u8 s.cause.code ++ u32 s.frame.toNat ++ u8 s.sync.state.code ++
        u16 s.work.commitment ++ flag s.fault.latched ++ u8 s.link.notices.length ++ u8 (strapBits s.straps)) s))

/-- R208: START takes the part from STANDBY to RUNNING, replies with the frame counter and changes nothing else; in RUNNING it is
refused WRONG_STATE. -/
def Obligations.StartEntersRunning : Prop :=
  ∀ (s : State) (r : Request) (rest : List Request), HeadDue 0x03#8 r rest s → r.body = [] →
    (s.part = .standby →
      exec .start s = .next (answered r rest .ok (u32 s.frame.toNat) { s with part := .running })) ∧
    (s.part = .running → exec .start s = .next (answered r rest .wrongState [] s))

/-- R209, R210: STOP is refused WRONG_STATE in STANDBY. In RUNNING it closes every leg, empties every group, the supervision table
and the pending lists, stops every source, disables every position with its prompts ended CANCELLED in its done list, sets the
commitment to 64 and enters STANDBY; it keeps what R209 says it keeps. The fetch items of the sources and of the prompts in a slot
are withdrawn, and what their reads already served bring is to be discarded (R95, R114, R129). The reply joins the reply queue; the notice queue takes
the PROMPT_DONEs of each position whose prompts moved, in increasing position number, then PART_STATE with cause STOP. That a
position raises once for each prompt moved is read by inference (notes/assumptions/10.md). -/
def Obligations.StopTearsDown : Prop :=
  ∀ (s : State) (r : Request) (rest : List Request), HeadDue 0x04#8 r rest s → r.body = [] →
    (s.part = .standby → exec .stop s = .next (answered r rest .wrongState [] s)) ∧
    (s.part = .running → ∃ t, exec .stop s = .next t ∧ t.part = .standby ∧ (∀ l, t.leg l = blankLeg) ∧ (∀ g, t.members g = []) ∧
      t.supervision = [] ∧
      (∀ m, t.src m = { s.src m with
        state := .stopped, cmd := .none, ring := [], lowArmed := true, loc := none, index := 0, phase := .first, next := 0,
        half0 := .empty, half1 := .empty, retryDue := false, retrying := false, tonePhase := 0, cadence := 0 }) ∧
      (∀ p, t.pos p = { s.pos p with
        enabled := false, group := none, duck := 32768, queue := [], slot := none,
        mic := { (s.pos p).mic with vadHangover := 0, vad := false }, done := (s.pos p).done ++ cancelledRecords s p }) ∧
      (∀ c, t.stage c = { s.stage c with list := [], latch := false }) ∧
      t.work = { s.work with commitment := 64, list := [] } ∧
      t.fetch = s.fetch.filter (fun it => !tornDown s it.requester) ∧
      t.reads = s.reads.map (fun x => { x with dropped := x.dropped || tornDown s x.item.requester }) ∧
      { t with
        part := s.part, legs := s.legs, groups := s.groups, supervision := s.supervision, sources := s.sources,
        positions := s.positions, routing := s.routing, levels := s.levels, echo := s.echo, work := s.work, fetch := s.fetch,
        reads := s.reads, link := s.link } = s ∧
      t.link = { (raiseAll ((List.finRange 16).flatMap (doneRaises s) ++ [(0, .partState .standby 0 .stop)]) s).link with
        requests := rest
        replies := s.link.replies ++ [{
          kind := 0x84#8, tag := r.tag, result := .ok
          body := u8 (vcount LegRec.live s.legs) ++ u8 ((s.positions.toList.map promptsOf).sum) ++
            u8 (s.routing.list.length + s.levels.list.length + s.echo.list.length) }] })

/-- R212: LINK_STATUS reports the four counts and the three queue lengths, and then clears the counts. -/
def Obligations.LinkStatusReportsAndClears : Prop :=
  ∀ (s : State) (r : Request) (rest : List Request), HeadDue 0x06#8 r rest s → r.body = [] →
    (Serving s → exec .linkStatus s = .next (answered r rest .ok
      (u16 s.link.badCheck ++ u16 s.link.badLength ++ u16 s.link.short ++ u16 s.link.overrun ++ u8 rest.length ++
        u8 s.link.replies.length ++ u8 s.link.notices.length)
      (s.setLink { s.link with badCheck := 0, badLength := 0, short := 0, overrun := 0 }))) ∧
    (¬ Serving s → exec .linkStatus s = .next (answered r rest .wrongState [] s))

/-! ## The connection tables (R15 to R33) -/

/-- R16, R148: LEG_OPEN of a CLOSED leg on a free slot, with a tail granted: the leg opens with zero taps and history, joins
the head of the adaptation list, and its cost joins the commitment. The granted tail is the greatest multiple of 16, not above
the rounded request, whose cost fits under the ceiling. -/
def Obligations.LegOpenAdmitsTheLeg : Prop :=
  ∀ (s : State) (r : Request) (rest : List Request) (l : Leg) (slot : NetSlot) (tail gain : Nat),
    HeadDue 0x10#8 r rest s → s.part = .running → r.body = u8 l.val ++ u8 slot.val ++ u16 tail ++ u16 gain →
    tail < 65536 → gain < 65536 → (s.leg l).state = .closed → (s.leg l).closing = false →
    (∀ k, k ≠ l → (s.leg k).state ≠ .closed → (s.leg k).slot ≠ some slot) →
    ∀ granted : Nat, granted % 16 = 0 → 128 ≤ granted → granted ≤ max 128 (min 1024 tail) →
    s.work.commitment + (granted / 16 + 4) ≤ s.work.ceiling →
    (∀ g, g % 16 = 0 → g ≤ max 128 (min 1024 tail) → s.work.commitment + (g / 16 + 4) ≤ s.work.ceiling → g ≤ granted) →
    exec .legOpen s = .next (answered r rest .ok
      (u16 granted ++ u16 (min 32768 gain) ++ u16 (s.work.commitment + (granted / 16 + 4)))
      ((s.setLeg l { s.leg l with
          state := .opened, slot := some slot, sendGain := min 32768 gain, group := none, source := none, ramp := 0,
          closing := false, tail := granted, ec := blankCanceller granted, work := blankLegWork }).setWork
        { s.work with
          commitment := s.work.commitment + (granted / 16 + 4), list := l :: s.work.list.filter (· != l) }))

/-- R17, R163: LEG_CLOSE of a leg that is not CLOSED in the projected state, with room in the ROUTING list: the change joins the
tail and the closing flag is set; nothing else changes. -/
def Obligations.LegCloseJoinsAndMarks : Prop :=
  ∀ (s : State) (r : Request) (rest : List Request) (l : Leg),
    HeadDue 0x11#8 r rest s → s.part = .running → r.body = u8 l.val →
    (((projected s).leg l).state = .closed → exec .legClose s = .next (answered r rest .noObject [] s)) ∧
    (((projected s).leg l).state ≠ .closed → 16 ≤ s.routing.list.length →
      exec .legClose s = .next (answered r rest .full [] s)) ∧
    (((projected s).leg l).state ≠ .closed → s.routing.list.length < 16 →
      exec .legClose s = .next (answered r rest .ok (u8 (s.routing.list.length + 1))
        (({ s with routing := { s.routing with
            list := s.routing.list ++ [{ tag := r.tag, arrival := s.frame, op := .legClose l }] } } : State).setLeg l
          { s.leg l with closing := true })))

/-- R15, R19, R21, R23, R26, R78, R80, R163: in RUNNING, with room in the ROUTING list, each of GROUP_ADD, GROUP_REMOVE, MUTE,
UNSUPERVISE, HOLD and RESUME that passes its checks on the projected state joins the tail of the list with its tag and arrival
frame; the reply carries the count, and the active tables stay as they are. -/
def Obligations.RoutingRequestsJoinTheList : Prop :=
  ∀ (s : State) (r : Request) (rest : List Request), s.part = .running → s.routing.list.length < 16 →
    (∀ (g : Group) (l : Leg), HeadDue 0x12#8 r rest s → r.body = u8 g.val ++ u8 0 ++ u8 l.val →
      ((projected s).leg l).state ≠ .closed → ((projected s).leg l).group = none → ((projected s).members g).length < 6 →
      exec .groupAdd s = .next (stagedRouting r rest (.groupAdd g (.leg l)) [] s)) ∧
    (∀ (g : Group) (p : Position), HeadDue 0x12#8 r rest s → r.body = u8 g.val ++ u8 1 ++ u8 p.val →
      p.val < activeCount s.straps → ((projected s).pos p).enabled = true → ((projected s).pos p).group = none →
      (∀ k ∈ (projected s).supervision, k.supervisor ≠ p) → ((projected s).members g).length < 6 →
      exec .groupAdd s = .next (stagedRouting r rest (.groupAdd g (.pos p)) [] s)) ∧
    (∀ (g : Group) (l : Leg), HeadDue 0x13#8 r rest s → r.body = u8 g.val ++ u8 0 ++ u8 l.val →
      ((projected s).leg l).group = some g →
      exec .groupRemove s = .next (stagedRouting r rest (.groupRemove g (.leg l)) [] s)) ∧
    (∀ (g : Group) (p : Position), HeadDue 0x13#8 r rest s → r.body = u8 g.val ++ u8 1 ++ u8 p.val →
      p.val < activeCount s.straps → ((projected s).pos p).group = some g →
      exec .groupRemove s = .next (stagedRouting r rest (.groupRemove g (.pos p)) [] s)) ∧
    (∀ (p : Position) (on : Bool), HeadDue 0x16#8 r rest s → r.body = u8 p.val ++ flag on → p.val < activeCount s.straps →
      exec .mute s = .next (stagedRouting r rest (.mute p on) [] s)) ∧
    (∀ p : Position, HeadDue 0x18#8 r rest s → r.body = u8 p.val → p.val < activeCount s.straps →
      (∃ k ∈ (projected s).supervision, k.supervisor = p) →
      exec .unsupervise s = .next (stagedRouting r rest (.unsupervise p) [] s)) ∧
    (∀ (l : Leg) (m : Source), HeadDue 0x14#8 r rest s → r.body = u8 l.val ++ u8 m.val →
      ((projected s).leg l).state ≠ .closed →
      exec .hold s = .next (stagedRouting r rest (.hold l m) [] s)) ∧
    ∀ l : Leg, HeadDue 0x15#8 r rest s → r.body = u8 l.val → ((projected s).leg l).state = .held →
      exec .resume s = .next (stagedRouting r rest (.resume l) [] s)

/-- R24, R163: SUPERVISE of an enabled supervisor in no group and an enabled agent, where the supervisor has no record or one
naming this agent: it joins the ROUTING list; a long body's gains are clamped, carried by the change and by the reply. -/
def Obligations.SuperviseJoinsTheList : Prop :=
  ∀ (s : State) (r : Request) (rest : List Request) (sup agent : Position) (mode : SupMode),
    HeadDue 0x17#8 r rest s → s.part = .running → s.routing.list.length < 16 →
    sup.val < activeCount s.straps → agent.val < activeCount s.straps →
    ((projected s).pos sup).enabled = true → ((projected s).pos agent).enabled = true →
    ((projected s).pos sup).role = .supervisor → ((projected s).pos agent).role = .agent →
    ((projected s).pos sup).group = none →
    (match asSupervisor (projected s) sup with
      | some k => k.agent = agent
      | none => asAgent (projected s) agent = none ∧ (projected s).supervision.length < 8) →
    (r.body = u8 sup.val ++ u8 agent.val ++ u8 mode.code →
      exec .supervise s = .next (stagedRouting r rest (.supervise sup agent mode none) [] s)) ∧
    ∀ gain duck : Nat, gain < 65536 → duck < 65536 →
      r.body = u8 sup.val ++ u8 agent.val ++ u8 mode.code ++ u16 gain ++ u16 duck →
      exec .supervise s = .next (stagedRouting r rest
        (.supervise sup agent mode (some (min 32768 gain, min 32768 duck))) (u16 (min 32768 gain) ++ u16 (min 32768 duck)) s)

/-- R29, R71, R53, R163: SEND_GAIN and MIC_SET join the LEVELS list and ECHO_SET the ECHO list with their clamped values; the
active tables stay as they are. The replies carry the count after, the gain, and for MIC_SET and ECHO_SET the settings as they
will stand when every pending change of the list has applied, this one included. -/
def Obligations.LevelsAndEchoRequestsJoinTheirLists : Prop :=
  ∀ (s : State) (r : Request) (rest : List Request), s.part = .running →
    (s.levels.list.length < 16 → ∀ (l : Leg) (gain : Nat), gain < 65536 → HeadDue 0x1A#8 r rest s →
      r.body = u8 0 ++ u8 l.val ++ u16 gain → ((projected s).leg l).state ≠ .closed →
      exec .sendGain s = .next (answered r rest .ok (u8 (s.levels.list.length + 1) ++ u16 (min 32768 gain))
        { s with levels := { s.levels with list := s.levels.list ++
          [{ tag := r.tag, arrival := s.frame, op := .sendGain (.leg l) (min 32768 gain) }] } })) ∧
    (s.levels.list.length < 16 → ∀ (p : Position) (gain : Nat), gain < 65536 → HeadDue 0x1A#8 r rest s →
      r.body = u8 1 ++ u8 p.val ++ u16 gain → p.val < activeCount s.straps →
      exec .sendGain s = .next (answered r rest .ok (u8 (s.levels.list.length + 1) ++ u16 (min 32768 gain))
        { s with levels := { s.levels with list := s.levels.list ++
          [{ tag := r.tag, arrival := s.frame, op := .sendGain (.pos p) (min 32768 gain) }] } })) ∧
    (s.levels.list.length < 16 → ∀ (p : Position) (sel trim floor sidetone : Nat) (offset : Int), HeadDue 0x28#8 r rest s →
      sel < 256 → sel % 16 ≠ 0 → trim < 65536 → floor < 65536 → sidetone < 65536 → -32768 ≤ offset → offset ≤ 32767 →
      r.body = u8 p.val ++ u8 sel ++ u16 trim ++ i16 offset ++ u16 floor ++ u16 sidetone → p.val < activeCount s.straps →
      let op := ChangeOp.micSet p (if sel.testBit 0 then some (min 16383 trim) else none)
        (if sel.testBit 1 then some (max (-2048) (min 2047 offset)) else none)
        (if sel.testBit 2 then some (min 32768 floor) else none) (if sel.testBit 3 then some (min 32768 sidetone) else none)
      let mic := (s.pos p).mic
      exec .micSet s = .next (answered r rest .ok
        (u8 (s.levels.list.length + 1) ++
          u16 (settled (fun | .micSet q v _ _ _ => if q = p then v else none | _ => none) s.levels.list op mic.trim) ++
          i16 (settled (fun | .micSet q _ v _ _ => if q = p then v else none | _ => none) s.levels.list op mic.offset) ++
          u16 (settled (fun | .micSet q _ _ v _ => if q = p then v else none | _ => none) s.levels.list op mic.floorGain) ++
          u16 (settled (fun | .micSet q _ _ _ v => if q = p then v else none | _ => none) s.levels.list op (s.pos p).sidetone))
        { s with levels := { s.levels with list := s.levels.list ++ [{ tag := r.tag, arrival := s.frame, op := op }] } })) ∧
    (s.echo.list.length < 16 → (∀ x ∈ s.echo.list, x.op.cls = .echo) → ∀ (l : Leg) (sel bulk shift nlp : Nat), HeadDue 0x20#8 r rest s → sel < 256 → sel % 8 ≠ 0 →
      bulk < 65536 → shift < 256 → nlp < 256 → (sel.testBit 2 = true → nlp < 2) →
      r.body = u8 l.val ++ u8 sel ++ u16 bulk ++ u8 shift ++ u8 nlp → ((projected s).leg l).state ≠ .closed →
      let op := ChangeOp.echoSet l (if sel.testBit 0 then some (min 512 bulk / 4 * 4) else none)
        (if sel.testBit 1 then some (min 6 shift) else none) (if sel.testBit 2 then some (decide (nlp = 1)) else none)
      exec .echoSet s = .next (answered r rest .ok
        (u8 (s.echo.list.length + 1) ++
          u16 (settled (fun | .echoSet k v _ _ => if k = l then v else none | _ => none) s.echo.list op (s.leg l).bulk) ++
          u8 (settled (fun | .echoSet k _ v _ => if k = l then v else none | _ => none) s.echo.list op (s.leg l).shift) ++
          flag (settled (fun | .echoSet k _ _ v => if k = l then v else none | _ => none) s.echo.list op (s.leg l).nlp))
        { s with echo := { s.echo with list := s.echo.list ++ [{ tag := r.tag, arrival := s.frame, op := op }] } }))

/-- R18, R20, R22, R23, R25, R26, R30, R52, R72, R79, R81: the effect of each staged change when it applies, and R166 to R169, where
each pending list holds changes of its own class (R162): the classes due with changes apply whole, one after the other in an order the part chooses (notes/assumptions/5.md), each from the head
of its list; a close takes the leg's pending LEVELS and ECHO changes with it, where they have not applied before it, also from a
class that is not due; each class that applied a change or lost one raises APPLIED with both counts and the last tag applied; and
a class that is not due keeps what is left of its list. The legs handed on as freshly held are those a HOLD found OPEN (R76) -/
def Obligations.CloseAppliesToTheWholeLeg : Prop :=
  (∀ (s : State) (l : Leg), (s.leg l).state ≠ .closed →
    (applyOp (.legClose l) s).leg l = blankLeg ∧
    (∀ k, k ≠ l → (applyOp (.legClose l) s).leg k = s.leg k) ∧
    (∀ g, (s.leg l).group = some g → (applyOp (.legClose l) s).members g = (s.members g).filter (· != .leg l)) ∧
    (∀ g, (s.leg l).group ≠ some g → (applyOp (.legClose l) s).members g = s.members g) ∧
    (applyOp (.legClose l) s).work =
      { s.work with commitment := s.work.commitment - ((s.leg l).tail / 16 + 4), list := s.work.list.filter (· != l) } ∧
    { applyOp (.legClose l) s with legs := s.legs, groups := s.groups, work := s.work } = s) ∧
  (∀ (s : State) (g : Group) (l : Leg),
    applyOp (.groupAdd g (.leg l)) s =
      (s.setMembers g (s.members g ++ [.leg l])).setLeg l { s.leg l with group := some g } ∧
    applyOp (.groupRemove g (.leg l)) s =
      (s.setMembers g ((s.members g).filter (fun m => decide (m ≠ .leg l)))).setLeg l { s.leg l with group := none }) ∧
  (∀ (s : State) (g : Group) (p : Position),
    applyOp (.groupAdd g (.pos p)) s =
      (s.setMembers g (s.members g ++ [.pos p])).setPos p { s.pos p with group := some g } ∧
    applyOp (.groupRemove g (.pos p)) s =
      (s.setMembers g ((s.members g).filter (fun m => decide (m ≠ .pos p)))).setPos p { s.pos p with group := none }) ∧
  (∀ (s : State) (l : Leg) (m : Source),
    ((s.leg l).state = .opened →
      applyOp (.hold l m) s = s.setLeg l { s.leg l with state := .held, source := some m, ramp := 0 }) ∧
    ((s.leg l).state = .held →
      applyOp (.hold l m) s = s.setLeg l { s.leg l with source := some m } ∧
      applyOp (.resume l) s = s.setLeg l { s.leg l with state := .opened, source := none, ramp := 0 })) ∧
  (∀ (s : State) (p : Position) (on : Bool), applyOp (.mute p on) s = s.setPos p { s.pos p with muted := on }) ∧
  (∀ (s : State) (sup agent : Position) (mode : SupMode) (coach : Option (Nat × Nat)),
    ((∀ k ∈ s.supervision, k.supervisor ≠ sup) → applyOp (.supervise sup agent mode coach) s = { s with
      supervision := s.supervision ++ [{
        supervisor := sup, agent := agent, mode := mode
        coachGain := match coach with | some x => x.1 | none => 32768
        coachDuck := match coach with | some x => x.2 | none => 8192 }] }) ∧
    ((∃ k ∈ s.supervision, k.supervisor = sup) → applyOp (.supervise sup agent mode coach) s = { s with
      supervision := s.supervision.map (fun k => if k.supervisor = sup then { k with
        mode := mode
        coachGain := match coach with | some x => x.1 | none => k.coachGain
        coachDuck := match coach with | some x => x.2 | none => k.coachDuck } else k) }) ∧
    applyOp (.unsupervise sup) s =
      { s with supervision := s.supervision.filter (fun k => decide (k.supervisor ≠ sup)) }) ∧
  (∀ (s : State) (l : Leg) (p : Position) (gain : Nat),
    applyOp (.sendGain (.leg l) gain) s = s.setLeg l { s.leg l with sendGain := gain } ∧
    applyOp (.sendGain (.pos p) gain) s = s.setPos p { s.pos p with sendGain := gain }) ∧
  (∀ (s : State) (p : Position) (trim : Option Nat) (offset : Option Int) (floor sidetone : Option Nat),
    applyOp (.micSet p trim offset floor sidetone) s = s.setPos p { s.pos p with
      sidetone := match sidetone with | some x => x | none => (s.pos p).sidetone
      mic := { (s.pos p).mic with
        trim := match trim with | some x => x | none => (s.pos p).mic.trim
        offset := match offset with | some x => x | none => (s.pos p).mic.offset
        floorGain := match floor with | some x => x | none => (s.pos p).mic.floorGain } }) ∧
  (∀ (s : State) (l : Leg) (bulk shift : Option Nat) (nlp : Option Bool), (s.leg l).state ≠ .closed →
    applyOp (.echoSet l bulk shift nlp) s =
      let r := { s.leg l with
        shift := match shift with | some x => x | none => (s.leg l).shift
        nlp := match nlp with | some x => x | none => (s.leg l).nlp }
      match bulk with
      | none => s.setLeg l r
      | some b => (s.setLeg l { r with bulk := b, ec := { r.ec with taps := List.replicate r.ec.taps.length 0 } }).setWork
          { s.work with list := l :: s.work.list.filter (· != l) }) ∧
  ∀ s : State, ClassesHeld s →
    let due := fun c : ChangeClass =>
      decide ((s.stage c).list ≠ []) && ((s.stage c).nextFrame || (s.stage c).latch)
    let closed := fun x : Change => s.routing.list.any (fun y =>
      match y.op, x.op with
      | .legClose l, .sendGain (.leg k) _ => l == k
      | .legClose l, .echoSet k _ _ _ => l == k
      | _, _ => false)
    let t := (stageApplication s).1
    ∃ order : List ChangeClass, order.Nodup ∧ (∀ c, c ∈ order ↔ due c = true) ∧
      let after := fun c : ChangeClass => (order.takeWhile (· != c)).contains .routing
      let purged := fun c : ChangeClass => if after c then (s.stage c).list.filter closed else []
      let kept := fun c : ChangeClass => if after c then (s.stage c).list.filter (fun x => !closed x) else (s.stage c).list
      let done := fun c : ChangeClass => if due c then kept c else []
      let apply := fun (cs : List Change) => cs.foldl (fun u x => applyOp x.op u) s
      { t with routing := s.routing, levels := s.levels, echo := s.echo, link := s.link } = apply (order.flatMap done) ∧
      (∀ c, t.stage c = { s.stage c with list := if due c then [] else kept c, latch := false }) ∧
      t.link = (raiseAll ([ChangeClass.routing, .levels, .echo].flatMap (fun c =>
        if done c = [] ∧ purged c = [] then []
        else [(c.code, .applied (done c).length (purged c).length ((done c).getLast?.map Change.tag))])) s).link ∧
      ∀ l : Leg, l ∈ (stageApplication s).2 ↔ ∃ before x later m,
        order.flatMap done = before ++ x :: later ∧ x.op = .hold l m ∧ ((apply before).leg l).state = .opened

/-- R27, R28, R115: POSITION_SET in RUNNING. A disabled position with room under the ceiling is enabled afresh; an enabled position in
no group and no supervision record, active or projected, is disabled, its prompts end CANCELLED and their PROMPT_DONEs are
raised; otherwise only the role is set. At a disable or the teardown the prompt in the slot ends first, then the pending ones
from head to tail, each CANCELLED with the frame counter's stamp, and PROMPT_DONE is raised for each; the slot's fetch item is
withdrawn, and a read of it already served is to be discarded (R114, R129); nothing else of the position changes. That the raise comes once for each prompt is read by inference (notes/assumptions/10.md). -/
def Obligations.PositionSetEnablesAndDisables : Prop :=
  (∀ (s : State) (r : Request) (rest : List Request) (p : Position) (on : Bool) (role : Role),
     HeadDue 0x19#8 r rest s → s.part = .running → r.body = u8 p.val ++ flag on ++ u8 role.code →
     p.val < activeCount s.straps →
     ((s.pos p).enabled = on → (on = true → role ≠ (s.pos p).role →
         engaged s p = false ∧ engaged (projected s) p = false) →
       exec .positionSet s = .next (answered r rest .ok (flag on ++ u8 role.code ++ u16 s.work.commitment)
         (s.setPos p { s.pos p with role := role }))) ∧
     ((s.pos p).enabled = false → on = true → s.work.commitment + 24 ≤ s.work.ceiling →
       exec .positionSet s = .next (answered r rest .ok (flag on ++ u8 role.code ++ u16 (s.work.commitment + 24))
         ((s.setPos p { s.pos p with
             enabled := true, role := role, duck := 32768
             mic := { blankMic with
               trim := (s.pos p).mic.trim, offset := (s.pos p).mic.offset, floorGain := (s.pos p).mic.floorGain,
               floors := (s.pos p).mic.floors } }).setWork
           { s.work with commitment := s.work.commitment + 24 }))) ∧
     ((s.pos p).enabled = false → on = true → s.work.ceiling < s.work.commitment + 24 →
       exec .positionSet s = .next (answered r rest .noBudget [] s)) ∧
     ((s.pos p).enabled = true → on = false → engaged s p = true ∨ engaged (projected s) p = true →
       exec .positionSet s = .next (answered r rest .conflict [] s)) ∧
     ((s.pos p).enabled = true → on = false → engaged s p = false → engaged (projected s) p = false →
       ∃ t, exec .positionSet s = .next t ∧
         t.pos p = { s.pos p with
           enabled := false, role := role, duck := 32768, queue := [], slot := none,
           mic := { (s.pos p).mic with vadHangover := 0, vad := false }, done := (s.pos p).done ++ cancelledRecords s p } ∧
         (∀ q, q ≠ p → t.pos q = s.pos q) ∧ t.work = { s.work with commitment := s.work.commitment - 24 } ∧
         t.fetch = s.fetch.filter (fun it => !((s.pos p).slot.isSome && it.requester == .prompt p)) ∧
         t.reads = s.reads.map (fun x =>
           { x with dropped := x.dropped || ((s.pos p).slot.isSome && x.item.requester == .prompt p) }) ∧
         { t with
           positions := s.positions, work := s.work, fetch := s.fetch, reads := s.reads, link := s.link } = s ∧
         t.link = { (raiseAll (doneRaises s p) s).link with
           requests := rest
           replies := s.link.replies ++ [{
             kind := 0x99#8, tag := r.tag, result := .ok
             body := flag on ++ u8 role.code ++ u16 (s.work.commitment - 24) }] })) ∧
  ∀ (p : Position) (s : State),
    (cancelAll p s).pos p = { s.pos p with
      queue := [], slot := none
      done := (s.pos p).done ++ (((s.pos p).slot.map Playing.prompt).toList ++ (s.pos p).queue).map
        (fun k => { k with state := .done, result := some .cancelled, stamp := s.frame }) } ∧
    (∀ q, q ≠ p → (cancelAll p s).pos q = s.pos q) ∧
    (cancelAll p s).free = s.free ∧
    (cancelAll p s).fetch = s.fetch.filter (fun it => !((s.pos p).slot.isSome && it.requester == .prompt p)) ∧
    (cancelAll p s).reads = s.reads.map (fun x =>
      { x with dropped := x.dropped || ((s.pos p).slot.isSome && x.item.requester == .prompt p) }) ∧
    (cancelAll p s).link = (raiseAll (doneRaises s p) s).link

/-- R31, R219: LEG_QUERY reports the leg as it stands in the active tables, in the layout of R219. -/
def Obligations.LegQueryReports : Prop :=
  ∀ (s : State) (r : Request) (rest : List Request) (l : Leg), HeadDue 0x1B#8 r rest s → Serving s → r.body = u8 l.val →
    exec .legQuery s = .next (answered r rest .ok
      (u8 l.val ++ u8 (s.leg l).state.code ++
        u8 (match (s.leg l).slot with | some k => k.val | none => 0xFF) ++ u16 (s.leg l).sendGain ++
        u8 (match (s.leg l).group with | some g => g.val | none => 0xFF) ++
        u8 (match (s.leg l).source with | some m => m.val | none => 0xFF) ++ u16 (s.leg l).ramp ++
        u8 ((if (s.leg l).closing then 1 else 0) + (if (s.leg l).nlp then 2 else 0)) ++ u16 (s.leg l).tail ++
        u16 (s.leg l).bulk ++ u8 (s.leg l).shift) s)

/-- R32, R33, R74, R97, R121, R161, R174, R188, R190: a well-formed query is answered OK with the fields its entry lists and changes no
state. The layouts R213 leaves open (the supervision part, absent parts, true and false, a half, a mask) are the model's choice
(notes/assumptions/14.md). -/
def Obligations.QueriesChangeNothing : Prop :=
  ∀ (s : State) (r : Request) (rest : List Request), Serving s →
    (∀ p : Position, HeadDue 0x1C#8 r rest s → r.body = u8 p.val → p.val < activeCount s.straps →
      exec .positionQuery s = .next (answered r rest .ok
        (u8 p.val ++ flag (s.pos p).enabled ++ u8 (match (s.pos p).role with | .agent => 0 | .supervisor => 1) ++
          flag (s.pos p).muted ++ flag (s.quietMask.getLsbD p.val) ++ flag ((s.pos p).enabled && (s.pos p).available) ++
          u16 (s.pos p).sendGain ++ u16 (s.pos p).sidetone ++
          u8 (match (s.pos p).group with | some g => g.val | none => 0xFF) ++
          (match s.supervision.find? (fun k => k.supervisor == p), s.supervision.find? (fun k => k.agent == p) with
            | some k, _ => u8 1 ++ u8 k.agent.val ++ u8 k.mode.code ++ u16 k.coachGain ++ u16 k.coachDuck
            | none, some k => u8 2 ++ u8 k.supervisor.val ++ u8 k.mode.code ++ u16 k.coachGain ++ u16 k.coachDuck
            | none, none => [0, 0xFF, 0, 0, 0, 0, 0]) ++
          u16 (s.pos p).duck ++ flag ((s.pos p).enabled && (s.pos p).mic.vad)) s)) ∧
    (∀ g : Group, HeadDue 0x1D#8 r rest s → r.body = u8 g.val → exec .groupQuery s = .next (answered r rest .ok
      (u8 g.val ++ u8 (s.members g).length ++ (s.members g).flatMap (fun m =>
        match m with | .leg l => [0, BitVec.ofNat 8 l.val] | .pos p => [1, BitVec.ofNat 8 p.val])) s)) ∧
    (∀ p : Position, HeadDue 0x2A#8 r rest s → r.body = u8 p.val → p.val < activeCount s.straps →
      exec .micQuery s = .next (answered r rest .ok
        (u8 p.val ++ flag (s.pos p).enabled ++ u16 (s.pos p).mic.trim ++ i16 (s.pos p).mic.offset ++
          u16 (s.pos p).mic.floorGain ++ u16 (s.pos p).sidetone ++
          u40 (s.pos p).mic.energies.b1 ++ u40 (s.pos p).mic.energies.b2 ++ u40 (s.pos p).mic.energies.b3 ++
          u40 (s.pos p).mic.energies.b4 ++ flag (s.pos p).mic.floorsSet ++
          (if (s.pos p).mic.floorsSet then
            u40 (s.pos p).mic.floors.b1 ++ u40 (s.pos p).mic.floors.b2 ++ u40 (s.pos p).mic.floors.b3 ++
              u40 (s.pos p).mic.floors.b4
          else List.replicate 20 0) ++
          u16 (s.pos p).mic.gains.b1 ++ u16 (s.pos p).mic.gains.b2 ++ u16 (s.pos p).mic.gains.b3 ++
          u16 (s.pos p).mic.gains.b4 ++ flag (s.pos p).mic.speech.b1 ++ flag (s.pos p).mic.speech.b2 ++
          flag (s.pos p).mic.speech.b3 ++ flag (s.pos p).mic.speech.b4 ++ flag (s.pos p).mic.speechFrame ++
          u8 (s.pos p).mic.vadHangover ++ flag (s.pos p).mic.vad ++ flag (s.pos p).muted ++
          flag (s.quietMask.getLsbD p.val) ++ flag s.quietLevel ++ flag ((s.pos p).enabled && (s.pos p).available)) s)) ∧
    (∀ m : Source, HeadDue 0x34#8 r rest s → r.body = u8 m.val → exec .sourceQuery s = .next (answered r rest .ok
        (u8 m.val ++ u8 (s.src m).kind.code ++ u8 (s.src m).state.code ++ u16 (s.src m).level ++
          u8 (match (s.src m).cmd with | .none => 0 | .start _ => 1 | .stop => 2) ++
          u8 ((List.finRange 24).filter (fun l => decide ((s.leg l).state = .held ∧ (s.leg l).source = some m))).length ++
          u16 (s.src m).ring.length ++ u16 (s.src m).lowMark ++ flag (s.src m).lowArmed ++
          u16 (match (s.src m).clip with | some k => k | none => 0) ++
          (match (match (s.src m).cmd with | .start (some x) => some x | _ => (s.src m).loc) with
            | some x => [1] ++ u8 x.area.val ++ u32 x.offset ++ u32 x.length ++ u8 x.rate.code
            | none => List.replicate 11 0) ++
          u32 (s.src m).index ++ u8 (s.src m).phase.code ++ u16 (s.src m).next ++
          halfBytes (s.src m).half0 ++ halfBytes (s.src m).half1 ++ flag (s.src m).retryDue ++
          u16 (s.src m).step ++ u16 (s.src m).amplitude ++ u16 (s.src m).onFrames ++ u16 (s.src m).offFrames ++
          u16 (s.src m).tonePhase ++ u32 (s.src m).cadence) s)) ∧
    (∀ p : Position, HeadDue 0x3C#8 r rest s → r.body = u8 p.val → p.val < activeCount s.straps →
      exec .promptQuery s = .next (answered r rest .ok
        (u8 p.val ++ flag (s.pos p).enabled ++ u8 s.free.length ++ u8 (s.pos p).queue.length ++
          (s.pos p).queue.flatMap (fun k => u8 k.handle.val ++ u16 k.clip ++ u8 k.cls ++ u8 k.level ++ u8 k.start.code ++
            u16 k.wait ++ u16 k.deadline) ++
          (match (s.pos p).slot with
            | some pl => [1] ++ u8 pl.prompt.handle.val ++ u16 pl.prompt.clip ++ u8 pl.prompt.level ++ u8 pl.prompt.state.code ++
              flag pl.prompt.cancel ++ u8 pl.prompt.played ++ u8 pl.prompt.repeats ++ u16 pl.prompt.underruns ++ u32 pl.index ++
              u8 pl.phase.code ++ flag (pl.half0.isWaiting || pl.half1.isWaiting)
            | none => List.replicate 17 0) ++
          u8 (s.pos p).done.length ++ u16 (s.pos p).duck) s)) ∧
    (HeadDue 0x49#8 r rest s → r.body = [] → exec .budgetQuery s = .next (answered r rest .ok
        (u16 s.work.commitment ++ u8 64 ++
          u16 (((List.finRange 16).filter (fun p => (s.pos p).enabled)).length * 24) ++
          u16 ((s.work.list.map (fun l => (s.leg l).tail / 16 + 4)).sum) ++ u16 s.work.ceiling ++ u8 s.work.ratio ++
          u16 (2560 - s.work.commitment) ++ u8 s.fetch.length ++ u32 s.work.last.stamp.toNat ++ u16 s.work.last.spare ++
          u8 s.work.last.adaptations ++ u8 s.work.last.openingFetches ++ u8 s.work.last.closingFetches ++
          u16 s.work.last.unitsLeft ++ u8 s.work.last.eligible ++ u8 s.work.last.notServed ++ u8 s.work.last.itemsLeft ++
          u8 s.work.list.length ++ s.work.list.flatMap (fun l => u8 l.val ++ u16 (s.leg l).tail ++
            flag (s.leg l).work.eligible ++ flag (s.leg l).work.granted ++ u16 (s.leg l).work.debt)) s)) ∧
    (∀ c : ChangeClass, HeadDue 0x4F#8 r rest s → r.body = u8 c.code →
      exec .stageQuery s = .next (answered r rest .ok
        ([ChangeClass.routing, .levels, .echo].flatMap (fun k => u8 (s.stage k).list.length ++
            u8 ((if (s.stage k).nextFrame then 1 else 0) + (if (s.stage k).applyLine then 2 else 0)) ++
            flag (s.stage k).latch) ++
          (s.stage c).list.flatMap (fun x => u8 x.op.kind ++ [x.tag] ++ u32 x.arrival.toNat ++
            (match x.op.subject.1 with | .leg l => [0, BitVec.ofNat 8 l.val] | .pos p => [1, BitVec.ofNat 8 p.val]) ++
            u8 (match x.op.subject.2 with | some g => g.val | none => 0xFF))) s)) ∧
    (∀ port : Port, HeadDue 0x51#8 r rest s → r.body = u8 port.code →
      exec .portTestRead s = .next (answered r rest .ok
        (u8 (match (s.test port).state with | .off => 0 | .seeking => 1 | .locked => 2) ++ u8 (s.test port).slot ++
          u8 (match (s.test port).dir with | .tx => 0 | .rx => 1 | .both => 2) ++ (s.test port).pattern.flatMap i16 ++
          u8 (s.test port).txIndex ++ u8 (match (s.test port).expected with | some k => k | none => 0xFF) ++
          u32 (s.test port).passes ++ u32 (s.test port).errors) s)) ∧
    (HeadDue 0x53#8 r rest s → r.body = [] → exec .syncQuery s = .next (answered r rest .ok
      (u8 (match s.sync.state with | .locked => 0 | .seeking => 1 | .lost => 2) ++ u8 s.sync.seeking ++ u16 s.sync.slips ++
        u16 s.sync.losses ++ u32 s.frame.toNat) s))

/-! ## The line echo canceller (R34 to R57) -/

/-- R54, R55, R148: ECHO_TAIL of a leg that is not CLOSED or closing: the greatest multiple of 16 not above the rounded request
that the ceiling admits is granted; the first taps are kept, zeros are added, and the commitment moves by the change of cost. -/
def Obligations.EchoTailResizesTheFilter : Prop :=
  ∀ (s : State) (r : Request) (rest : List Request) (l : Leg) (tail : Nat),
    HeadDue 0x21#8 r rest s → s.part = .running → r.body = u8 l.val ++ u16 tail → tail < 65536 →
    (s.leg l).state ≠ .closed → (s.leg l).closing = false →
    legCost (s.leg l).tail ≤ s.work.commitment → s.work.commitment ≤ s.work.ceiling →
    ∃ t granted, exec .echoTail s = .next t ∧ t = answered r rest .ok
        (u16 granted ++ u16 (s.work.commitment - legCost (s.leg l).tail + legCost granted))
        ((s.setLeg l { s.leg l with
            tail := granted,
            ec := { (s.leg l).ec with
              taps := (s.leg l).ec.taps.take granted ++ List.replicate (granted - (s.leg l).ec.taps.length) 0 } }).setWork
          { s.work with commitment := s.work.commitment - legCost (s.leg l).tail + legCost granted }) ∧
      granted % 16 = 0 ∧ granted ≤ max 128 (min 1024 tail) / 16 * 16 ∧ t.work.commitment ≤ s.work.ceiling ∧
      (∀ g, g % 16 = 0 → g ≤ max 128 (min 1024 tail) / 16 * 16 →
        s.work.commitment - legCost (s.leg l).tail + legCost g ≤ s.work.ceiling → g ≤ granted)

/-- R56: ECHO_RESET clears the taps, the hangover and the divergence count, keeps the rest, and moves the leg to the head of the
adaptation list. -/
def Obligations.EchoResetClearsTheFilter : Prop :=
  ∀ (s : State) (r : Request) (rest : List Request) (l : Leg),
    HeadDue 0x22#8 r rest s → s.part = .running → r.body = u8 l.val →
    ((s.leg l).state = .closed ∨ (s.leg l).closing = true →
      exec .echoReset s = .next (answered r rest .noObject [] s)) ∧
    ((s.leg l).state ≠ .closed → (s.leg l).closing = false →
      exec .echoReset s = .next (answered r rest .ok []
        ((s.setLeg l { s.leg l with ec := { (s.leg l).ec with
            taps := List.replicate (s.leg l).ec.taps.length 0, hangover := 0, divergence := 0 } }).setWork
          { s.work with list := l :: s.work.list.filter (· != l) })))

/-- R57, R220: ECHO_QUERY reports the leg's settings and canceller state in the layout of R220. -/
def Obligations.EchoQueryReports : Prop :=
  ∀ (s : State) (r : Request) (rest : List Request) (l : Leg), HeadDue 0x23#8 r rest s → Serving s → r.body = u8 l.val →
    exec .echoQuery s = .next (answered r rest .ok
      (u8 l.val ++ u8 (s.leg l).state.code ++ u16 (s.leg l).tail ++ u16 (s.leg l).bulk ++ u8 (s.leg l).shift ++
        u8 ((if (s.leg l).nlp then 1 else 0) + (if (s.leg l).ec.doubleTalk then 2 else 0) +
          (if (s.leg l).ec.nlpApplied then 4 else 0) + (if (s.leg l).ec.callerActive then 8 else 0)) ++
        u40 (s.leg l).ec.ed ++ u40 (s.leg l).ec.er ++ u40 (s.leg l).ec.ex ++ u16 (s.leg l).ec.hangover ++
        u8 (s.leg l).ec.divergence ++ u16 (s.leg l).work.debt ++ u32 (s.leg l).ec.framesAdapted.toNat ++
        u16 (s.leg l).ec.divergenceResets) s)

/-- R43, R47, R49, R65, R91, R157: the six rows DT_HANGOVER_EXPIRY, CALLER_HANGOVER_EXPIRY, VAD_HANGOVER_EXPIRY,
TONE_CADENCE_WRAP, ADAPT_STARVED and DIVERGENCE_RESET move the one counter to its expiry or limit and do what follows there.
FRAME_START takes the same moves in their place in the frame; a row alone is due when its counter stands one short
(notes/assumptions/6.md). -/
def Obligations.CountersReachTheirLimits : Prop :=
  ∀ s : State, s.hold = none →
    (∀ l : Leg, (s.leg l).state ≠ .closed → (s.leg l).ec.hangover = 1 → exec (.dtHangoverExpiry l) s =
      .next (s.setLeg l { s.leg l with ec := { (s.leg l).ec with hangover := 0 } })) ∧
    (∀ l : Leg, (s.leg l).state ≠ .closed → (s.leg l).ec.callerHangover = 1 → exec (.callerHangoverExpiry l) s =
      .next (s.setLeg l { s.leg l with ec := { (s.leg l).ec with callerHangover := 0, callerActive := false } })) ∧
    (∀ p : Position, (s.pos p).enabled = true → (s.pos p).mic.vadHangover = 1 → exec (.vadHangoverExpiry p) s =
      .next (s.setPos p { s.pos p with mic := { (s.pos p).mic with vadHangover := 0, vad := false } })) ∧
    (∀ m : Source, (s.src m).kind = .tone → (s.src m).state = .playing →
      (s.src m).cadence + 1 = (s.src m).onFrames + (s.src m).offFrames → exec (.toneCadenceWrap m) s =
      .next (s.setSrc m { s.src m with cadence := 0 })) ∧
    (∀ l : Leg, l ∈ s.work.list → (s.leg l).work.armed = true → (s.leg l).work.debt = 249 → exec (.adaptStarved l) s =
      .next (raise l.val (.adaptStarved 250 (s.leg l).tail)
        (s.setLeg l { s.leg l with work := { (s.leg l).work with debt := 250, armed := false } }))) ∧
    (∀ (l : Leg) (n : Nat), (s.leg l).state ≠ .closed → (s.leg l).ec.divergence = 15 →
      n = (if (s.leg l).ec.divergenceResets < 65535 then (s.leg l).ec.divergenceResets + 1 else 65535) →
      exec (.divergenceReset l) s =
      .next (raise l.val (.divergenceReset n)
        ((s.setLeg l { s.leg l with ec := { (s.leg l).ec with
            taps := List.replicate (s.leg l).ec.taps.length 0, hangover := 0, divergence := 0, divergenceResets := n } }).setWork
          { s.work with list := l :: s.work.list.filter (· != l) })))

/-- R38, R40 to R48, R50: a frame of a leg, sample by sample and step by step. Window n is the T reference values from lag Bd of
sample n. Each sample gives the prediction and the residual e, the double-talk test and hangover, and, where the leg is granted,
the hangover is 0 and the power reaches T × 1024, the update of every tap. From the frame come the last power, the flags, the three
energies, the NLP test and output, caller activity and the divergence count, which is not yet tested against 16. The settings, the
history and the reset count are not touched, and every output is in the range of a sample.
R39: with a silent reference double talk is detected at every sample: the hangover stands at 480, no tap moves, the residual is
the inbound, and the last power is 0. -/
def Obligations.EchoFrameKeepsItsBounds : Prop :=
  (∀ (r : LegRec) (d : List Sample),
    let sq := fun l : List Int => (l.map (fun x => x.natAbs * x.natAbs)).sum
    let w := fun n : Nat => ((r.ec.history.drop (63 - n)).drop r.bulk).take r.tail
    let t := (echoFrame r d).1
    ∃ (h : Nat → List Int) (hang : Nat → Nat) (e : Nat → Int),
      h 0 = r.ec.taps ∧ hang 0 = r.ec.hangover ∧
      (∀ n < 64,
        let detected := ∀ x ∈ w n, x.natAbs ≤ 2 * (d.getD n 0).natAbs
        let updates := r.work.granted = true ∧ hang (n + 1) = 0 ∧ r.tail * 1024 ≤ sq (w n)
        let c := (e n * 2 ^ (30 - r.shift)).tdiv (sq (w n) + r.tail * 256)
        e n = saturate (d.getD n 0 - saturate (((List.zipWith (· * ·) (h n) (w n)).sum + 2 ^ 29) / 2 ^ 30)) ∧
        (detected → hang (n + 1) = 480 ∧ h (n + 1) = h n) ∧
        (¬ detected → hang (n + 1) = hang n - 1 ∧
          (updates → h (n + 1) = List.zipWith (fun hk x => clamp32 (hk + c * x)) (h n) (w n)) ∧
          (¬ updates → h (n + 1) = h n))) ∧
      t.ec.taps = h 64 ∧ t.ec.hangover = hang 64 ∧ t.ec.lastPower = sq (w 63) ∧
      (t.ec.doubleTalk = true ↔ ∃ n < 64, ∀ x ∈ w n, x.natAbs ≤ 2 * (d.getD n 0).natAbs) ∧
      t.ec.ed = sq d ∧ t.ec.er = sq ((List.range 64).map e) ∧ t.ec.ex = sq ((r.ec.history.drop r.bulk).take 64) ∧
      (t.ec.nlpApplied = true ↔ r.nlp = true ∧ (∀ n < 64, hang (n + 1) = 0) ∧ 65536 ≤ t.ec.ex) ∧
      (echoFrame r d).2 = (List.range 64).map (fun n => if t.ec.nlpApplied then (e n + 4) / 8 else e n) ∧
      t.ec.callerHangover = (if 262144 ≤ t.ec.er then 50 else r.ec.callerHangover - 1) ∧
      t.ec.callerActive = decide (0 < t.ec.callerHangover) ∧
      t.ec.divergence = (if 65536 ≤ t.ec.ex ∧ t.ec.ed < t.ec.er then r.ec.divergence + 1 else 0) ∧
      t.ec.framesAdapted = (if r.work.granted then r.ec.framesAdapted + 1 else r.ec.framesAdapted) ∧
      t = { r with ec := { t.ec with history := r.ec.history, divergenceResets := r.ec.divergenceResets } } ∧
      ∀ y ∈ (echoFrame r d).2, -32768 ≤ y ∧ y ≤ 32767) ∧
  (∀ (r : LegRec) (d : List Sample), (∀ x ∈ r.ec.history, x = 0) → d.length = 64 → (∀ x ∈ d, -32768 ≤ x ∧ x ≤ 32767) →
    (echoFrame r d).2 = d ∧ (echoFrame r d).1.ec.taps = r.ec.taps ∧ (echoFrame r d).1.ec.hangover = 480 ∧
      (echoFrame r d).1.ec.lastPower = 0 ∧ (echoFrame r d).1.ec.ex = 0 ∧ (echoFrame r d).1.ec.doubleTalk = true ∧
      (echoFrame r d).1.ec.divergence = 0)

/-! ## The microphone processor (R58 to R74) -/

/-- R73: QUIET_MASK sets the whole mask, bits at or above the active position count taken as 0, and reports it with the sampled
QUIET level. The level's byte, 1 for asserted, is the model's choice (notes/assumptions/14.md). -/
def Obligations.QuietMaskSetsTheMask : Prop :=
  ∀ (s : State) (r : Request) (rest : List Request) (mask : Nat),
    HeadDue 0x29#8 r rest s → Serving s → mask < 65536 → r.body = u16 mask →
    exec .quietMask s = .next (answered r rest .ok
      (u16 (mask % 2 ^ activeCount s.straps) ++ flag s.quietLevel)
      { s with quietMask := BitVec.ofNat 16 (mask % 2 ^ activeCount s.straps) })

/-- R60 to R67: a frame of a microphone, sample by sample and step by step. Each raw sample x has the offset removed and the trim
applied; the states a1, a2 and a3 move toward 256 times it by shifts of 3, 2 and 1, and give the four band values. From
these come the energies, the floors, the band speech, the speech frame, the VAD and its hangover, and the gains, each of which
moves up to its target at once and down by an eighth at most; the output is the band values by the new gains. The three
settings stay. -/
def Obligations.MicFrameKeepsItsBounds : Prop :=
  ∀ (m : Mic) (raw : List Sample), ∃ x a1 a2 a3 : Nat → Int,
    (∀ n, x n = 256 * saturate (((raw.getD n 0 - m.offset) * m.trim + 2048) / 4096)) ∧
    a1 0 = m.s1 ∧ a2 0 = m.s2 ∧ a3 0 = m.s3 ∧
    (∀ n, a1 (n + 1) = a1 n + (x n - a1 n) / 8 ∧ a2 (n + 1) = a2 n + (x n - a2 n) / 4 ∧
      a3 (n + 1) = a3 n + (x n - a3 n) / 2) ∧
    let r := (micFrame m raw).1
    let sum := fun (f : Nat → Int) => ((List.range raw.length).map (fun n => (f n / 256).natAbs * (f n / 256).natAbs)).sum
    let floor := fun (e n : Nat) => if m.floorsSet = false ∨ e < n then e else n + n / 256 + 1
    let gain := fun (speech : Bool) (g : Nat) =>
      if speech then max 32768 (g - g / 8) else max m.floorGain (g - g / 8)
    r.s1 = a1 raw.length ∧ r.s2 = a2 raw.length ∧ r.s3 = a3 raw.length ∧
    r.energies = ⟨sum (fun n => a1 (n + 1)), sum (fun n => a2 (n + 1) - a1 (n + 1)), sum (fun n => a3 (n + 1) - a2 (n + 1)),
      sum (fun n => x n - a3 (n + 1))⟩ ∧
    r.floorsSet = true ∧
    r.floors = ⟨floor r.energies.b1 m.floors.b1, floor r.energies.b2 m.floors.b2, floor r.energies.b3 m.floors.b3,
      floor r.energies.b4 m.floors.b4⟩ ∧
    r.speech = ⟨decide (4 * r.floors.b1 < r.energies.b1), decide (4 * r.floors.b2 < r.energies.b2),
      decide (4 * r.floors.b3 < r.energies.b3), decide (4 * r.floors.b4 < r.energies.b4)⟩ ∧
    r.speechFrame = decide (2 ≤ (([r.speech.b1, r.speech.b2, r.speech.b3, r.speech.b4]).filter (· = true)).length) ∧
    r.vadHangover = (if r.speechFrame then 50 else m.vadHangover - 1) ∧ r.vad = decide (0 < r.vadHangover) ∧
    r.gains = ⟨gain r.speech.b1 m.gains.b1, gain r.speech.b2 m.gains.b2, gain r.speech.b3 m.gains.b3,
      gain r.speech.b4 m.gains.b4⟩ ∧
    r.trim = m.trim ∧ r.offset = m.offset ∧ r.floorGain = m.floorGain ∧
    (micFrame m raw).2 = (List.range raw.length).map (fun n =>
      saturate ((a1 (n + 1) * r.gains.b1 + (a2 (n + 1) - a1 (n + 1)) * r.gains.b2 + (a3 (n + 1) - a2 (n + 1)) * r.gains.b3 +
        (x n - a3 (n + 1)) * r.gains.b4 + 4194304) / 8388608)) ∧
    ∀ y ∈ (micFrame m raw).2, -32768 ≤ y ∧ y ≤ 32767

/-! ## The music sources (R82 to R97) -/

/-- R92: SOURCE_SET of a STOPPED source with no command pending takes the kind, the level and the settings of that kind; a
stream source that stays one keeps its ring, and any other empties it. The reply carries the settings of that kind alone
(notes/assumptions/14.md). -/
def Obligations.SourceSetTakesTheSettings : Prop :=
  ∀ (s : State) (r : Request) (rest : List Request) (m : Source) (level low clip step amp on off : Nat),
    HeadDue 0x30#8 r rest s → Serving s → (s.src m).state = .stopped → (s.src m).cmd = .none →
    level < 65536 → low < 65536 → clip < 65536 → step < 65536 → amp < 65536 → on < 65536 → off < 65536 →
    (∀ kind : SourceKind, r.body = u8 m.val ++ u8 kind.code ++ u16 level ++ u16 low ++ u16 clip ++ u16 step ++ u16 amp ++
        u16 on ++ u16 off →
      (kind = .stream → exec .sourceSet s = .next (answered r rest .ok
        (u8 0 ++ u16 (min 32768 level) ++ u16 (max 64 (min 1984 low)))
        (s.setSrc m { s.src m with
          kind := .stream, level := min 32768 level, lowMark := max 64 (min 1984 low), lowArmed := true,
          ring := if (s.src m).kind = .stream then (s.src m).ring else [] }))) ∧
      (kind = .clip → 1 ≤ clip → clip ≤ 65534 → exec .sourceSet s = .next (answered r rest .ok
        (u8 1 ++ u16 (min 32768 level) ++ u16 clip)
        (s.setSrc m { s.src m with
          kind := .clip, level := min 32768 level, clip := some clip, lowArmed := true, ring := [] }))) ∧
      (kind = .tone → exec .sourceSet s = .next (answered r rest .ok
        (u8 2 ++ u16 (min 32768 level) ++ u16 (min 32767 step) ++ u16 (min 32768 amp) ++ u16 (max 1 on) ++ u16 off)
        (s.setSrc m { s.src m with
          kind := .tone, level := min 32768 level, step := min 32767 step, amplitude := min 32768 amp,
          onFrames := max 1 on, offFrames := off, tonePhase := 0, cadence := 0, lowArmed := true, ring := [] }))))

/-- R93, R95: SOURCE_START of a STOPPED source records START, a clip source with the location its clip ID finds; SOURCE_STOP
records STOP whatever the state. The source acts on the command at the next frame start; nothing else changes. -/
def Obligations.SourceCommandsAreRecorded : Prop :=
  ∀ (s : State) (r : Request) (rest : List Request) (m : Source), s.part = .running → r.body = u8 m.val →
    (HeadDue 0x31#8 r rest s → (s.src m).state = .stopped → (s.src m).cmd = .none → (s.src m).kind ≠ .clip →
      exec .sourceStart s = .next (answered r rest .ok (u8 0 ++ u8 1)
        (s.setSrc m { s.src m with cmd := .start none }))) ∧
    (∀ (id : Nat) (e : IndexEntry), HeadDue 0x31#8 r rest s → (s.src m).state = .stopped → (s.src m).cmd = .none →
      (s.src m).kind = .clip → (s.src m).clip = some id → lookupClip s.index id = some e →
      exec .sourceStart s = .next (answered r rest .ok (u8 0 ++ u8 1 ++ u32 e.loc.length ++ u8 e.loc.rate.code)
        (s.setSrc m { s.src m with cmd := .start (some e.loc) }))) ∧
    (HeadDue 0x32#8 r rest s → exec .sourceStop s = .next (answered r rest .ok (u8 (s.src m).state.code ++ u8 2)
        (s.setSrc m { s.src m with cmd := .stop })))

/-- R96, R218: STREAM_DATA of a stream source: the samples that fit its ring of 2048 join the tail, the rest are dropped, the low
mark is armed again when the fill has reached it, and the reply carries the samples taken and the fill. -/
def Obligations.StreamDataJoinsTheRing : Prop :=
  ∀ (s : State) (r : Request) (rest : List Request) (m : Source) (samples : List Int),
    HeadDue 0x33#8 r rest s → Serving s → (s.src m).kind = .stream → 1 ≤ samples.length → samples.length ≤ 120 →
    (∀ x ∈ samples, -32768 ≤ x ∧ x ≤ 32767) → r.body = u8 m.val ++ u8 samples.length ++ samples.flatMap i16 →
    exec .streamData s = .next (answered r rest .ok
      (u8 (min samples.length (2048 - (s.src m).ring.length)) ++
        u16 ((s.src m).ring.length + min samples.length (2048 - (s.src m).ring.length)))
      (s.setSrc m { s.src m with
        ring := (s.src m).ring ++ samples.take (2048 - (s.src m).ring.length)
        lowArmed := (s.src m).lowArmed ||
          decide ((s.src m).lowMark ≤
            (s.src m).ring.length + min samples.length (2048 - (s.src m).ring.length)) }))

/-- R83 to R91, R94, R95: the six steps of a source at a frame start: landing, the pending command, the entry test, the raw samples,
the output at the level, and the low-water test or the placing of an item; with the notices they raise and the item a stop
withdraws, and nothing else changed. Every frame is 64 samples in the range of a sample, and a STOPPED source with no command
pending gives 0 and is not changed by it. Three clauses are the model's readings: that the half left is EMPTY in the frame that
plays its block's last sample, where the worked table of 4.5 empties it a frame later (notes/assumptions/11.md); that a failure that
lands with a STOP pending raises SOURCE_STARVED with cause FAULT before the stop (notes/assumptions/18.md); and what a source
waits for after a failure (notes/assumptions/23.md). -/
def Obligations.SourceOutputsAreSamples : Prop :=
  (∀ (ls : List Landed) (m : Source) (s : State),
     (sourceFrame ls m s).2.length = 64 ∧ (∀ x ∈ (sourceFrame ls m s).2, -32768 ≤ x ∧ x ≤ 32767) ∧
     ((s.src m).state = .stopped → (s.src m).cmd = .none → (sourceFrame ls m s).2 = List.replicate 64 0 ∧
       (sourceFrame ls m s).1 = s)) ∧
  ∀ (ls : List Landed) (m : Source) (s : State),
    let r := s.src m
    let t := (sourceFrame ls m s).1
    ∃ (a b c d z : SourceRec) (fault low : Bool) (starved : Option StarveCause) (raw : Nat → Int) (placed : List FetchItem),
      SourceLands ((ls.find? (fun x => x.item.requester == .source m && !x.dropped)).map Landed.outcome) r a fault ∧
      SourceObeys a b ∧ SourceEnters b c ∧ SourceForms c d raw starved ∧ SourceFollows m d z low placed ∧
      (sourceFrame ls m s).2 = (List.range 64).map (fun n => saturate ((raw n * (r.level : Int) + 16384) / 32768)) ∧
      t.src m = z ∧ (∀ k, k ≠ m → t.src k = s.src k) ∧
      t.fetch = (if r.cmd = .stop then s.fetch.filter (fun it => it.requester != .source m) else s.fetch) ++ placed ∧
      t.reads = (if r.cmd = .stop then
        s.reads.map (fun x => if x.item.requester = .source m then { x with dropped := true } else x) else s.reads) ∧
      t.link = (raiseAll
        ((if fault then [(m.val, .sourceStarved .fault)] else []) ++
          (match starved with | some cause => [(m.val, .sourceStarved cause)] | none => []) ++
          (if low then [(m.val, .streamLow d.ring.length)] else [])) s).link ∧
      { t with sources := s.sources, fetch := s.fetch, reads := s.reads, link := s.link } = s

/-! ## The prompt player (R98 to R121) -/

/-- R101, R117: PROMPT_QUEUE at an enabled position with room, a free handle and a clip in the index: a record on the lowest free
handle, with its class's level, joins behind every pending record of the same or a higher level. -/
def Obligations.PromptQueueInsertsByLevel : Prop :=
  ∀ (s : State) (r : Request) (rest : List Request) (p : Position) (clip gain duck deadline repeats : Nat) (cls : Fin 8)
    (start : StartCond) (h : Handle),
    HeadDue 0x38#8 r rest s → s.part = .running →
    r.body = u8 p.val ++ u16 clip ++ u8 cls.val ++ u8 start.code ++ u16 gain ++ u16 duck ++ u16 deadline ++ u8 repeats →
    clip < 65535 → 1 ≤ clip → gain < 65536 → duck < 65536 → deadline < 65536 → repeats < 256 →
    p.val < activeCount s.straps → (s.pos p).enabled = true → (s.pos p).queue.length < 8 → h ∈ s.free →
    (∀ k ∈ s.free, h ≤ k) → (lookupClip s.index clip).isSome = true →
    exec .promptQueue s = .next (answered r rest .ok
      (u8 h.val ++ u8 s.classMap[cls] ++ u8 ((s.pos p).queue.filter (fun x => decide (s.classMap[cls] ≤ x.level))).length ++
        u8 ((s.pos p).queue.length + 1) ++ u8 (s.free.length - 1) ++ u16 (min 32768 gain) ++ u16 (min 32768 duck) ++
        u8 (max 1 (min 8 repeats)))
      { s.setPos p { s.pos p with
          queue := (s.pos p).queue.filter (fun x => decide (s.classMap[cls] ≤ x.level)) ++
            { handle := h, clip := clip, cls := cls.val, level := s.classMap[cls], start := start, gain := min 32768 gain,
              duck := min 32768 duck, deadline := deadline, repeats := max 1 (min 8 repeats), played := 0, wait := 0,
              cancel := false, underruns := 0, state := .pending, result := none, stamp := 0 } ::
            (s.pos p).queue.filter (fun x => decide (x.level < s.classMap[cls])) } with
        free := s.free.erase h })

/-- R103, R106, R118: PROMPT_CANCEL ends a pending prompt CANCELLED at once and marks one in a slot; a pending prompt of an enabled
position that reaches its deadline ends EXPIRED. An ended prompt leaves the queue, joins the done list's tail with the frame
counter's stamp, and PROMPT_DONE is raised. PROMPT_EXPIRE alone is due one frame start short (notes/assumptions/6.md); the marked
byte of a reply for an ended prompt is notes/assumptions/14.md.
R105 to R114, R14: the four steps of an enabled position's player at a frame start. Every pending record waits one frame start
more, and those that reach their deadline end EXPIRED in queue order; the playing slot takes its step; the head preempts or
starts where its condition holds, a head whose clip is gone ending NOT_FOUND before the next is tried; and D falls by at most 2048
or rises by at most 1024 toward its target. The prompts that end join the done list in that order, each with its PROMPT_DONE, and
the fetch item of one that leaves the slot is given up. A disabled position's player takes no step. -/
def Obligations.PromptsEndByCancelOrDeadline : Prop :=
  (∀ (s : State) (h : Handle) (p : Position),
    (∀ (r : Request) (rest : List Request) (k : PromptRec), HeadDue 0x39#8 r rest s → Serving s → r.body = u8 h.val →
      pendingAt s h = some (p, k) →
      exec .promptCancel s = .next (answered r rest .ok (u8 3 ++ u8 0 ++ u8 h.val ++ u8 p.val)
        (raise p.val (.promptDone ((s.pos p).done.length + 1)) (s.setPos p { s.pos p with
          queue := (s.pos p).queue.filter (fun x => x.handle != k.handle)
          done := (s.pos p).done ++ [{ k with state := .done, result := some .cancelled, stamp := s.frame }] })))) ∧
    (∀ (r : Request) (rest : List Request) (pl : Playing), HeadDue 0x39#8 r rest s → Serving s → r.body = u8 h.val →
      pendingAt s h = none → playingAt s h = some (p, pl) →
      exec .promptCancel s = .next (answered r rest .ok (u8 pl.prompt.state.code ++ u8 1 ++ u8 h.val ++ u8 p.val)
        (s.setPos p { s.pos p with slot := some { pl with prompt := { pl.prompt with cancel := true } } }))) ∧
    (∀ (r : Request) (rest : List Request), HeadDue 0x39#8 r rest s → Serving s → r.body = u8 h.val →
      pendingAt s h = none → playingAt s h = none → exec .promptCancel s = .next (answered r rest .wrongState [] s)) ∧
    ∀ k : PromptRec, s.hold = none → pendingAt s h = some (p, k) → (s.pos p).enabled = true → k.deadline ≠ 0 →
      k.deadline ≤ k.wait + 1 → k.wait < 65535 →
      exec (.promptExpire h) s = .next
        (raise p.val (.promptDone ((s.pos p).done.length + 1)) (s.setPos p { s.pos p with
          queue := (s.pos p).queue.filter (fun x => x.handle != k.handle)
          done := (s.pos p).done ++
            [{ k with wait := k.wait + 1, state := .done, result := some .expired, stamp := s.frame }] }))) ∧
  (∀ (ix : Vector (List IndexEntry) 128) (ls : List Landed) (p : Position) (s : State), (s.pos p).enabled = false →
    playerFrame ix ls p s = (s, none)) ∧
  ∀ (ix : Vector (List IndexEntry) 128) (ls : List Landed) (p : Position) (s : State), (s.pos p).enabled = true →
    ((s.pos p).queue.map PromptRec.handle).Nodup → (s.pos p).queue.length ≤ 8 →
    let r := s.pos p
    let t := (playerFrame ix ls p s).1
    let raised := r.queue.map (fun k => { k with wait := if k.wait < 65535 then k.wait + 1 else 65535 })
    let late := fun k : PromptRec => decide (k.deadline ≠ 0 ∧ k.deadline ≤ k.wait)
    let waiting := raised.filter (fun k => !late k)
    let starts := fun k : PromptRec => k.start == .now || (!r.mic.vad && (match r.group with
      | none => true
      | some g => (List.finRange 24).all (fun l => !((s.members g).contains (.leg l) && (s.leg l).ec.callerActive))))
    ∃ (slot : Option Playing) (ends : Option (PromptRec × PromptResult)) (placed : List FetchItem),
      (r.slot = none → slot = none ∧ ends = none ∧ placed = [] ∧ (playerFrame ix ls p s).2 = none) ∧
      (∀ x, r.slot = some x →
        SlotSteps p ((ls.find? (fun y => y.item.requester == .prompt p && !y.dropped)).map Landed.outcome) x slot ends placed
          (playerFrame ix ls p s).2) ∧
      let cuts := match waiting.head?, slot with
        | some k, some x => k.level == 3 && decide (x.prompt.level < 3) && starts k
        | _, _ => false
      let gone := if cuts || slot.isNone then waiting.takeWhile (fun k => starts k && (lookupClip ix k.clip).isNone) else []
      let left := waiting.drop gone.length
      let endings := (raised.filter late).map (fun k => (k, PromptResult.expired)) ++ ends.toList ++
        (if cuts then (slot.map (fun x => (x.prompt, PromptResult.preempted))).toList else []) ++
        gone.map (fun k => (k, PromptResult.notFound))
      let kept := if ends.isSome || cuts then s.fetch.filter (fun it => it.requester != .prompt p) else s.fetch
      let target := min 32768 (min
        (match (t.pos p).slot with | some x => if x.prompt.state = .playing then x.prompt.duck else 32768 | none => 32768)
        (match s.supervision.find? (fun k => k.agent == p) with
          | some k =>
            if k.mode = .whisper ∧ (s.pos k.supervisor).mic.vad = true ∧ (s.pos k.supervisor).enabled = true ∧
                (s.pos k.supervisor).muted = false ∧ ¬ (s.quietLevel = true ∧ s.quietMask.getLsbD k.supervisor.val = true) then
              k.coachDuck
            else 32768
          | none => 32768))
      (∀ k e, cuts = true ∨ slot = none → left.head? = some k → starts k = true → lookupClip ix k.clip = some e →
        ∃ y item, (t.pos p).slot = some y ∧ (t.pos p).queue = left.tail ∧ t.fetch = kept ++ [item] ∧
          PromptFetches p
            { prompt := { k with state := .priming }, loc := e.loc, half0 := .empty, half1 := .empty, index := 0,
              phase := .first, next := some (0, 1) } y [item]) ∧
      ((cuts = false ∧ slot ≠ none) ∨ (∀ k, left.head? = some k → starts k = false) →
        (t.pos p).slot = (if cuts then none else slot) ∧ (t.pos p).queue = left ∧
        t.fetch = kept ++ (if cuts then [] else placed)) ∧
      t.pos p = { r with
        queue := (t.pos p).queue, slot := (t.pos p).slot
        done := r.done ++ endings.map (fun e => { e.1 with state := .done, result := some e.2, stamp := s.frame })
        duck := if target < r.duck then max target (r.duck - 2048) else min target (r.duck + 1024) } ∧
      (∀ q, q ≠ p → t.pos q = s.pos q) ∧
      t.reads = (if ends.isSome || cuts then
        s.reads.map (fun x => if x.item.requester = .prompt p then { x with dropped := true } else x) else s.reads) ∧
      t.link = (raiseAll ((List.range endings.length).map (fun i => (p.val, .promptDone (r.done.length + i + 1)))) s).link ∧
      { t with positions := s.positions, fetch := s.fetch, reads := s.reads, link := s.link } = s

/-- R119, R216: PROMPT_DRAIN returns up to 8 done records, oldest first, in the layout of R216, takes them from the done list and
returns their handles to the free pool; nothing else changes. -/
def Obligations.PromptDrainReturnsRecords : Prop :=
  ∀ (s : State) (r : Request) (rest : List Request) (p : Position),
    HeadDue 0x3A#8 r rest s → Serving s → r.body = u8 p.val → p.val < activeCount s.straps →
    ∃ pool : List Handle, pool.Perm ((((s.pos p).done.take 8).map PromptRec.handle) ++ s.free) ∧
      exec .promptDrain s = .next (answered r rest .ok
        (u8 (min 8 (s.pos p).done.length) ++
          ((s.pos p).done.take 8).flatMap (fun k => u8 k.handle.val ++ u16 k.clip ++ u8 k.cls ++
            u8 (match k.result with | some x => x.code | none => 0) ++ u8 k.played ++ u16 k.underruns ++ u32 k.stamp.toNat) ++
          u8 ((s.pos p).done.length - 8))
        { s.setPos p { s.pos p with done := (s.pos p).done.drop 8 } with free := pool })

/-- R120: CLASS_MAP of eight levels, each 0 to 3, sets the map and reports it; with any level above 3 it is refused. -/
def Obligations.ClassMapTakesTheLevels : Prop :=
  ∀ (s : State) (r : Request) (rest : List Request) (map : Vector Nat 8),
    HeadDue 0x3B#8 r rest s → Serving s → r.body = map.toList.flatMap u8 →
    ((∀ i : Fin 8, map[i] ≤ 3) →
      exec .classMap s = .next (answered r rest .ok (map.toList.flatMap u8) { s with classMap := map })) ∧
    ((∃ i : Fin 8, 3 < map[i] ∧ map[i] < 256) → exec .classMap s = .next (answered r rest .badValue [] s))

/-! ## Prompt memory and the clip index (R122 to R144) -/

/-- R134, R139, R140: AREA_SET in STANDBY with no scan running sets the area and removes its entries from the index; REINDEX with no
scan running removes the CATALOGUE entries, zeroes the counts and places the first chunk's item (A0 and chunk 0 where it finds no
area are the model's choice, notes/assumptions/25.md); with a scan running both are refused BUSY. The replies carry the settings in
force, the entries removed and the index count after, and the index count after with the areas to be read (one byte each for the
cost and the wait limit, and a bit for each area, are the model's choice, notes/assumptions/14.md). R125, R135, R136, R137, R217:
at the frame start at which a chunk's read is known the scan judges its entries in order, each by the first test that applies,
moves to the next chunk or area, or ends with REINDEX_DONE; a failed read abandons the area. -/
def Obligations.AreasAreSetAndScanned : Prop :=
  (∀ (s : State) (r : Request) (rest : List Request),
    (∀ (no : AreaNo) (base size cost wait : Nat) (enable ready catalogue : Bool), HeadDue 0x40#8 r rest s →
      s.part = .standby → 1 ≤ size → base + size ≤ 256 → cost < 65536 → wait < 65536 →
      r.body = u8 no.val ++ flag enable ++ u8 base ++ u16 size ++ u16 cost ++ u16 wait ++ flag ready ++ flag catalogue →
      (s.scan.running = true → exec .areaSet s = .next (answered r rest .busy [] s)) ∧
      (s.scan.running = false → exec .areaSet s = .next (answered r rest .ok
        (flag enable ++ u8 base ++ u16 size ++ u8 (max 8 (min 255 cost)) ++ u8 (max 1 (min 255 wait)) ++ flag ready ++
          flag catalogue ++ u16 (s.index.toList.flatten.filter (fun e => e.loc.area == no)).length ++
          u16 (s.index.toList.flatten.filter (fun e => e.loc.area != no)).length)
        { s with
          areas := s.areas.set no
            { enable := enable, base := base, size := size, cost := max 8 (min 255 cost), wait := max 1 (min 255 wait),
              ready := ready, catalogue := catalogue }
          index := keepEntries (fun e => e.loc.area != no) s.index }))) ∧
    (HeadDue 0x41#8 r rest s → Serving s → r.body = [] →
      (s.scan.running = true → exec .reindex s = .next (answered r rest .busy [] s)) ∧
      (s.scan.running = false → ∃ t, exec .reindex s = .next (answered r rest .accepted
          (u16 (s.index.toList.flatten.filter (fun e => e.origin != .catalogue)).length ++
            u8 ((List.finRange 4).map (fun a : AreaNo =>
              if (s.area a).enable = true ∧ (s.area a).catalogue = true then 2 ^ a.val else 0)).sum) t) ∧
        t.index = keepEntries (fun e => e.origin != .catalogue) s.index ∧ t.scan.running = true ∧
        t.scan.counts = blankCounts ∧ t.scan.chunk = 0 ∧
        (∀ a, nextArea s.areas 0 = some a → t.scan.area = a ∧
          t.fetch = s.fetch ++ [{ requester := .scan, area := a, offset := 0, count := 256 }]) ∧
        (nextArea s.areas 0 = none → t.fetch = s.fetch) ∧ { t with index := s.index, scan := s.scan, fetch := s.fetch } = s))) ∧
  (∀ (s : State) (quiet : Bool) (e : FrameEnd), s.hold = none → Serving s → s.clock.due = some e → s.scan.running = true →
    ∃ t, exec (.frameStart quiet) s = .next t ∧
      (s.scan.outstanding = false → t.index = s.index ∧ ScanMoves s t none s.scan.counts) ∧
      (s.scan.outstanding = true → (∀ x ∈ s.reads, x.item.requester = .scan → x.dropped = true) →
        t.index = s.index ∧ t.scan = s.scan) ∧
      ∀ x, s.scan.outstanding = true → s.reads.find? (fun x => x.item.requester == .scan && !x.dropped) = some x →
        (x.failed ≠ none ∨ 2 * x.words.length < x.item.count → t.index = s.index ∧
          ScanMoves s t (nextArea s.areas (s.scan.area.val + 1))
            { s.scan.counts with aborted := s.scan.counts.aborted + 1 }) ∧
        (x.failed = none → x.item.count ≤ 2 * x.words.length → ∃ counts ended,
          judgeChunk s.scan.area (s.area s.scan.area) 16 x.words (s.index, s.scan.counts) = ((t.index, counts), ended) ∧
          (ended = true ∨ 15 ≤ s.scan.chunk → ScanMoves s t (nextArea s.areas (s.scan.area.val + 1)) counts) ∧
          (ended = false → s.scan.chunk < 15 →
            t.scan = { s.scan with chunk := s.scan.chunk + 1, outstanding := true, counts := counts } ∧
            isPlaced { requester := .scan, area := s.scan.area, offset := 256 * (s.scan.chunk + 1), count := 256 } t))) ∧
  (∀ (no : AreaNo) (a : Area) (k : Nat) (words : List Word16) (x : Vector (List IndexEntry) 128 × ScanCounts),
    let w := fun i => (words.getD i 0).toNat
    judgeChunk no a 0 words x = (x, false) ∧ (w 0 = 0 → judgeChunk no a (k + 1) words x = (x, true)) ∧
    (w 0 ≠ 0 → judgeChunk no a (k + 1) words x = judgeChunk no a k (words.drop 8)
      (judgeEntry a (w 0)
        { area := no, offset := w 2 + 65536 * w 3, length := w 4 + 65536 * w 5
          rate := if (words.getD 1 0).getLsbD 0 then .khz8 else .khz16 } x))) ∧
  ∀ (a : Area) (id : Nat) (loc : Location) (index : Vector (List IndexEntry) 128) (c : ScanCounts),
    let skipped := id = 65535 ∨ loc.offset % 2 ≠ 0 ∨ loc.length = 0 ∨ a.size * 65536 < loc.offset + 2 * loc.length
    (skipped → judgeEntry a id loc (index, c) = (index, { c with range := c.range + 1 })) ∧
    (¬ skipped → (lookupClip index id).isSome = true →
      judgeEntry a id loc (index, c) = (index, { c with duplicate := c.duplicate + 1 })) ∧
    (¬ skipped → lookupClip index id = none → 4 ≤ (index[bucketOf id]).length →
      judgeEntry a id loc (index, c) = (index, { c with full := c.full + 1 })) ∧
    (¬ skipped → lookupClip index id = none → (index[bucketOf id]).length < 4 →
      ∃ after, judgeEntry a id loc (index, c) = (after, { c with indexed := c.indexed + 1 }) ∧
        lookupClip after id = some { id := id, loc := loc, origin := .catalogue } ∧
        ∀ k, k ≠ id → lookupClip after k = lookupClip index k)

/-- R127, R141, R142, R143: after CLIP_DECLARE of a valid location a lookup of the clip ID finds it as DECLARED, after CLIP_FORGET
of an indexed clip it finds nothing, and every other clip ID is found as before; CLIP_LOOKUP changes no state. Nothing but the
index and the link changes. The reply of CLIP_DECLARE carries the bucket, the entry replaced and its origin (0 for none, the
model's choice, notes/assumptions/14.md), and the counts of the bucket and of the index after it; that of CLIP_FORGET the origin of
the entry removed and the index count after it. -/
def Obligations.ClipRequestsKeepTheIndex : Prop :=
  ∀ (s : State) (r : Request) (rest : List Request) (id : Nat), Serving s → 1 ≤ id → id ≤ 65534 →
    (∀ (no : AreaNo) (rate : Rate) (offset length : Nat), HeadDue 0x42#8 r rest s →
      r.body = u16 id ++ u8 no.val ++ u8 rate.code ++ u32 offset ++ u32 length → offset < 4294967296 →
      length < 4294967296 → offset % 2 = 0 → 1 ≤ length → (s.area no).enable = true →
      offset + 2 * length ≤ (s.area no).size * 65536 →
      ((lookupClip s.index id).isSome = true ∨ (s.index[bucketOf id]).length < 4) →
      let more := if (lookupClip s.index id).isSome = true then 0 else 1
      ∃ index, exec .clipDeclare s = .next (answered r rest .ok
          (u8 (id % 128) ++ (match lookupClip s.index id with | some e => u8 1 ++ u8 e.origin.code | none => u8 0 ++ u8 0) ++
            u8 ((s.index[bucketOf id]).length + more) ++ u16 (s.index.toList.flatten.length + more))
          { s with index := index }) ∧
        lookupClip index id =
          some { id := id, loc := { area := no, offset := offset, length := length, rate := rate }, origin := .declared } ∧
        ∀ k, k ≠ id → lookupClip index k = lookupClip s.index k) ∧
    (∀ e, HeadDue 0x43#8 r rest s → r.body = u16 id → lookupClip s.index id = some e →
      ∃ index, exec .clipForget s = .next (answered r rest .ok
          (u8 e.origin.code ++
            u16 (s.index.toList.flatten.filter (fun x => x.id != id)).length)
          { s with index := index }) ∧
        lookupClip index id = none ∧ ∀ k, k ≠ id → lookupClip index k = lookupClip s.index k) ∧
    (∀ e, HeadDue 0x44#8 r rest s → r.body = u16 id → lookupClip s.index id = some e →
      exec .clipLookup s = .next (answered r rest .ok
        (u16 e.id ++ u8 e.loc.area.val ++ u32 e.loc.offset ++ u32 e.loc.length ++ u8 e.loc.rate.code ++ u8 e.origin.code ++
          u8 (id % 128) ++ u8 (s.index[bucketOf id]).length ++ u16 (indexCount s.index)) s)) ∧
    (HeadDue 0x44#8 r rest s → r.body = u16 id → lookupClip s.index id = none →
      exec .clipLookup s = .next (answered r rest .noObject [] s))

/-- R144: FAULT_READ reports the fault record and clears it. R129, R132: at a frame start the reads that failed, or were not
complete, are taken in the order they were served: the first of them latches a clear record and raises FAULT, and each other
counts as a later failure. The number sent for SCAN is notes/assumptions/14.md. -/
def Obligations.FaultReadReportsAndClears : Prop :=
  (∀ (s : State) (r : Request) (rest : List Request), HeadDue 0x45#8 r rest s → Serving s → r.body = [] →
    exec .faultRead s = .next (answered r rest .ok
      (flag s.fault.latched ++ [0] ++ u8 s.fault.area.val ++ u32 s.fault.offset ++
        (match s.fault.requester with
          | .prompt p => [0, BitVec.ofNat 8 p.val] | .source m => [1, BitVec.ofNat 8 m.val] | .scan => [2, 0]) ++
        u32 s.fault.stamp.toNat ++ u8 s.fault.later)
      { s with fault := { latched := false, area := 0, offset := 0, requester := .prompt 0, stamp := 0, later := 0 } })) ∧
  ∀ (s : State) (quiet : Bool) (e : FrameEnd), s.hold = none → Serving s → s.clock.due = some e →
    let failures := s.reads.filterMap (fun x =>
      match x.failed with
      | some o => some (x.item, o)
      | none => if 2 * x.words.length < x.item.count then some (x.item, x.item.offset + 2 * x.words.length) else none)
    ∃ t, exec (.frameStart quiet) s = .next t ∧ (failures = [] → t.fault = s.fault) ∧
      ∀ (it : FetchItem) (o : Nat) (more : List (FetchItem × Nat)), failures = (it, o) :: more →
        (s.fault.latched = false →
          t.fault = { latched := true, area := it.area, offset := o, requester := it.requester, stamp := s.frame + 1,
                      later := min 255 more.length } ∧
          ∃ n ∈ t.link.notices, n.subject = 0 ∧ n.stamp = s.frame + 1 ∧ n.detail = .fault it.area it.requester) ∧
        (s.fault.latched = true → t.fault = { s.fault with later := min 255 (s.fault.later + more.length + 1) })

/-- R129, R130: words delivered reach the first read not yet decided, and no more than its item's; a word that waits past the limit
ends that read as a failure at the word's offset where the area uses PRDY. That a part of a read's words is taken, and words
beyond the count are not, is read by inference (notes/assumptions/22.md); that a timeout where the area does not use PRDY is not
due and has no effect is the model's choice (notes/assumptions/3.md). R122, R123: while that read is in progress the memory bus
selects its area and carries the address of the word it is at, under the settings of its service; with no read in progress, or in
a part held in reset, it selects none (notes/assumptions/21.md). -/
def Obligations.ReadsTakeWordsOrTimeOut : Prop :=
  (∀ s : State, (s.hold ≠ none ∨ ∀ y ∈ s.reads, y.failed.isSome = true ∨ y.item.count ≤ 2 * y.words.length) →
    s.memoryBus = none) ∧
  ∀ (s : State) (done later : List Read) (x : Read), s.hold = none → s.reads = done ++ x :: later →
    (∀ y ∈ done, y.failed.isSome = true ∨ y.item.count ≤ 2 * y.words.length) → x.failed = none →
    2 * x.words.length < x.item.count →
    s.memoryBus =
      some (x.item.area, BitVec.ofNat 24 (x.item.offset + 2 * x.words.length + x.settings.base * 65536)) ∧
    (∀ words, exec (.fetchRead words) s = .next { s with
      reads := done ++ { x with words := (x.words ++ words).take ((x.item.count + 1) / 2) } :: later }) ∧
    (x.settings.ready = true → exec .wordReadTimeout s = .next { s with
      reads := done ++ { x with failed := some (x.item.offset + 2 * x.words.length) } :: later }) ∧
    (x.settings.ready = false → exec .wordReadTimeout s = .next s)

/-! ## The frame work budget (R145 to R161) -/

/-- R160: BUDGET_SET takes the selected limits, clamped, and reports both with the commitment and the spare; a ceiling below the
commitment is refused CONFLICT, and a selection of neither BAD_VALUE. -/
def Obligations.BudgetSetMovesTheLimits : Prop :=
  ∀ (s : State) (r : Request) (rest : List Request) (sel ceiling ratio : Nat),
    HeadDue 0x48#8 r rest s → Serving s → sel < 256 → ceiling < 65536 → ratio < 256 →
    r.body = u8 sel ++ u16 ceiling ++ u8 ratio →
    (sel % 4 = 0 → exec .budgetSet s = .next (answered r rest .badValue [] s)) ∧
    (sel % 2 = 1 → max 512 (min 2048 ceiling) < s.work.commitment →
      exec .budgetSet s = .next (answered r rest .conflict [] s)) ∧
    (sel % 4 ≠ 0 → (sel % 2 = 1 → s.work.commitment ≤ max 512 (min 2048 ceiling)) →
      ∃ c q, (c = if sel % 2 = 1 then max 512 (min 2048 ceiling) else s.work.ceiling) ∧
        (q = if 2 ≤ sel % 4 then max 1 (min 4 ratio) else s.work.ratio) ∧
        exec .budgetSet s = .next (answered r rest .ok
          (u16 c ++ u8 q ++ u16 s.work.commitment ++ u16 (2560 - s.work.commitment))
          (s.setWork { s.work with ceiling := c, ratio := q })))

/-- R152 to R155, R157: the opening part serves in turns from the whole spare: a fetch turn, then as many adaptation turns as the
service ratio, and so on until both lists have stopped. It spends no more than the spare: the units left and the charges of what it
served make the spare; what it served of the fetch list is a prefix, and the legs it granted and passed by are the eligible ones in list order. It leaves each
leg served with debt 0, armed and granted, at the tail of the list in the order of service; each eligible leg passed by with its
debt raised, and where that reaches 250 while armed, disarmed with ADAPT_STARVED raised; every other leg of the list with no
grant; and each item served as a read under its area's settings. Nothing else changes. -/
def Obligations.OpeningPartSpendsTheSpare : Prop :=
  (∀ s : State,
    (openingPart s).units + ((openingPart s).served.map (fun it => (s.area it.area).cost)).sum +
        ((openingPart s).granted.map (fun l => (s.leg l).tail / 8)).sum = 2560 - s.work.commitment ∧
    (openingPart s).served ++ (openingPart s).fetch = s.fetch ∧
    (openingPart s).granted ++ (openingPart s).todo =
      s.work.list.filter (fun l => decide ((s.leg l).tail * 1024 ≤ (s.leg l).ec.lastPower)) ∧
    (∀ it, (openingPart s).fetch.head? = some it → (openingPart s).units < (s.area it.area).cost) ∧
    (1 ≤ s.work.ratio → ∀ l, (openingPart s).todo.head? = some l → (openingPart s).units < (s.leg l).tail / 8) ∧
    (1 ≤ s.work.ratio → ∃ (turns : Nat) (o : Nat → Opening),
      o 0 = {
        units := 2560 - s.work.commitment, fetch := s.fetch, served := []
        todo := s.work.list.filter (fun l => decide ((s.leg l).tail * 1024 ≤ (s.leg l).ec.lastPower)), granted := []
        fetchStopped := false, adaptStopped := false } ∧
      (∀ i < turns,
        (i % (s.work.ratio + 1) = 0 → TakesFetchTurn (fun a => (s.area a).cost) (o i) (o (i + 1))) ∧
        (i % (s.work.ratio + 1) ≠ 0 → TakesAdaptTurn (fun l => (s.leg l).tail / 8) (o i) (o (i + 1)))) ∧
      (o turns).fetchStopped = true ∧ (o turns).adaptStopped = true ∧ openingPart s = o turns)) ∧
  ∀ s : State, s.work.list.Nodup →
    let o := openingPart s
    let t := settleOpening o s
    let debt := fun l : Leg => if (s.leg l).work.debt < 65535 then (s.leg l).work.debt + 1 else 65535
    let starves := fun l : Leg => (s.leg l).work.armed && decide (250 ≤ debt l)
    (∀ l ∈ o.granted,
      t.leg l = { s.leg l with work := { debt := 0, armed := true, granted := true, eligible := true } }) ∧
    (∀ l ∈ o.todo, t.leg l = { s.leg l with
      work := { debt := debt l, armed := (s.leg l).work.armed && !starves l, granted := false, eligible := true } }) ∧
    (∀ l ∈ s.work.list, (s.leg l).ec.lastPower < (s.leg l).tail * 1024 →
      t.leg l = { s.leg l with work := { (s.leg l).work with granted := false, eligible := false } }) ∧
    (∀ l, l ∉ s.work.list → t.leg l = s.leg l) ∧
    t.work = { s.work with list := s.work.list.filter (fun l => decide (l ∉ o.granted)) ++ o.granted } ∧
    t.fetch = o.fetch ∧
    t.reads = s.reads ++ o.served.map (fun it =>
      { item := it, settings := s.area it.area, words := [], failed := none, dropped := false }) ∧
    t.link = (raiseAll ((o.todo.filter starves).map (fun l => (l.val, .adaptStarved (debt l) (s.leg l).tail))) s).link ∧
    { t with legs := s.legs, work := s.work, fetch := s.fetch, reads := s.reads, link := s.link } = s

/-! ## The change stager (R162 to R174) -/

/-- R165, R171, R172, R173: STAGE_MODE sets a class's two sources; APPLY latches the named classes whose lists are not empty, and an
edge on APPLY those whose mask holds APPLY_LINE; DISCARD empties the named lists, clears their latches and the closing flags of
the closes in them. Nothing else changes. The replies carry the masks, latches and pending counts after STAGE_MODE, the classes
latched and their counts, and the counts discarded. That bits above the two sources are ignored also for STAGE_MODE, as R213 says
of every set, is the model's reading (notes/assumptions/13.md); the counts sent for the classes latched and named alone are the
model's choice (notes/assumptions/14.md). -/
def Obligations.ApplySourcesAndDiscard : Prop :=
  ∀ (s : State) (r : Request) (rest : List Request),
    (∀ (c : ChangeClass) (src : Nat), HeadDue 0x4C#8 r rest s → Serving s → src < 256 → r.body = u8 c.code ++ u8 src →
      let t := s.setStage c { s.stage c with nextFrame := src.testBit 0, applyLine := src.testBit 1 }
      let mask := fun x : Stage => u8 ((if x.nextFrame then 1 else 0) + (if x.applyLine then 2 else 0))
      exec .stageMode s = .next (answered r rest .ok
        (mask t.routing ++ mask t.levels ++ mask t.echo ++ flag s.routing.latch ++ flag s.levels.latch ++ flag s.echo.latch ++
          u8 s.routing.list.length ++ u8 s.levels.list.length ++ u8 s.echo.list.length) t)) ∧
    (∀ sel : Nat, HeadDue 0x4D#8 r rest s → Serving s → sel < 256 → sel % 8 ≠ 0 → r.body = u8 sel →
      let hit := fun c : ChangeClass => sel.testBit c.code && !(s.stage c).list.isEmpty
      exec .apply s = .next (answered r rest .ok
        (u8 ((if hit .routing then 1 else 0) + (if hit .levels then 2 else 0) + (if hit .echo then 4 else 0)) ++
          [ChangeClass.routing, .levels, .echo].flatMap (fun c => if hit c then u8 (s.stage c).list.length else []))
        { s with
        routing := { s.routing with latch := s.routing.latch || (sel.testBit 0 && !s.routing.list.isEmpty) }
        levels := { s.levels with latch := s.levels.latch || (sel.testBit 1 && !s.levels.list.isEmpty) }
        echo := { s.echo with latch := s.echo.latch || (sel.testBit 2 && !s.echo.list.isEmpty) } })) ∧
    (s.hold = none → exec .applyEdge s = .next { s with
      routing := { s.routing with latch := s.routing.latch || (s.routing.applyLine && !s.routing.list.isEmpty) }
      levels := { s.levels with latch := s.levels.latch || (s.levels.applyLine && !s.levels.list.isEmpty) }
      echo := { s.echo with latch := s.echo.latch || (s.echo.applyLine && !s.echo.list.isEmpty) } }) ∧
    (∀ sel : Nat, HeadDue 0x4E#8 r rest s → Serving s → sel < 256 → sel % 8 ≠ 0 → r.body = u8 sel →
      ∃ t, exec .discard s = .next (answered r rest .ok
          ([ChangeClass.routing, .levels, .echo].flatMap (fun c =>
            if sel.testBit c.code then u8 (s.stage c).list.length else [])) t) ∧
        (∀ c : ChangeClass, t.stage c = if sel.testBit c.code then { s.stage c with list := [], latch := false }
          else s.stage c) ∧
        (∀ l : Leg, (∃ c : ChangeClass, sel.testBit c.code = true ∧ ∃ x ∈ (s.stage c).list, x.op = .legClose l) →
          t.leg l = { s.leg l with closing := false }) ∧
        (∀ l : Leg, (∀ c : ChangeClass, sel.testBit c.code = true → ∀ x ∈ (s.stage c).list, x.op ≠ .legClose l) →
          t.leg l = s.leg l) ∧
        { t with legs := s.legs, routing := s.routing, levels := s.levels, echo := s.echo } = s)

/-! ## The ports and the frame clock (R175 to R190) -/

/-- R184 to R187, R189: PORT_TEST starts a test on a port whose record is OFF and is refused WRONG_STATE on any other;
PORT_TEST_STOP turns a record OFF and keeps the rest; each reports the record as it leaves it. The test acts from the sample
period after the request: in a period in progress that has not been carried, the record it began with goes on. A sample period
carries the word at the transmit index on a slot under a TX or BOTH test, hands on 0 from a slot under an RX or BOTH test, and
moves a running record as TestActs says; a change of state raises TEST_STATE. The byte of an absent expected index is
notes/assumptions/14.md; that a stopped record does not move in the period in progress is notes/assumptions/27.md, and that the
headset port checks nothing in a flywheel period notes/assumptions/19.md. -/
def Obligations.PortTestsStartAndStop : Prop :=
  (∀ (s : State) (r : Request) (rest : List Request) (port : Port), Serving s →
    let kept := if s.clock.carried = false ∧ s.held port = none then s.setHeld port (some (s.test port)) else s
    (∀ (slot : Nat) (dir : TestDir) (pattern : List Int), HeadDue 0x50#8 r rest s → (s.test port).state = .off →
      slot < (if port = .network then 32 else activeCount s.straps) → pattern.length = 8 →
      (∀ x ∈ pattern, -32768 ≤ x ∧ x ≤ 32767) →
      r.body = u8 port.code ++ u8 slot ++ u8 dir.code ++ pattern.flatMap i16 →
      exec .portTest s = .next (answered r rest .ok
        (u8 (if dir = .tx then 2 else 1) ++ u8 slot ++ u8 dir.code ++ pattern.flatMap i16 ++ [0, 0xFF] ++ u32 0 ++ u32 0)
        (kept.setTest port
          { state := if dir = .tx then .locked else .seeking, slot := slot, dir := dir, pattern := pattern, txIndex := 0,
            expected := none, passes := 0, errors := 0 }))) ∧
    (∀ (slot : Nat) (dir : TestDir) (words : List Byte), HeadDue 0x50#8 r rest s → (s.test port).state ≠ .off →
      slot < (if port = .network then 32 else activeCount s.straps) → words.length = 16 →
      r.body = u8 port.code ++ u8 slot ++ u8 dir.code ++ words →
      exec .portTest s = .next (answered r rest .wrongState [] s)) ∧
    (HeadDue 0x52#8 r rest s → r.body = u8 port.code → (s.test port).state ≠ .off →
      exec .portTestStop s = .next (answered r rest .ok
        (u8 0 ++ u8 (s.test port).slot ++ u8 (s.test port).dir.code ++ (s.test port).pattern.flatMap i16 ++
          u8 (s.test port).txIndex ++ u8 0xFF ++ u32 (s.test port).passes ++ u32 (s.test port).errors)
        (kept.setTest port { s.test port with state := .off, expected := none }))) ∧
    (HeadDue 0x52#8 r rest s → r.body = u8 port.code → (s.test port).state = .off →
      exec .portTestStop s = .next (answered r rest .ok
        (u8 0 ++ u8 (s.test port).slot ++ u8 (s.test port).dir.code ++ (s.test port).pattern.flatMap i16 ++
          u8 (s.test port).txIndex ++ u8 (match (s.test port).expected with | some k => k | none => 0xFF) ++
          u32 (s.test port).passes ++ u32 (s.test port).errors) s))) ∧
  ∀ (s : State) (net : Vector Word16 32) (head : Vector Word16 16), s.hold = none → Serving s →
    s.clock.carried = false → s.clock.due = none →
    let qn := s.ports.netHeld.getD s.ports.netTest
    let qh := s.ports.headHeld.getD s.ports.headTest
    ∃ t, exec (.samplePeriod net head) s = .next t ∧ t.ports.netHeld = none ∧ t.ports.headHeld = none ∧
      (s.clock.mark ≠ .internal → ∃ v, t.ports.ntx = some v ∧ ∀ k : NetSlot, v[k] =
        if qn.state ≠ .off ∧ qn.dir ≠ .rx ∧ qn.slot = k.val then qn.pattern.getD qn.txIndex 0
        else s.ports.netTx[k].getD s.clock.period 0) ∧
      (s.clock.mark = .internal → t.ports.ntx = none) ∧
      (∃ v, t.ports.htx = some v ∧ ∀ k : Position, v[k] =
        if qh.state ≠ .off ∧ qh.dir ≠ .rx ∧ qh.slot = k.val then qh.pattern.getD qh.txIndex 0
        else s.ports.headTx[k].getD s.clock.period 0) ∧
      (∃ v, t.ports.netRx = s.ports.netRx ++ [v] ∧ ∀ k : NetSlot, v[k] =
        if s.clock.mark = .pulse ∧ ¬ (qn.state ≠ .off ∧ qn.dir ≠ .tx ∧ qn.slot = k.val) then net[k].toInt else 0) ∧
      (∃ v, t.ports.headRx = s.ports.headRx ++ [v] ∧ ∀ k : Position, v[k] =
        if qh.state ≠ .off ∧ qh.dir ≠ .tx ∧ qh.slot = k.val then 0 else head[k].toInt) ∧
      (s.ports.netTest.state = .off ∨ s.ports.netHeld ≠ none → t.ports.netTest = s.ports.netTest) ∧
      (s.ports.headTest.state = .off ∨ s.ports.headHeld ≠ none → t.ports.headTest = s.ports.headTest) ∧
      (∀ k : NetSlot, s.ports.netTest.state ≠ .off → s.ports.netHeld = none → s.ports.netTest.slot = k.val →
        TestActs s.ports.netTest t.ports.netTest (s.clock.mark != .internal)
          (if s.clock.mark = .pulse then some net[k].toInt else none)) ∧
      (∀ k : Position, s.ports.headTest.state ≠ .off → s.ports.headHeld = none → s.ports.headTest.slot = k.val →
        TestActs s.ports.headTest t.ports.headTest true (if s.clock.mark = .flywheel then none else some head[k].toInt)) ∧
      (t.ports.netTest.state = s.ports.netTest.state → t.ports.headTest.state = s.ports.headTest.state →
        t.link = s.link) ∧
      ∀ port : Port, (t.test port).state ≠ (s.test port).state → ∃ n ∈ t.link.notices, n.subject = port.code ∧
        n.stamp = s.frame ∧ n.detail = .testState (t.test port).state (t.test port).passes (t.test port).errors

/-- R181, R182, R183: a pulse in LOST starts seeking at 1, each in SEEKING counts, and the 64th relocks: LOCKED, a slip counted, SYNC
raised and the period in progress prolonged; a loss counts, raises SYNC and leaves LOST. -/
def Obligations.SyncIsLostAndRegained : Prop :=
  ∀ s : State, s.hold = none → Serving s →
    (∀ since, s.sync.state = .lost →
      exec (.nsyncPulse since) s = .next { s with sync := { s.sync with state := .seeking, seeking := 1 } }) ∧
    (∀ since, s.sync.state = .seeking → s.sync.seeking < 63 →
      exec (.nsyncPulse since) s = .next { s with sync := { s.sync with seeking := s.sync.seeking + 1 } }) ∧
    (s.sync.state = .seeking → s.sync.seeking = 63 → s.sync.slips < 65535 →
      ∃ t, exec .syncRelock s = .next t ∧ (∀ since, exec (.nsyncPulse since) s = .next t) ∧
        t = raise 0 (.sync .locked (s.sync.slips + 1) s.sync.losses) { s with
          sync := { state := .locked, seeking := 0, slips := s.sync.slips + 1, losses := s.sync.losses }
          clock := { s.clock with prolonged := true } }) ∧
    (s.sync.state ≠ .lost → s.sync.losses < 65535 →
      exec .syncLoss s = .next (raise 0 (.sync .lost s.sync.slips (s.sync.losses + 1)) { s with
        sync := { state := .lost, seeking := 0, slips := s.sync.slips, losses := s.sync.losses + 1 } }))

/-- R178, R183: a mark ends a period that has been carried: a pulse at 31.25 µs or more while LOCKED, the timebase in a flywheel
period while LOCKED, and the timebase while SEEKING or LOST. The next period is counted on; after period 63, or in a prolonged
period j, the frame ends and its frame start is due. A pulse sooner than 31.25 µs is no mark. That State holds no timers, a
pulse carries its own time since the period's start, and a mark finds its period carried and no frame start due is the model's
choice (notes/assumptions/7.md). -/
def Obligations.MarksCountThePeriods : Prop :=
  ∀ s : State, s.hold = none → Serving s → s.clock.carried = true → s.clock.due = none →
    (∀ since, s.sync.state = .locked → 125 ≤ since → s.clock.prolonged = false →
      exec (.nsyncPulse since) s = .next (s.setClock
        { period := if s.clock.period = 63 then 0 else s.clock.period + 1, mark := .pulse, carried := false, prolonged := false,
          due := if s.clock.period = 63 then some .whole else none })) ∧
    (∀ since, s.sync.state = .locked → s.clock.prolonged = true →
      exec (.nsyncPulse since) s = .next (s.setClock
        { period := 0, mark := .pulse, carried := false, prolonged := false, due := some (.relock s.clock.period) })) ∧
    (∀ since, s.sync.state = .locked → since < 125 → s.clock.prolonged = false → exec (.nsyncPulse since) s = .next s) ∧
    (s.sync.state = .locked → s.clock.prolonged = false →
      exec .flywheelPeriod s = .next (s.setClock
        { period := if s.clock.period = 63 then 0 else s.clock.period + 1, mark := .flywheel, carried := false, prolonged := false,
          due := if s.clock.period = 63 then some .whole else none })) ∧
    (s.sync.state ≠ .locked → s.clock.prolonged = false →
      exec .internalMark s = .next (s.setClock
        { period := if s.clock.period = 63 then 0 else s.clock.period + 1, mark := .internal, carried := false, prolonged := false,
          due := if s.clock.period = 63 then some .whole else none })) ∧
    (s.sync.state ≠ .locked → s.clock.prolonged = true →
      exec .internalMark s = .next (s.setClock
        { period := 0, mark := .internal, carried := false, prolonged := false, due := some (.relock s.clock.period) }))

/-- R13, R37, R176, R177, R181: a sample period with no test running: in a period the internal timebase marked NTX is not driven and
every leg that is not CLOSED records 0; in any other each slot carries its formed sample and each leg's history records it. The
network values handed on are those received in a period a pulse marked, else 0; the microphone values are those received. No
other state changes but the period being carried and the model's draw counter (notes/assumptions/5.md). That 1599 values of the
history are kept is read by inference (notes/assumptions/8.md). -/
def Obligations.SamplePeriodMovesTheSamples : Prop :=
  ∀ (s : State) (net : Vector Word16 32) (head : Vector Word16 16), s.hold = none → Serving s →
    s.clock.carried = false → s.clock.due = none → s.ports.netTest.state = .off → s.ports.headTest.state = .off →
    s.ports.netHeld = none → s.ports.headHeld = none →
    ∃ t, exec (.samplePeriod net head) s = .next t ∧
      (s.clock.mark = .internal → t.ports.ntx = none) ∧
      (s.clock.mark ≠ .internal → ∃ v, t.ports.ntx = some v ∧ ∀ k : NetSlot, v[k] = s.ports.netTx[k].getD s.clock.period 0) ∧
      (∃ v, t.ports.htx = some v ∧ ∀ k : Position, v[k] = s.ports.headTx[k].getD s.clock.period 0) ∧
      (∃ v, t.ports.netRx = s.ports.netRx ++ [v] ∧
        ∀ k : NetSlot, v[k] = if s.clock.mark = .pulse then net[k].toInt else 0) ∧
      (∃ v, t.ports.headRx = s.ports.headRx ++ [v] ∧ ∀ k : Position, v[k] = head[k].toInt) ∧
      (∀ l : Leg, (s.leg l).state = .closed → t.leg l = s.leg l) ∧
      (∀ (l : Leg) (k : NetSlot), (s.leg l).state ≠ .closed → (s.leg l).slot = some k → t.leg l =
        { s.leg l with ec := { (s.leg l).ec with
            history := ((if s.clock.mark = .internal then 0 else s.ports.netTx[k].getD s.clock.period 0) ::
              (s.leg l).ec.history).take 1599 } }) ∧
      t.clock = { s.clock with carried := true } ∧ t.ports.netTx = s.ports.netTx ∧ t.ports.headTx = s.ports.headTx ∧
      { t with legs := s.legs, ports := s.ports, clock := s.clock, draws := s.draws } = s

/-! ## The mix and the frame start (R7 to R12, R179) -/

/-- R8 to R12, R2, R181: the mix of a frame's inputs. The frame of a slot bound to no leg is 0. An OPEN leg in a group sends the rounded sum
of the other members' terms and the group's barge terms, in no group 0, and a HELD leg its source's output times its ramp. The ear
of an enabled position is (D × H + W) / 2^30 rounded and saturated, H the heard sum and W the direct sum of the prompt, coaching
and sidetone terms; a disabled position's is 0. A leg brings a term while OPEN, a position while its microphone is available (R6).
While sync is SEEKING or LOST every leg's term is 0 (R181); that the state at the frame start decides is the model's reading
(notes/assumptions/28.md). -/
def Obligations.MixFormsEachFrame : Prop :=
  ∀ (s : State) (x : MixIn),
    let speaks := fun p : Position =>
      (s.pos p).enabled && !(s.pos p).muted && !(s.quietLevel && s.quietMask.getLsbD p.val)
    let voice := fun (n : Nat) (p : Position) =>
      if speaks p then x.mic[p].getD n 0 * ((s.pos p).sendGain : Int) else 0
    let term := fun (n : Nat) (m : Member) =>
      match m with
      | .leg l =>
        if (s.leg l).state = .opened ∧ s.sync.state = .locked then x.echo[l].getD n 0 * ((s.leg l).sendGain : Int) else 0
      | .pos p => voice n p
    let barge := fun (n : Nat) (except : Option Position) (m : Member) =>
      match m with
      | .leg _ => 0
      | .pos a =>
        match s.supervision.find? (fun k => k.agent == a) with
        | some k => if k.mode = .barge ∧ some k.supervisor ≠ except then voice n k.supervisor else 0
        | none => 0
    let sum := fun (n : Nat) (g : Group) (self : Option Member) (except : Option Position) =>
      (((s.members g).filter (fun m => some m != self)).map (term n)).sum + ((s.members g).map (barge n except)).sum
    (∀ k : NetSlot, (∀ l, (s.leg l).state ≠ .closed → (s.leg l).slot ≠ some k) → slotFrame s x k = List.replicate 64 0) ∧
    (∀ (k : NetSlot) (l : Leg), (s.leg l).state ≠ .closed → (s.leg l).slot = some k →
      (∀ j, j ≠ l → (s.leg j).state ≠ .closed → (s.leg j).slot ≠ some k) →
      ∃ y : Nat → Int, slotFrame s x k = (List.range 64).map y ∧ ∀ n < 64,
        ((s.leg l).state = .opened → ∀ g, (s.leg l).group = some g →
          y n = saturate ((sum n g (some (.leg l)) none + 16384) / 32768)) ∧
        ((s.leg l).state = .opened → (s.leg l).group = none → y n = 0) ∧
        ((s.leg l).state = .held → ∀ m, (s.leg l).source = some m →
          y n = (x.music[m].getD n 0 * ((s.leg l).ramp : Int) + 16384) / 32768)) ∧
    ∀ p : Position, ∃ y : Nat → Int, frameOf (earSample s x p) = (List.range 64).map y ∧ ∀ n < 64,
      ((s.pos p).enabled = false → y n = 0) ∧
      ((s.pos p).enabled = true → ∃ heard direct : Int,
        y n = saturate (((s.pos p).duck * heard + direct + 536870912) / 1073741824) ∧
        (∀ g, (s.pos p).group = some g → heard = sum n g (some (.pos p)) none) ∧
        (∀ k, (s.pos p).group = none → s.supervision.find? (fun k => k.supervisor == p) = some k →
          (∀ g, (s.pos k.agent).group = some g → heard = sum n g none (some p)) ∧
          ((s.pos k.agent).group = none → heard = voice n k.agent)) ∧
        ((s.pos p).group = none → (∀ k ∈ s.supervision, k.supervisor ≠ p) → heard = 0) ∧
        direct =
          (match x.prompt[p] with | some (v, gain) => v.getD n 0 * (gain : Int) * 32768 | none => 0) +
          (match s.supervision.find? (fun k => k.agent == p) with
            | some k =>
              if k.mode = .whisper ∧ speaks k.supervisor = true then
                x.mic[k.supervisor].getD n 0 * (k.coachGain : Int) * 32768
              else 0
            | none => 0) +
          x.mic[p].getD n 0 * ((s.pos p).sidetone : Int) * 32768)

/-- R7, R179: FRAME_START, once a frame has ended, takes the frame. The frame counter rises by 1, QUIET is sampled, the histories
of a relock interval are completed, the reads of the interval land with their failures taken by the fault record (R129, R132),
and the collection is emptied. In RUNNING the staged changes apply first (R166); in STANDBY none does. In both the service's
opening part is made on the tables in force (R154, R155, R157), the scan takes its landing step (R135), and the closing part
serves from its head (R156, R158) what the opening part left, less what was withdrawn, with the items the sources, the players and
the scan placed behind it in that order (R128).
In RUNNING each OPEN or HELD leg's canceller processes its 64 inbound values with the leg's ramp raised (R40, R48, R49, R76), each
enabled position's microphone its own (R60, R6), each source its six steps (R84), each enabled position's player its four
(R105, R14), a selection reading the index before or after the scan's landing step (R135, notes/assumptions/5.md), and the mix of
their outputs forms every frame of the next interval (R8 to R12). In STANDBY every slot is to carry 0 and no leg, position or
source is processed (R210). The link gains raises alone: FAULT where a clear record has latched, the changes' APPLIED, the opening
part's ADAPT_STARVED, DIVERGENCE_RESET of each leg whose count has reached 16, each source's SOURCE_STARVED and STREAM_LOW,
REINDEX_DONE where the scan has ended, and each player's PROMPT_DONE; they fold into the entries of their kind and subject in their
places, and the new entries stand in an order the part chooses (R200, notes/assumptions/5.md).
Inbound values received on a slot before its LEG_OPEN are processed with the rest (notes/assumptions/9.md). Nothing else changes
but the draw counter of the model. -/
def Obligations.FrameStartTakesTheFrame : Prop :=
  ∀ (s : State) (quiet : Bool) (e : FrameEnd), s.hold = none → Serving s → s.clock.due = some e →
    let ls := s.reads.map Read.land
    let v := (landReads (openFrame e quiet s)).1
    let applied := if s.part = .running then stageApplication v else (v, [])
    let o := openingPart applied.1
    let d := settleOpening o applied.1
    let leg := fun l : Leg => { d.leg l with
      ramp := if (d.leg l).state = .held ∧ (s.leg l).state = .held ∧ l ∉ applied.2 then min 32768 ((d.leg l).ramp + 2048)
        else (d.leg l).ramp }
    let echo := fun (l : Leg) (k : NetSlot) => echoFrame (leg l) (netInbound e k s)
    let mic := fun p : Position => micFrame (d.pos p).mic (headInbound p s)
    let diverges := fun l : Leg => decide ((d.leg l).state ≠ .closed) &&
      (d.leg l).slot.any (fun k => decide (16 ≤ (echo l k).1.ec.divergence))
    ∃ (t : State) (changes debts : List (Nat × Detail)) (music : Source → List (Nat × Detail))
        (ended : Position → List (Nat × Detail)), exec (.frameStart quiet) s = .next t ∧
      (let faults := if s.fault.latched = false ∧ t.fault.latched = true then [(0, .fault t.fault.area t.fault.requester)] else []
        let scanned := if s.scan.running = true ∧ t.scan.running = false then [(0, .reindexDone t.scan.counts)] else []
        let resets := ((List.finRange 24).filter diverges).map
          (fun l => (l.val, Detail.divergenceReset (t.leg l).ec.divergenceResets))
        LinkRaised
          (if s.part = .running then
            faults ++ changes ++ debts ++ resets ++ (List.finRange 4).flatMap music ++ scanned ++
              (List.finRange 16).flatMap ended
          else faults ++ debts ++ scanned)
          { s with frame := s.frame + 1 } t) ∧
      RaisesOn (fun u => (stageApplication u).1) v changes ∧ (∀ y ∈ changes, y.2.kind = 0xC4) ∧
      RaisesOn (settleOpening o) applied.1 debts ∧ (∀ y ∈ debts, y.2.kind = 0xC8) ∧
      (∀ m, RaisesOn (fun u => (sourceFrame ls m u).1) s (music m) ∧
        ∀ y ∈ music m, y.1 = m.val ∧ (y.2.kind = 0xC6 ∨ y.2.kind = 0xC7)) ∧
      (∀ p, ((s.pos p).enabled = false → ended p = []) ∧ ∀ y ∈ ended p, y.1 = p.val ∧ y.2.kind = 0xC5) ∧
      t.frame = s.frame + 1 ∧ t.quietLevel = quiet ∧ t.clock = { s.clock with due := none } ∧
      t.ports.netRx = [] ∧ t.ports.headRx = [] ∧
      t.fault = (takeFaults ls { s with frame := s.frame + 1 }).fault ∧
      t.groups = applied.1.groups ∧ t.supervision = applied.1.supervision ∧ (∀ c, t.stage c = applied.1.stage c) ∧
      t.scan = (landScan ls s).1.scan ∧ t.index = (landScan ls s).1.index ∧
      t.work.commitment = applied.1.work.commitment ∧ t.work.ceiling = s.work.ceiling ∧ t.work.ratio = s.work.ratio ∧
      t.work.last = {
        stamp := s.frame + 1, spare := 2560 - applied.1.work.commitment, adaptations := o.granted.length,
        openingFetches := o.served.length, closingFetches := t.reads.length - o.served.length,
        unitsLeft := t.work.last.unitsLeft, eligible := o.granted.length + o.todo.length, notServed := o.todo.length,
        itemsLeft := t.fetch.length } ∧
      (t.reads.map Read.item).take o.served.length = o.served ∧
      t.work.last.unitsLeft +
        (((t.reads.map Read.item).drop o.served.length).map (fun it => (s.area it.area).cost)).sum = o.units ∧
      (∀ it, t.fetch.head? = some it → t.work.last.unitsLeft < (s.area it.area).cost) ∧
      (∀ x ∈ t.reads, x.settings = s.area x.item.area ∧ x.words = [] ∧ x.failed = none) ∧
      (s.part = .standby →
        (t.reads.map Read.item).drop o.served.length ++ t.fetch = o.fetch ++ (landScan ls s).2.toList ∧
        (∀ l, t.leg l = d.leg l) ∧ t.work.list = d.work.list ∧ (∀ p, t.pos p = { s.pos p with available := false }) ∧
        t.sources = s.sources ∧ (∀ k : NetSlot, t.ports.netTx[k] = List.replicate 64 0) ∧
        ∀ p : Position, t.ports.headTx[p] = List.replicate 64 0) ∧
      (s.part = .running →
        (∀ l, (d.leg l).state = .closed → t.leg l = leg l) ∧
        (∀ (l : Leg) (k : NetSlot), (d.leg l).state ≠ .closed → (d.leg l).slot = some k →
          (16 ≤ (echo l k).1.ec.divergence →
            t.leg l = { (echo l k).1 with ec := { (echo l k).1.ec with
              taps := List.replicate (echo l k).1.ec.taps.length 0, hangover := 0, divergence := 0
              divergenceResets := if (d.leg l).ec.divergenceResets < 65535 then (d.leg l).ec.divergenceResets + 1
                else 65535 } }) ∧
          ((echo l k).1.ec.divergence < 16 → t.leg l = (echo l k).1)) ∧
        t.work.list = (echoStep e (rampStep v applied.2 d)).1.work.list ∧
        (∀ m, t.src m = (sourceFrame ls m s).1.src m) ∧
        (∀ p, (s.pos p).enabled = false → t.pos p = { d.pos p with available := false }) ∧
        ∃ (index : Position → Vector (List IndexEntry) 128) (x : MixIn),
          let ready := fun p : Position => t.setPos p { d.pos p with
            mic := (mic p).1
            available := !(d.pos p).muted && !(quiet && s.quietMask.getLsbD p.val) }
          let player := fun p : Position => playerFrame (index p) ls p (ready p)
          (∃ list : Nat → List FetchItem, list 0 = o.fetch ∧
            (∀ m : Source, list (m.val + 1) = (sourceFrame ls m { s with fetch := list m.val }).1.fetch) ∧
            (∀ p : Position,
              list (p.val + 5) = (playerFrame (index p) ls p { ready p with fetch := list (p.val + 4) }).1.fetch) ∧
            (t.reads.map Read.item).drop o.served.length ++ t.fetch = list 20 ++ (landScan ls s).2.toList) ∧
          (∀ p, index p = s.index ∨ index p = t.index) ∧
          (∀ p, (s.pos p).enabled = true → t.pos p = (player p).1.pos p ∧
            RaisesOn (fun u => (playerFrame (index p) ls p u).1) (ready p) (ended p)) ∧
          (∀ (l : Leg) (k : NetSlot), (d.leg l).state ≠ .closed → (d.leg l).slot = some k → x.echo[l] = (echo l k).2) ∧
          (∀ p : Position, x.mic[p] = if (s.pos p).enabled then (mic p).2 else List.replicate 64 0) ∧
          (∀ m : Source, x.music[m] = (sourceFrame ls m s).2) ∧
          (∀ p : Position, x.prompt[p] = if (s.pos p).enabled then (player p).2 else none) ∧
          (∀ k : NetSlot, t.ports.netTx[k] = slotFrame t x k) ∧
          (∀ p : Position, t.ports.headTx[p] = frameOf (earSample t x p)) ∧
          ∀ p : Position, t.ports.headTx[p].length = 64 ∧ ∀ y ∈ t.ports.headTx[p], -32768 ≤ y ∧ y ≤ 32767) ∧
      { t.ports with
        netRx := s.ports.netRx, headRx := s.ports.headRx, netTx := s.ports.netTx, headTx := s.ports.headTx } = s.ports ∧
      { t with
        frame := s.frame, quietLevel := s.quietLevel, clock := s.clock, ports := s.ports, link := s.link, legs := s.legs,
        positions := s.positions, groups := s.groups, supervision := s.supervision, sources := s.sources, index := s.index,
        fetch := s.fetch, reads := s.reads, fault := s.fault, scan := s.scan, work := s.work, routing := s.routing,
        levels := s.levels, echo := s.echo, draws := s.draws } = s
end

