-- ==== Sys2Proof/Laws/State.lean ====
section
/-! SUPPORT. What each update of the state leaves in each field, and what reading an object after an update of it gives. -/

namespace Sys2Proof.Machine

/-! ## setLeg -/

@[simp] theorem State.setLeg_pending (s : State) (l : Leg) (r : LegRec) : (s.setLeg l r).pending = s.pending := rfl
@[simp] theorem State.setLeg_draws (s : State) (l : Leg) (r : LegRec) : (s.setLeg l r).draws = s.draws := rfl
@[simp] theorem State.setLeg_hold (s : State) (l : Leg) (r : LegRec) : (s.setLeg l r).hold = s.hold := rfl
@[simp] theorem State.setLeg_part (s : State) (l : Leg) (r : LegRec) : (s.setLeg l r).part = s.part := rfl
@[simp] theorem State.setLeg_progress (s : State) (l : Leg) (r : LegRec) : (s.setLeg l r).progress = s.progress := rfl
@[simp] theorem State.setLeg_cause (s : State) (l : Leg) (r : LegRec) : (s.setLeg l r).cause = s.cause := rfl
@[simp] theorem State.setLeg_straps (s : State) (l : Leg) (r : LegRec) : (s.setLeg l r).straps = s.straps := rfl
@[simp] theorem State.setLeg_frame (s : State) (l : Leg) (r : LegRec) : (s.setLeg l r).frame = s.frame := rfl
@[simp] theorem State.setLeg_link (s : State) (l : Leg) (r : LegRec) : (s.setLeg l r).link = s.link := rfl
@[simp] theorem State.setLeg_sync (s : State) (l : Leg) (r : LegRec) : (s.setLeg l r).sync = s.sync := rfl
@[simp] theorem State.setLeg_clock (s : State) (l : Leg) (r : LegRec) : (s.setLeg l r).clock = s.clock := rfl
@[simp] theorem State.setLeg_ports (s : State) (l : Leg) (r : LegRec) : (s.setLeg l r).ports = s.ports := rfl
@[simp] theorem State.setLeg_legs (s : State) (l : Leg) (r : LegRec) : (s.setLeg l r).legs = s.legs.set l r := rfl
@[simp] theorem State.setLeg_positions (s : State) (l : Leg) (r : LegRec) : (s.setLeg l r).positions = s.positions := rfl
@[simp] theorem State.setLeg_groups (s : State) (l : Leg) (r : LegRec) : (s.setLeg l r).groups = s.groups := rfl
@[simp] theorem State.setLeg_supervision (s : State) (l : Leg) (r : LegRec) : (s.setLeg l r).supervision = s.supervision := rfl
@[simp] theorem State.setLeg_quietMask (s : State) (l : Leg) (r : LegRec) : (s.setLeg l r).quietMask = s.quietMask := rfl
@[simp] theorem State.setLeg_quietLevel (s : State) (l : Leg) (r : LegRec) : (s.setLeg l r).quietLevel = s.quietLevel := rfl
@[simp] theorem State.setLeg_sources (s : State) (l : Leg) (r : LegRec) : (s.setLeg l r).sources = s.sources := rfl
@[simp] theorem State.setLeg_free (s : State) (l : Leg) (r : LegRec) : (s.setLeg l r).free = s.free := rfl
@[simp] theorem State.setLeg_classMap (s : State) (l : Leg) (r : LegRec) : (s.setLeg l r).classMap = s.classMap := rfl
@[simp] theorem State.setLeg_areas (s : State) (l : Leg) (r : LegRec) : (s.setLeg l r).areas = s.areas := rfl
@[simp] theorem State.setLeg_index (s : State) (l : Leg) (r : LegRec) : (s.setLeg l r).index = s.index := rfl
@[simp] theorem State.setLeg_fetch (s : State) (l : Leg) (r : LegRec) : (s.setLeg l r).fetch = s.fetch := rfl
@[simp] theorem State.setLeg_reads (s : State) (l : Leg) (r : LegRec) : (s.setLeg l r).reads = s.reads := rfl
@[simp] theorem State.setLeg_fault (s : State) (l : Leg) (r : LegRec) : (s.setLeg l r).fault = s.fault := rfl
@[simp] theorem State.setLeg_scan (s : State) (l : Leg) (r : LegRec) : (s.setLeg l r).scan = s.scan := rfl
@[simp] theorem State.setLeg_work (s : State) (l : Leg) (r : LegRec) : (s.setLeg l r).work = s.work := rfl
@[simp] theorem State.setLeg_routing (s : State) (l : Leg) (r : LegRec) : (s.setLeg l r).routing = s.routing := rfl
@[simp] theorem State.setLeg_levels (s : State) (l : Leg) (r : LegRec) : (s.setLeg l r).levels = s.levels := rfl
@[simp] theorem State.setLeg_echo (s : State) (l : Leg) (r : LegRec) : (s.setLeg l r).echo = s.echo := rfl

/-! ## setPos -/

@[simp] theorem State.setPos_pending (s : State) (p : Position) (r : PosRec) : (s.setPos p r).pending = s.pending := rfl
@[simp] theorem State.setPos_draws (s : State) (p : Position) (r : PosRec) : (s.setPos p r).draws = s.draws := rfl
@[simp] theorem State.setPos_hold (s : State) (p : Position) (r : PosRec) : (s.setPos p r).hold = s.hold := rfl
@[simp] theorem State.setPos_part (s : State) (p : Position) (r : PosRec) : (s.setPos p r).part = s.part := rfl
@[simp] theorem State.setPos_progress (s : State) (p : Position) (r : PosRec) : (s.setPos p r).progress = s.progress := rfl
@[simp] theorem State.setPos_cause (s : State) (p : Position) (r : PosRec) : (s.setPos p r).cause = s.cause := rfl
@[simp] theorem State.setPos_straps (s : State) (p : Position) (r : PosRec) : (s.setPos p r).straps = s.straps := rfl
@[simp] theorem State.setPos_frame (s : State) (p : Position) (r : PosRec) : (s.setPos p r).frame = s.frame := rfl
@[simp] theorem State.setPos_link (s : State) (p : Position) (r : PosRec) : (s.setPos p r).link = s.link := rfl
@[simp] theorem State.setPos_sync (s : State) (p : Position) (r : PosRec) : (s.setPos p r).sync = s.sync := rfl
@[simp] theorem State.setPos_clock (s : State) (p : Position) (r : PosRec) : (s.setPos p r).clock = s.clock := rfl
@[simp] theorem State.setPos_ports (s : State) (p : Position) (r : PosRec) : (s.setPos p r).ports = s.ports := rfl
@[simp] theorem State.setPos_legs (s : State) (p : Position) (r : PosRec) : (s.setPos p r).legs = s.legs := rfl
@[simp] theorem State.setPos_positions (s : State) (p : Position) (r : PosRec) : (s.setPos p r).positions = s.positions.set p r := rfl
@[simp] theorem State.setPos_groups (s : State) (p : Position) (r : PosRec) : (s.setPos p r).groups = s.groups := rfl
@[simp] theorem State.setPos_supervision (s : State) (p : Position) (r : PosRec) : (s.setPos p r).supervision = s.supervision := rfl
@[simp] theorem State.setPos_quietMask (s : State) (p : Position) (r : PosRec) : (s.setPos p r).quietMask = s.quietMask := rfl
@[simp] theorem State.setPos_quietLevel (s : State) (p : Position) (r : PosRec) : (s.setPos p r).quietLevel = s.quietLevel := rfl
@[simp] theorem State.setPos_sources (s : State) (p : Position) (r : PosRec) : (s.setPos p r).sources = s.sources := rfl
@[simp] theorem State.setPos_free (s : State) (p : Position) (r : PosRec) : (s.setPos p r).free = s.free := rfl
@[simp] theorem State.setPos_classMap (s : State) (p : Position) (r : PosRec) : (s.setPos p r).classMap = s.classMap := rfl
@[simp] theorem State.setPos_areas (s : State) (p : Position) (r : PosRec) : (s.setPos p r).areas = s.areas := rfl
@[simp] theorem State.setPos_index (s : State) (p : Position) (r : PosRec) : (s.setPos p r).index = s.index := rfl
@[simp] theorem State.setPos_fetch (s : State) (p : Position) (r : PosRec) : (s.setPos p r).fetch = s.fetch := rfl
@[simp] theorem State.setPos_reads (s : State) (p : Position) (r : PosRec) : (s.setPos p r).reads = s.reads := rfl
@[simp] theorem State.setPos_fault (s : State) (p : Position) (r : PosRec) : (s.setPos p r).fault = s.fault := rfl
@[simp] theorem State.setPos_scan (s : State) (p : Position) (r : PosRec) : (s.setPos p r).scan = s.scan := rfl
@[simp] theorem State.setPos_work (s : State) (p : Position) (r : PosRec) : (s.setPos p r).work = s.work := rfl
@[simp] theorem State.setPos_routing (s : State) (p : Position) (r : PosRec) : (s.setPos p r).routing = s.routing := rfl
@[simp] theorem State.setPos_levels (s : State) (p : Position) (r : PosRec) : (s.setPos p r).levels = s.levels := rfl
@[simp] theorem State.setPos_echo (s : State) (p : Position) (r : PosRec) : (s.setPos p r).echo = s.echo := rfl

/-! ## setSrc -/

@[simp] theorem State.setSrc_pending (s : State) (m : Source) (r : SourceRec) : (s.setSrc m r).pending = s.pending := rfl
@[simp] theorem State.setSrc_draws (s : State) (m : Source) (r : SourceRec) : (s.setSrc m r).draws = s.draws := rfl
@[simp] theorem State.setSrc_hold (s : State) (m : Source) (r : SourceRec) : (s.setSrc m r).hold = s.hold := rfl
@[simp] theorem State.setSrc_part (s : State) (m : Source) (r : SourceRec) : (s.setSrc m r).part = s.part := rfl
@[simp] theorem State.setSrc_progress (s : State) (m : Source) (r : SourceRec) : (s.setSrc m r).progress = s.progress := rfl
@[simp] theorem State.setSrc_cause (s : State) (m : Source) (r : SourceRec) : (s.setSrc m r).cause = s.cause := rfl
@[simp] theorem State.setSrc_straps (s : State) (m : Source) (r : SourceRec) : (s.setSrc m r).straps = s.straps := rfl
@[simp] theorem State.setSrc_frame (s : State) (m : Source) (r : SourceRec) : (s.setSrc m r).frame = s.frame := rfl
@[simp] theorem State.setSrc_link (s : State) (m : Source) (r : SourceRec) : (s.setSrc m r).link = s.link := rfl
@[simp] theorem State.setSrc_sync (s : State) (m : Source) (r : SourceRec) : (s.setSrc m r).sync = s.sync := rfl
@[simp] theorem State.setSrc_clock (s : State) (m : Source) (r : SourceRec) : (s.setSrc m r).clock = s.clock := rfl
@[simp] theorem State.setSrc_ports (s : State) (m : Source) (r : SourceRec) : (s.setSrc m r).ports = s.ports := rfl
@[simp] theorem State.setSrc_legs (s : State) (m : Source) (r : SourceRec) : (s.setSrc m r).legs = s.legs := rfl
@[simp] theorem State.setSrc_positions (s : State) (m : Source) (r : SourceRec) : (s.setSrc m r).positions = s.positions := rfl
@[simp] theorem State.setSrc_groups (s : State) (m : Source) (r : SourceRec) : (s.setSrc m r).groups = s.groups := rfl
@[simp] theorem State.setSrc_supervision (s : State) (m : Source) (r : SourceRec) : (s.setSrc m r).supervision = s.supervision := rfl
@[simp] theorem State.setSrc_quietMask (s : State) (m : Source) (r : SourceRec) : (s.setSrc m r).quietMask = s.quietMask := rfl
@[simp] theorem State.setSrc_quietLevel (s : State) (m : Source) (r : SourceRec) : (s.setSrc m r).quietLevel = s.quietLevel := rfl
@[simp] theorem State.setSrc_sources (s : State) (m : Source) (r : SourceRec) : (s.setSrc m r).sources = s.sources.set m r := rfl
@[simp] theorem State.setSrc_free (s : State) (m : Source) (r : SourceRec) : (s.setSrc m r).free = s.free := rfl
@[simp] theorem State.setSrc_classMap (s : State) (m : Source) (r : SourceRec) : (s.setSrc m r).classMap = s.classMap := rfl
@[simp] theorem State.setSrc_areas (s : State) (m : Source) (r : SourceRec) : (s.setSrc m r).areas = s.areas := rfl
@[simp] theorem State.setSrc_index (s : State) (m : Source) (r : SourceRec) : (s.setSrc m r).index = s.index := rfl
@[simp] theorem State.setSrc_fetch (s : State) (m : Source) (r : SourceRec) : (s.setSrc m r).fetch = s.fetch := rfl
@[simp] theorem State.setSrc_reads (s : State) (m : Source) (r : SourceRec) : (s.setSrc m r).reads = s.reads := rfl
@[simp] theorem State.setSrc_fault (s : State) (m : Source) (r : SourceRec) : (s.setSrc m r).fault = s.fault := rfl
@[simp] theorem State.setSrc_scan (s : State) (m : Source) (r : SourceRec) : (s.setSrc m r).scan = s.scan := rfl
@[simp] theorem State.setSrc_work (s : State) (m : Source) (r : SourceRec) : (s.setSrc m r).work = s.work := rfl
@[simp] theorem State.setSrc_routing (s : State) (m : Source) (r : SourceRec) : (s.setSrc m r).routing = s.routing := rfl
@[simp] theorem State.setSrc_levels (s : State) (m : Source) (r : SourceRec) : (s.setSrc m r).levels = s.levels := rfl
@[simp] theorem State.setSrc_echo (s : State) (m : Source) (r : SourceRec) : (s.setSrc m r).echo = s.echo := rfl

/-! ## setMembers -/

@[simp] theorem State.setMembers_pending (s : State) (g : Group) (ms : List Member) : (s.setMembers g ms).pending = s.pending := rfl
@[simp] theorem State.setMembers_draws (s : State) (g : Group) (ms : List Member) : (s.setMembers g ms).draws = s.draws := rfl
@[simp] theorem State.setMembers_hold (s : State) (g : Group) (ms : List Member) : (s.setMembers g ms).hold = s.hold := rfl
@[simp] theorem State.setMembers_part (s : State) (g : Group) (ms : List Member) : (s.setMembers g ms).part = s.part := rfl
@[simp] theorem State.setMembers_progress (s : State) (g : Group) (ms : List Member) : (s.setMembers g ms).progress = s.progress := rfl
@[simp] theorem State.setMembers_cause (s : State) (g : Group) (ms : List Member) : (s.setMembers g ms).cause = s.cause := rfl
@[simp] theorem State.setMembers_straps (s : State) (g : Group) (ms : List Member) : (s.setMembers g ms).straps = s.straps := rfl
@[simp] theorem State.setMembers_frame (s : State) (g : Group) (ms : List Member) : (s.setMembers g ms).frame = s.frame := rfl
@[simp] theorem State.setMembers_link (s : State) (g : Group) (ms : List Member) : (s.setMembers g ms).link = s.link := rfl
@[simp] theorem State.setMembers_sync (s : State) (g : Group) (ms : List Member) : (s.setMembers g ms).sync = s.sync := rfl
@[simp] theorem State.setMembers_clock (s : State) (g : Group) (ms : List Member) : (s.setMembers g ms).clock = s.clock := rfl
@[simp] theorem State.setMembers_ports (s : State) (g : Group) (ms : List Member) : (s.setMembers g ms).ports = s.ports := rfl
@[simp] theorem State.setMembers_legs (s : State) (g : Group) (ms : List Member) : (s.setMembers g ms).legs = s.legs := rfl
@[simp] theorem State.setMembers_positions (s : State) (g : Group) (ms : List Member) : (s.setMembers g ms).positions = s.positions := rfl
@[simp] theorem State.setMembers_groups (s : State) (g : Group) (ms : List Member) : (s.setMembers g ms).groups = s.groups.set g ms := rfl
@[simp] theorem State.setMembers_supervision (s : State) (g : Group) (ms : List Member) : (s.setMembers g ms).supervision = s.supervision := rfl
@[simp] theorem State.setMembers_quietMask (s : State) (g : Group) (ms : List Member) : (s.setMembers g ms).quietMask = s.quietMask := rfl
@[simp] theorem State.setMembers_quietLevel (s : State) (g : Group) (ms : List Member) : (s.setMembers g ms).quietLevel = s.quietLevel := rfl
@[simp] theorem State.setMembers_sources (s : State) (g : Group) (ms : List Member) : (s.setMembers g ms).sources = s.sources := rfl
@[simp] theorem State.setMembers_free (s : State) (g : Group) (ms : List Member) : (s.setMembers g ms).free = s.free := rfl
@[simp] theorem State.setMembers_classMap (s : State) (g : Group) (ms : List Member) : (s.setMembers g ms).classMap = s.classMap := rfl
@[simp] theorem State.setMembers_areas (s : State) (g : Group) (ms : List Member) : (s.setMembers g ms).areas = s.areas := rfl
@[simp] theorem State.setMembers_index (s : State) (g : Group) (ms : List Member) : (s.setMembers g ms).index = s.index := rfl
@[simp] theorem State.setMembers_fetch (s : State) (g : Group) (ms : List Member) : (s.setMembers g ms).fetch = s.fetch := rfl
@[simp] theorem State.setMembers_reads (s : State) (g : Group) (ms : List Member) : (s.setMembers g ms).reads = s.reads := rfl
@[simp] theorem State.setMembers_fault (s : State) (g : Group) (ms : List Member) : (s.setMembers g ms).fault = s.fault := rfl
@[simp] theorem State.setMembers_scan (s : State) (g : Group) (ms : List Member) : (s.setMembers g ms).scan = s.scan := rfl
@[simp] theorem State.setMembers_work (s : State) (g : Group) (ms : List Member) : (s.setMembers g ms).work = s.work := rfl
@[simp] theorem State.setMembers_routing (s : State) (g : Group) (ms : List Member) : (s.setMembers g ms).routing = s.routing := rfl
@[simp] theorem State.setMembers_levels (s : State) (g : Group) (ms : List Member) : (s.setMembers g ms).levels = s.levels := rfl
@[simp] theorem State.setMembers_echo (s : State) (g : Group) (ms : List Member) : (s.setMembers g ms).echo = s.echo := rfl

/-! ## setLink -/

@[simp] theorem State.setLink_pending (s : State) (l : Link) : (s.setLink l).pending = s.pending := rfl
@[simp] theorem State.setLink_draws (s : State) (l : Link) : (s.setLink l).draws = s.draws := rfl
@[simp] theorem State.setLink_hold (s : State) (l : Link) : (s.setLink l).hold = s.hold := rfl
@[simp] theorem State.setLink_part (s : State) (l : Link) : (s.setLink l).part = s.part := rfl
@[simp] theorem State.setLink_progress (s : State) (l : Link) : (s.setLink l).progress = s.progress := rfl
@[simp] theorem State.setLink_cause (s : State) (l : Link) : (s.setLink l).cause = s.cause := rfl
@[simp] theorem State.setLink_straps (s : State) (l : Link) : (s.setLink l).straps = s.straps := rfl
@[simp] theorem State.setLink_frame (s : State) (l : Link) : (s.setLink l).frame = s.frame := rfl
@[simp] theorem State.setLink_link (s : State) (l : Link) : (s.setLink l).link = l := rfl
@[simp] theorem State.setLink_sync (s : State) (l : Link) : (s.setLink l).sync = s.sync := rfl
@[simp] theorem State.setLink_clock (s : State) (l : Link) : (s.setLink l).clock = s.clock := rfl
@[simp] theorem State.setLink_ports (s : State) (l : Link) : (s.setLink l).ports = s.ports := rfl
@[simp] theorem State.setLink_legs (s : State) (l : Link) : (s.setLink l).legs = s.legs := rfl
@[simp] theorem State.setLink_positions (s : State) (l : Link) : (s.setLink l).positions = s.positions := rfl
@[simp] theorem State.setLink_groups (s : State) (l : Link) : (s.setLink l).groups = s.groups := rfl
@[simp] theorem State.setLink_supervision (s : State) (l : Link) : (s.setLink l).supervision = s.supervision := rfl
@[simp] theorem State.setLink_quietMask (s : State) (l : Link) : (s.setLink l).quietMask = s.quietMask := rfl
@[simp] theorem State.setLink_quietLevel (s : State) (l : Link) : (s.setLink l).quietLevel = s.quietLevel := rfl
@[simp] theorem State.setLink_sources (s : State) (l : Link) : (s.setLink l).sources = s.sources := rfl
@[simp] theorem State.setLink_free (s : State) (l : Link) : (s.setLink l).free = s.free := rfl
@[simp] theorem State.setLink_classMap (s : State) (l : Link) : (s.setLink l).classMap = s.classMap := rfl
@[simp] theorem State.setLink_areas (s : State) (l : Link) : (s.setLink l).areas = s.areas := rfl
@[simp] theorem State.setLink_index (s : State) (l : Link) : (s.setLink l).index = s.index := rfl
@[simp] theorem State.setLink_fetch (s : State) (l : Link) : (s.setLink l).fetch = s.fetch := rfl
@[simp] theorem State.setLink_reads (s : State) (l : Link) : (s.setLink l).reads = s.reads := rfl
@[simp] theorem State.setLink_fault (s : State) (l : Link) : (s.setLink l).fault = s.fault := rfl
@[simp] theorem State.setLink_scan (s : State) (l : Link) : (s.setLink l).scan = s.scan := rfl
@[simp] theorem State.setLink_work (s : State) (l : Link) : (s.setLink l).work = s.work := rfl
@[simp] theorem State.setLink_routing (s : State) (l : Link) : (s.setLink l).routing = s.routing := rfl
@[simp] theorem State.setLink_levels (s : State) (l : Link) : (s.setLink l).levels = s.levels := rfl
@[simp] theorem State.setLink_echo (s : State) (l : Link) : (s.setLink l).echo = s.echo := rfl

/-! ## setWork -/

@[simp] theorem State.setWork_pending (s : State) (w : Work) : (s.setWork w).pending = s.pending := rfl
@[simp] theorem State.setWork_draws (s : State) (w : Work) : (s.setWork w).draws = s.draws := rfl
@[simp] theorem State.setWork_hold (s : State) (w : Work) : (s.setWork w).hold = s.hold := rfl
@[simp] theorem State.setWork_part (s : State) (w : Work) : (s.setWork w).part = s.part := rfl
@[simp] theorem State.setWork_progress (s : State) (w : Work) : (s.setWork w).progress = s.progress := rfl
@[simp] theorem State.setWork_cause (s : State) (w : Work) : (s.setWork w).cause = s.cause := rfl
@[simp] theorem State.setWork_straps (s : State) (w : Work) : (s.setWork w).straps = s.straps := rfl
@[simp] theorem State.setWork_frame (s : State) (w : Work) : (s.setWork w).frame = s.frame := rfl
@[simp] theorem State.setWork_link (s : State) (w : Work) : (s.setWork w).link = s.link := rfl
@[simp] theorem State.setWork_sync (s : State) (w : Work) : (s.setWork w).sync = s.sync := rfl
@[simp] theorem State.setWork_clock (s : State) (w : Work) : (s.setWork w).clock = s.clock := rfl
@[simp] theorem State.setWork_ports (s : State) (w : Work) : (s.setWork w).ports = s.ports := rfl
@[simp] theorem State.setWork_legs (s : State) (w : Work) : (s.setWork w).legs = s.legs := rfl
@[simp] theorem State.setWork_positions (s : State) (w : Work) : (s.setWork w).positions = s.positions := rfl
@[simp] theorem State.setWork_groups (s : State) (w : Work) : (s.setWork w).groups = s.groups := rfl
@[simp] theorem State.setWork_supervision (s : State) (w : Work) : (s.setWork w).supervision = s.supervision := rfl
@[simp] theorem State.setWork_quietMask (s : State) (w : Work) : (s.setWork w).quietMask = s.quietMask := rfl
@[simp] theorem State.setWork_quietLevel (s : State) (w : Work) : (s.setWork w).quietLevel = s.quietLevel := rfl
@[simp] theorem State.setWork_sources (s : State) (w : Work) : (s.setWork w).sources = s.sources := rfl
@[simp] theorem State.setWork_free (s : State) (w : Work) : (s.setWork w).free = s.free := rfl
@[simp] theorem State.setWork_classMap (s : State) (w : Work) : (s.setWork w).classMap = s.classMap := rfl
@[simp] theorem State.setWork_areas (s : State) (w : Work) : (s.setWork w).areas = s.areas := rfl
@[simp] theorem State.setWork_index (s : State) (w : Work) : (s.setWork w).index = s.index := rfl
@[simp] theorem State.setWork_fetch (s : State) (w : Work) : (s.setWork w).fetch = s.fetch := rfl
@[simp] theorem State.setWork_reads (s : State) (w : Work) : (s.setWork w).reads = s.reads := rfl
@[simp] theorem State.setWork_fault (s : State) (w : Work) : (s.setWork w).fault = s.fault := rfl
@[simp] theorem State.setWork_scan (s : State) (w : Work) : (s.setWork w).scan = s.scan := rfl
@[simp] theorem State.setWork_work (s : State) (w : Work) : (s.setWork w).work = w := rfl
@[simp] theorem State.setWork_routing (s : State) (w : Work) : (s.setWork w).routing = s.routing := rfl
@[simp] theorem State.setWork_levels (s : State) (w : Work) : (s.setWork w).levels = s.levels := rfl
@[simp] theorem State.setWork_echo (s : State) (w : Work) : (s.setWork w).echo = s.echo := rfl

/-! ## setClock -/

@[simp] theorem State.setClock_pending (s : State) (c : Clock) : (s.setClock c).pending = s.pending := rfl
@[simp] theorem State.setClock_draws (s : State) (c : Clock) : (s.setClock c).draws = s.draws := rfl
@[simp] theorem State.setClock_hold (s : State) (c : Clock) : (s.setClock c).hold = s.hold := rfl
@[simp] theorem State.setClock_part (s : State) (c : Clock) : (s.setClock c).part = s.part := rfl
@[simp] theorem State.setClock_progress (s : State) (c : Clock) : (s.setClock c).progress = s.progress := rfl
@[simp] theorem State.setClock_cause (s : State) (c : Clock) : (s.setClock c).cause = s.cause := rfl
@[simp] theorem State.setClock_straps (s : State) (c : Clock) : (s.setClock c).straps = s.straps := rfl
@[simp] theorem State.setClock_frame (s : State) (c : Clock) : (s.setClock c).frame = s.frame := rfl
@[simp] theorem State.setClock_link (s : State) (c : Clock) : (s.setClock c).link = s.link := rfl
@[simp] theorem State.setClock_sync (s : State) (c : Clock) : (s.setClock c).sync = s.sync := rfl
@[simp] theorem State.setClock_clock (s : State) (c : Clock) : (s.setClock c).clock = c := rfl
@[simp] theorem State.setClock_ports (s : State) (c : Clock) : (s.setClock c).ports = s.ports := rfl
@[simp] theorem State.setClock_legs (s : State) (c : Clock) : (s.setClock c).legs = s.legs := rfl
@[simp] theorem State.setClock_positions (s : State) (c : Clock) : (s.setClock c).positions = s.positions := rfl
@[simp] theorem State.setClock_groups (s : State) (c : Clock) : (s.setClock c).groups = s.groups := rfl
@[simp] theorem State.setClock_supervision (s : State) (c : Clock) : (s.setClock c).supervision = s.supervision := rfl
@[simp] theorem State.setClock_quietMask (s : State) (c : Clock) : (s.setClock c).quietMask = s.quietMask := rfl
@[simp] theorem State.setClock_quietLevel (s : State) (c : Clock) : (s.setClock c).quietLevel = s.quietLevel := rfl
@[simp] theorem State.setClock_sources (s : State) (c : Clock) : (s.setClock c).sources = s.sources := rfl
@[simp] theorem State.setClock_free (s : State) (c : Clock) : (s.setClock c).free = s.free := rfl
@[simp] theorem State.setClock_classMap (s : State) (c : Clock) : (s.setClock c).classMap = s.classMap := rfl
@[simp] theorem State.setClock_areas (s : State) (c : Clock) : (s.setClock c).areas = s.areas := rfl
@[simp] theorem State.setClock_index (s : State) (c : Clock) : (s.setClock c).index = s.index := rfl
@[simp] theorem State.setClock_fetch (s : State) (c : Clock) : (s.setClock c).fetch = s.fetch := rfl
@[simp] theorem State.setClock_reads (s : State) (c : Clock) : (s.setClock c).reads = s.reads := rfl
@[simp] theorem State.setClock_fault (s : State) (c : Clock) : (s.setClock c).fault = s.fault := rfl
@[simp] theorem State.setClock_scan (s : State) (c : Clock) : (s.setClock c).scan = s.scan := rfl
@[simp] theorem State.setClock_work (s : State) (c : Clock) : (s.setClock c).work = s.work := rfl
@[simp] theorem State.setClock_routing (s : State) (c : Clock) : (s.setClock c).routing = s.routing := rfl
@[simp] theorem State.setClock_levels (s : State) (c : Clock) : (s.setClock c).levels = s.levels := rfl
@[simp] theorem State.setClock_echo (s : State) (c : Clock) : (s.setClock c).echo = s.echo := rfl

/-! ## setPending -/

@[simp] theorem State.setPending_pending (s : State) (q : List Instr) : (s.setPending q).pending = q := rfl
@[simp] theorem State.setPending_draws (s : State) (q : List Instr) : (s.setPending q).draws = s.draws := rfl
@[simp] theorem State.setPending_hold (s : State) (q : List Instr) : (s.setPending q).hold = s.hold := rfl
@[simp] theorem State.setPending_part (s : State) (q : List Instr) : (s.setPending q).part = s.part := rfl
@[simp] theorem State.setPending_progress (s : State) (q : List Instr) : (s.setPending q).progress = s.progress := rfl
@[simp] theorem State.setPending_cause (s : State) (q : List Instr) : (s.setPending q).cause = s.cause := rfl
@[simp] theorem State.setPending_straps (s : State) (q : List Instr) : (s.setPending q).straps = s.straps := rfl
@[simp] theorem State.setPending_frame (s : State) (q : List Instr) : (s.setPending q).frame = s.frame := rfl
@[simp] theorem State.setPending_link (s : State) (q : List Instr) : (s.setPending q).link = s.link := rfl
@[simp] theorem State.setPending_sync (s : State) (q : List Instr) : (s.setPending q).sync = s.sync := rfl
@[simp] theorem State.setPending_clock (s : State) (q : List Instr) : (s.setPending q).clock = s.clock := rfl
@[simp] theorem State.setPending_ports (s : State) (q : List Instr) : (s.setPending q).ports = s.ports := rfl
@[simp] theorem State.setPending_legs (s : State) (q : List Instr) : (s.setPending q).legs = s.legs := rfl
@[simp] theorem State.setPending_positions (s : State) (q : List Instr) : (s.setPending q).positions = s.positions := rfl
@[simp] theorem State.setPending_groups (s : State) (q : List Instr) : (s.setPending q).groups = s.groups := rfl
@[simp] theorem State.setPending_supervision (s : State) (q : List Instr) : (s.setPending q).supervision = s.supervision := rfl
@[simp] theorem State.setPending_quietMask (s : State) (q : List Instr) : (s.setPending q).quietMask = s.quietMask := rfl
@[simp] theorem State.setPending_quietLevel (s : State) (q : List Instr) : (s.setPending q).quietLevel = s.quietLevel := rfl
@[simp] theorem State.setPending_sources (s : State) (q : List Instr) : (s.setPending q).sources = s.sources := rfl
@[simp] theorem State.setPending_free (s : State) (q : List Instr) : (s.setPending q).free = s.free := rfl
@[simp] theorem State.setPending_classMap (s : State) (q : List Instr) : (s.setPending q).classMap = s.classMap := rfl
@[simp] theorem State.setPending_areas (s : State) (q : List Instr) : (s.setPending q).areas = s.areas := rfl
@[simp] theorem State.setPending_index (s : State) (q : List Instr) : (s.setPending q).index = s.index := rfl
@[simp] theorem State.setPending_fetch (s : State) (q : List Instr) : (s.setPending q).fetch = s.fetch := rfl
@[simp] theorem State.setPending_reads (s : State) (q : List Instr) : (s.setPending q).reads = s.reads := rfl
@[simp] theorem State.setPending_fault (s : State) (q : List Instr) : (s.setPending q).fault = s.fault := rfl
@[simp] theorem State.setPending_scan (s : State) (q : List Instr) : (s.setPending q).scan = s.scan := rfl
@[simp] theorem State.setPending_work (s : State) (q : List Instr) : (s.setPending q).work = s.work := rfl
@[simp] theorem State.setPending_routing (s : State) (q : List Instr) : (s.setPending q).routing = s.routing := rfl
@[simp] theorem State.setPending_levels (s : State) (q : List Instr) : (s.setPending q).levels = s.levels := rfl
@[simp] theorem State.setPending_echo (s : State) (q : List Instr) : (s.setPending q).echo = s.echo := rfl

/-! ## setStage -/

@[simp] theorem State.setStage_pending (s : State) (c : ChangeClass) (st : Stage) : (s.setStage c st).pending = s.pending := by cases c <;> rfl
@[simp] theorem State.setStage_draws (s : State) (c : ChangeClass) (st : Stage) : (s.setStage c st).draws = s.draws := by cases c <;> rfl
@[simp] theorem State.setStage_hold (s : State) (c : ChangeClass) (st : Stage) : (s.setStage c st).hold = s.hold := by cases c <;> rfl
@[simp] theorem State.setStage_part (s : State) (c : ChangeClass) (st : Stage) : (s.setStage c st).part = s.part := by cases c <;> rfl
@[simp] theorem State.setStage_progress (s : State) (c : ChangeClass) (st : Stage) : (s.setStage c st).progress = s.progress := by cases c <;> rfl
@[simp] theorem State.setStage_cause (s : State) (c : ChangeClass) (st : Stage) : (s.setStage c st).cause = s.cause := by cases c <;> rfl
@[simp] theorem State.setStage_straps (s : State) (c : ChangeClass) (st : Stage) : (s.setStage c st).straps = s.straps := by cases c <;> rfl
@[simp] theorem State.setStage_frame (s : State) (c : ChangeClass) (st : Stage) : (s.setStage c st).frame = s.frame := by cases c <;> rfl
@[simp] theorem State.setStage_link (s : State) (c : ChangeClass) (st : Stage) : (s.setStage c st).link = s.link := by cases c <;> rfl
@[simp] theorem State.setStage_sync (s : State) (c : ChangeClass) (st : Stage) : (s.setStage c st).sync = s.sync := by cases c <;> rfl
@[simp] theorem State.setStage_clock (s : State) (c : ChangeClass) (st : Stage) : (s.setStage c st).clock = s.clock := by cases c <;> rfl
@[simp] theorem State.setStage_ports (s : State) (c : ChangeClass) (st : Stage) : (s.setStage c st).ports = s.ports := by cases c <;> rfl
@[simp] theorem State.setStage_legs (s : State) (c : ChangeClass) (st : Stage) : (s.setStage c st).legs = s.legs := by cases c <;> rfl
@[simp] theorem State.setStage_positions (s : State) (c : ChangeClass) (st : Stage) : (s.setStage c st).positions = s.positions := by cases c <;> rfl
@[simp] theorem State.setStage_groups (s : State) (c : ChangeClass) (st : Stage) : (s.setStage c st).groups = s.groups := by cases c <;> rfl
@[simp] theorem State.setStage_supervision (s : State) (c : ChangeClass) (st : Stage) : (s.setStage c st).supervision = s.supervision := by cases c <;> rfl
@[simp] theorem State.setStage_quietMask (s : State) (c : ChangeClass) (st : Stage) : (s.setStage c st).quietMask = s.quietMask := by cases c <;> rfl
@[simp] theorem State.setStage_quietLevel (s : State) (c : ChangeClass) (st : Stage) : (s.setStage c st).quietLevel = s.quietLevel := by cases c <;> rfl
@[simp] theorem State.setStage_sources (s : State) (c : ChangeClass) (st : Stage) : (s.setStage c st).sources = s.sources := by cases c <;> rfl
@[simp] theorem State.setStage_free (s : State) (c : ChangeClass) (st : Stage) : (s.setStage c st).free = s.free := by cases c <;> rfl
@[simp] theorem State.setStage_classMap (s : State) (c : ChangeClass) (st : Stage) : (s.setStage c st).classMap = s.classMap := by cases c <;> rfl
@[simp] theorem State.setStage_areas (s : State) (c : ChangeClass) (st : Stage) : (s.setStage c st).areas = s.areas := by cases c <;> rfl
@[simp] theorem State.setStage_index (s : State) (c : ChangeClass) (st : Stage) : (s.setStage c st).index = s.index := by cases c <;> rfl
@[simp] theorem State.setStage_fetch (s : State) (c : ChangeClass) (st : Stage) : (s.setStage c st).fetch = s.fetch := by cases c <;> rfl
@[simp] theorem State.setStage_reads (s : State) (c : ChangeClass) (st : Stage) : (s.setStage c st).reads = s.reads := by cases c <;> rfl
@[simp] theorem State.setStage_fault (s : State) (c : ChangeClass) (st : Stage) : (s.setStage c st).fault = s.fault := by cases c <;> rfl
@[simp] theorem State.setStage_scan (s : State) (c : ChangeClass) (st : Stage) : (s.setStage c st).scan = s.scan := by cases c <;> rfl
@[simp] theorem State.setStage_work (s : State) (c : ChangeClass) (st : Stage) : (s.setStage c st).work = s.work := by cases c <;> rfl

/-! ## setTest -/

@[simp] theorem State.setTest_pending (s : State) (p : Port) (t : PortTest) : (s.setTest p t).pending = s.pending := by cases p <;> rfl
@[simp] theorem State.setTest_draws (s : State) (p : Port) (t : PortTest) : (s.setTest p t).draws = s.draws := by cases p <;> rfl
@[simp] theorem State.setTest_hold (s : State) (p : Port) (t : PortTest) : (s.setTest p t).hold = s.hold := by cases p <;> rfl
@[simp] theorem State.setTest_part (s : State) (p : Port) (t : PortTest) : (s.setTest p t).part = s.part := by cases p <;> rfl
@[simp] theorem State.setTest_progress (s : State) (p : Port) (t : PortTest) : (s.setTest p t).progress = s.progress := by cases p <;> rfl
@[simp] theorem State.setTest_cause (s : State) (p : Port) (t : PortTest) : (s.setTest p t).cause = s.cause := by cases p <;> rfl
@[simp] theorem State.setTest_straps (s : State) (p : Port) (t : PortTest) : (s.setTest p t).straps = s.straps := by cases p <;> rfl
@[simp] theorem State.setTest_frame (s : State) (p : Port) (t : PortTest) : (s.setTest p t).frame = s.frame := by cases p <;> rfl
@[simp] theorem State.setTest_link (s : State) (p : Port) (t : PortTest) : (s.setTest p t).link = s.link := by cases p <;> rfl
@[simp] theorem State.setTest_sync (s : State) (p : Port) (t : PortTest) : (s.setTest p t).sync = s.sync := by cases p <;> rfl
@[simp] theorem State.setTest_clock (s : State) (p : Port) (t : PortTest) : (s.setTest p t).clock = s.clock := by cases p <;> rfl
@[simp] theorem State.setTest_legs (s : State) (p : Port) (t : PortTest) : (s.setTest p t).legs = s.legs := by cases p <;> rfl
@[simp] theorem State.setTest_positions (s : State) (p : Port) (t : PortTest) : (s.setTest p t).positions = s.positions := by cases p <;> rfl
@[simp] theorem State.setTest_groups (s : State) (p : Port) (t : PortTest) : (s.setTest p t).groups = s.groups := by cases p <;> rfl
@[simp] theorem State.setTest_supervision (s : State) (p : Port) (t : PortTest) : (s.setTest p t).supervision = s.supervision := by cases p <;> rfl
@[simp] theorem State.setTest_quietMask (s : State) (p : Port) (t : PortTest) : (s.setTest p t).quietMask = s.quietMask := by cases p <;> rfl
@[simp] theorem State.setTest_quietLevel (s : State) (p : Port) (t : PortTest) : (s.setTest p t).quietLevel = s.quietLevel := by cases p <;> rfl
@[simp] theorem State.setTest_sources (s : State) (p : Port) (t : PortTest) : (s.setTest p t).sources = s.sources := by cases p <;> rfl
@[simp] theorem State.setTest_free (s : State) (p : Port) (t : PortTest) : (s.setTest p t).free = s.free := by cases p <;> rfl
@[simp] theorem State.setTest_classMap (s : State) (p : Port) (t : PortTest) : (s.setTest p t).classMap = s.classMap := by cases p <;> rfl
@[simp] theorem State.setTest_areas (s : State) (p : Port) (t : PortTest) : (s.setTest p t).areas = s.areas := by cases p <;> rfl
@[simp] theorem State.setTest_index (s : State) (p : Port) (t : PortTest) : (s.setTest p t).index = s.index := by cases p <;> rfl
@[simp] theorem State.setTest_fetch (s : State) (p : Port) (t : PortTest) : (s.setTest p t).fetch = s.fetch := by cases p <;> rfl
@[simp] theorem State.setTest_reads (s : State) (p : Port) (t : PortTest) : (s.setTest p t).reads = s.reads := by cases p <;> rfl
@[simp] theorem State.setTest_fault (s : State) (p : Port) (t : PortTest) : (s.setTest p t).fault = s.fault := by cases p <;> rfl
@[simp] theorem State.setTest_scan (s : State) (p : Port) (t : PortTest) : (s.setTest p t).scan = s.scan := by cases p <;> rfl
@[simp] theorem State.setTest_work (s : State) (p : Port) (t : PortTest) : (s.setTest p t).work = s.work := by cases p <;> rfl
@[simp] theorem State.setTest_routing (s : State) (p : Port) (t : PortTest) : (s.setTest p t).routing = s.routing := by cases p <;> rfl
@[simp] theorem State.setTest_levels (s : State) (p : Port) (t : PortTest) : (s.setTest p t).levels = s.levels := by cases p <;> rfl
@[simp] theorem State.setTest_echo (s : State) (p : Port) (t : PortTest) : (s.setTest p t).echo = s.echo := by cases p <;> rfl

/-! ## setHeld -/

@[simp] theorem State.setHeld_pending (s : State) (p : Port) (t : Option PortTest) : (s.setHeld p t).pending = s.pending := by cases p <;> rfl
@[simp] theorem State.setHeld_draws (s : State) (p : Port) (t : Option PortTest) : (s.setHeld p t).draws = s.draws := by cases p <;> rfl
@[simp] theorem State.setHeld_hold (s : State) (p : Port) (t : Option PortTest) : (s.setHeld p t).hold = s.hold := by cases p <;> rfl
@[simp] theorem State.setHeld_part (s : State) (p : Port) (t : Option PortTest) : (s.setHeld p t).part = s.part := by cases p <;> rfl
@[simp] theorem State.setHeld_progress (s : State) (p : Port) (t : Option PortTest) : (s.setHeld p t).progress = s.progress := by cases p <;> rfl
@[simp] theorem State.setHeld_cause (s : State) (p : Port) (t : Option PortTest) : (s.setHeld p t).cause = s.cause := by cases p <;> rfl
@[simp] theorem State.setHeld_straps (s : State) (p : Port) (t : Option PortTest) : (s.setHeld p t).straps = s.straps := by cases p <;> rfl
@[simp] theorem State.setHeld_frame (s : State) (p : Port) (t : Option PortTest) : (s.setHeld p t).frame = s.frame := by cases p <;> rfl
@[simp] theorem State.setHeld_link (s : State) (p : Port) (t : Option PortTest) : (s.setHeld p t).link = s.link := by cases p <;> rfl
@[simp] theorem State.setHeld_sync (s : State) (p : Port) (t : Option PortTest) : (s.setHeld p t).sync = s.sync := by cases p <;> rfl
@[simp] theorem State.setHeld_clock (s : State) (p : Port) (t : Option PortTest) : (s.setHeld p t).clock = s.clock := by cases p <;> rfl
@[simp] theorem State.setHeld_legs (s : State) (p : Port) (t : Option PortTest) : (s.setHeld p t).legs = s.legs := by cases p <;> rfl
@[simp] theorem State.setHeld_positions (s : State) (p : Port) (t : Option PortTest) : (s.setHeld p t).positions = s.positions := by cases p <;> rfl
@[simp] theorem State.setHeld_groups (s : State) (p : Port) (t : Option PortTest) : (s.setHeld p t).groups = s.groups := by cases p <;> rfl
@[simp] theorem State.setHeld_supervision (s : State) (p : Port) (t : Option PortTest) : (s.setHeld p t).supervision = s.supervision := by cases p <;> rfl
@[simp] theorem State.setHeld_quietMask (s : State) (p : Port) (t : Option PortTest) : (s.setHeld p t).quietMask = s.quietMask := by cases p <;> rfl
@[simp] theorem State.setHeld_quietLevel (s : State) (p : Port) (t : Option PortTest) : (s.setHeld p t).quietLevel = s.quietLevel := by cases p <;> rfl
@[simp] theorem State.setHeld_sources (s : State) (p : Port) (t : Option PortTest) : (s.setHeld p t).sources = s.sources := by cases p <;> rfl
@[simp] theorem State.setHeld_free (s : State) (p : Port) (t : Option PortTest) : (s.setHeld p t).free = s.free := by cases p <;> rfl
@[simp] theorem State.setHeld_classMap (s : State) (p : Port) (t : Option PortTest) : (s.setHeld p t).classMap = s.classMap := by cases p <;> rfl
@[simp] theorem State.setHeld_areas (s : State) (p : Port) (t : Option PortTest) : (s.setHeld p t).areas = s.areas := by cases p <;> rfl
@[simp] theorem State.setHeld_index (s : State) (p : Port) (t : Option PortTest) : (s.setHeld p t).index = s.index := by cases p <;> rfl
@[simp] theorem State.setHeld_fetch (s : State) (p : Port) (t : Option PortTest) : (s.setHeld p t).fetch = s.fetch := by cases p <;> rfl
@[simp] theorem State.setHeld_reads (s : State) (p : Port) (t : Option PortTest) : (s.setHeld p t).reads = s.reads := by cases p <;> rfl
@[simp] theorem State.setHeld_fault (s : State) (p : Port) (t : Option PortTest) : (s.setHeld p t).fault = s.fault := by cases p <;> rfl
@[simp] theorem State.setHeld_scan (s : State) (p : Port) (t : Option PortTest) : (s.setHeld p t).scan = s.scan := by cases p <;> rfl
@[simp] theorem State.setHeld_work (s : State) (p : Port) (t : Option PortTest) : (s.setHeld p t).work = s.work := by cases p <;> rfl
@[simp] theorem State.setHeld_routing (s : State) (p : Port) (t : Option PortTest) : (s.setHeld p t).routing = s.routing := by cases p <;> rfl
@[simp] theorem State.setHeld_levels (s : State) (p : Port) (t : Option PortTest) : (s.setHeld p t).levels = s.levels := by cases p <;> rfl
@[simp] theorem State.setHeld_echo (s : State) (p : Port) (t : Option PortTest) : (s.setHeld p t).echo = s.echo := by cases p <;> rfl

/-! ## Reads after updates -/

@[simp] theorem State.leg_setLeg_same (s : State) (l : Leg) (r : LegRec) : (s.setLeg l r).leg l = r := by
  simp [State.leg]

theorem State.leg_setLeg_other (s : State) (l k : Leg) (r : LegRec) (h : k ≠ l) : (s.setLeg l r).leg k = s.leg k := by
  have : l.val ≠ k.val := fun e => h (Fin.ext e.symm)
  simp [State.leg, this]

@[simp] theorem State.pos_setPos_same (s : State) (p : Position) (r : PosRec) : (s.setPos p r).pos p = r := by
  simp [State.pos]

theorem State.pos_setPos_other (s : State) (p q : Position) (r : PosRec) (h : q ≠ p) : (s.setPos p r).pos q = s.pos q := by
  have : p.val ≠ q.val := fun e => h (Fin.ext e.symm)
  simp [State.pos, this]

@[simp] theorem State.src_setSrc_same (s : State) (m : Source) (r : SourceRec) : (s.setSrc m r).src m = r := by
  simp [State.src]

theorem State.src_setSrc_other (s : State) (m k : Source) (r : SourceRec) (h : k ≠ m) : (s.setSrc m r).src k = s.src k := by
  have : m.val ≠ k.val := fun e => h (Fin.ext e.symm)
  simp [State.src, this]

@[simp] theorem State.members_setMembers_same (s : State) (g : Group) (ms : List Member) :
    (s.setMembers g ms).members g = ms := by simp [State.members]

theorem State.members_setMembers_other (s : State) (g k : Group) (ms : List Member) (h : k ≠ g) :
    (s.setMembers g ms).members k = s.members k := by
  have : g.val ≠ k.val := fun e => h (Fin.ext e.symm)
  simp [State.members, this]

@[simp] theorem State.stage_setStage_same (s : State) (c : ChangeClass) (st : Stage) : (s.setStage c st).stage c = st := by
  cases c <;> rfl

theorem State.stage_setStage_other (s : State) (c k : ChangeClass) (st : Stage) (h : k ≠ c) :
    (s.setStage c st).stage k = s.stage k := by
  cases c <;> cases k <;> first | rfl | exact absurd rfl h

@[simp] theorem State.test_setTest_same (s : State) (p : Port) (t : PortTest) : (s.setTest p t).test p = t := by
  cases p <;> rfl

theorem State.test_setTest_other (s : State) (p k : Port) (t : PortTest) (h : k ≠ p) : (s.setTest p t).test k = s.test k := by
  cases p <;> cases k <;> first | rfl | exact absurd rfl h

@[simp] theorem State.held_setHeld_same (s : State) (p : Port) (t : Option PortTest) : (s.setHeld p t).held p = t := by
  cases p <;> rfl

theorem State.held_setHeld_other (s : State) (p k : Port) (t : Option PortTest) (h : k ≠ p) :
    (s.setHeld p t).held k = s.held k := by
  cases p <;> cases k <;> first | rfl | exact absurd rfl h

/-! ## Reads of one table after an update of another -/

@[simp] theorem State.leg_setPos (s : State) (p : Position) (r : PosRec) (k : Leg) : (s.setPos p r).leg k = s.leg k := rfl
@[simp] theorem State.leg_setSrc (s : State) (m : Source) (r : SourceRec) (k : Leg) : (s.setSrc m r).leg k = s.leg k := rfl
@[simp] theorem State.leg_setMembers (s : State) (g : Group) (ms : List Member) (k : Leg) : (s.setMembers g ms).leg k = s.leg k := rfl
@[simp] theorem State.leg_setLink (s : State) (l : Link) (k : Leg) : (s.setLink l).leg k = s.leg k := rfl
@[simp] theorem State.leg_setWork (s : State) (w : Work) (k : Leg) : (s.setWork w).leg k = s.leg k := rfl
@[simp] theorem State.leg_setClock (s : State) (c : Clock) (k : Leg) : (s.setClock c).leg k = s.leg k := rfl
@[simp] theorem State.leg_setPending (s : State) (q : List Instr) (k : Leg) : (s.setPending q).leg k = s.leg k := rfl
@[simp] theorem State.leg_setStage (s : State) (c : ChangeClass) (st : Stage) (k : Leg) : (s.setStage c st).leg k = s.leg k := by
  cases c <;> rfl
@[simp] theorem State.leg_setTest (s : State) (p : Port) (t : PortTest) (k : Leg) : (s.setTest p t).leg k = s.leg k := by
  cases p <;> rfl
@[simp] theorem State.leg_setHeld (s : State) (p : Port) (t : Option PortTest) (k : Leg) : (s.setHeld p t).leg k = s.leg k := by
  cases p <;> rfl
@[simp] theorem State.pos_setLeg (s : State) (l : Leg) (r : LegRec) (k : Position) : (s.setLeg l r).pos k = s.pos k := rfl
@[simp] theorem State.pos_setSrc (s : State) (m : Source) (r : SourceRec) (k : Position) : (s.setSrc m r).pos k = s.pos k := rfl
@[simp] theorem State.pos_setMembers (s : State) (g : Group) (ms : List Member) (k : Position) : (s.setMembers g ms).pos k = s.pos k := rfl
@[simp] theorem State.pos_setLink (s : State) (l : Link) (k : Position) : (s.setLink l).pos k = s.pos k := rfl
@[simp] theorem State.pos_setWork (s : State) (w : Work) (k : Position) : (s.setWork w).pos k = s.pos k := rfl
@[simp] theorem State.pos_setClock (s : State) (c : Clock) (k : Position) : (s.setClock c).pos k = s.pos k := rfl
@[simp] theorem State.pos_setPending (s : State) (q : List Instr) (k : Position) : (s.setPending q).pos k = s.pos k := rfl
@[simp] theorem State.pos_setStage (s : State) (c : ChangeClass) (st : Stage) (k : Position) : (s.setStage c st).pos k = s.pos k := by
  cases c <;> rfl
@[simp] theorem State.pos_setTest (s : State) (p : Port) (t : PortTest) (k : Position) : (s.setTest p t).pos k = s.pos k := by
  cases p <;> rfl
@[simp] theorem State.pos_setHeld (s : State) (p : Port) (t : Option PortTest) (k : Position) : (s.setHeld p t).pos k = s.pos k := by
  cases p <;> rfl
@[simp] theorem State.src_setLeg (s : State) (l : Leg) (r : LegRec) (k : Source) : (s.setLeg l r).src k = s.src k := rfl
@[simp] theorem State.src_setPos (s : State) (p : Position) (r : PosRec) (k : Source) : (s.setPos p r).src k = s.src k := rfl
@[simp] theorem State.src_setMembers (s : State) (g : Group) (ms : List Member) (k : Source) : (s.setMembers g ms).src k = s.src k := rfl
@[simp] theorem State.src_setLink (s : State) (l : Link) (k : Source) : (s.setLink l).src k = s.src k := rfl
@[simp] theorem State.src_setWork (s : State) (w : Work) (k : Source) : (s.setWork w).src k = s.src k := rfl
@[simp] theorem State.src_setClock (s : State) (c : Clock) (k : Source) : (s.setClock c).src k = s.src k := rfl
@[simp] theorem State.src_setPending (s : State) (q : List Instr) (k : Source) : (s.setPending q).src k = s.src k := rfl
@[simp] theorem State.src_setStage (s : State) (c : ChangeClass) (st : Stage) (k : Source) : (s.setStage c st).src k = s.src k := by
  cases c <;> rfl
@[simp] theorem State.src_setTest (s : State) (p : Port) (t : PortTest) (k : Source) : (s.setTest p t).src k = s.src k := by
  cases p <;> rfl
@[simp] theorem State.src_setHeld (s : State) (p : Port) (t : Option PortTest) (k : Source) : (s.setHeld p t).src k = s.src k := by
  cases p <;> rfl
@[simp] theorem State.members_setLeg (s : State) (l : Leg) (r : LegRec) (k : Group) : (s.setLeg l r).members k = s.members k := rfl
@[simp] theorem State.members_setPos (s : State) (p : Position) (r : PosRec) (k : Group) : (s.setPos p r).members k = s.members k := rfl
@[simp] theorem State.members_setSrc (s : State) (m : Source) (r : SourceRec) (k : Group) : (s.setSrc m r).members k = s.members k := rfl
@[simp] theorem State.members_setLink (s : State) (l : Link) (k : Group) : (s.setLink l).members k = s.members k := rfl
@[simp] theorem State.members_setWork (s : State) (w : Work) (k : Group) : (s.setWork w).members k = s.members k := rfl
@[simp] theorem State.members_setClock (s : State) (c : Clock) (k : Group) : (s.setClock c).members k = s.members k := rfl
@[simp] theorem State.members_setPending (s : State) (q : List Instr) (k : Group) : (s.setPending q).members k = s.members k := rfl
@[simp] theorem State.members_setStage (s : State) (c : ChangeClass) (st : Stage) (k : Group) : (s.setStage c st).members k = s.members k := by
  cases c <;> rfl
@[simp] theorem State.members_setTest (s : State) (p : Port) (t : PortTest) (k : Group) : (s.setTest p t).members k = s.members k := by
  cases p <;> rfl
@[simp] theorem State.members_setHeld (s : State) (p : Port) (t : Option PortTest) (k : Group) : (s.setHeld p t).members k = s.members k := by
  cases p <;> rfl
@[simp] theorem State.area_setLeg (s : State) (l : Leg) (r : LegRec) (k : AreaNo) : (s.setLeg l r).area k = s.area k := rfl
@[simp] theorem State.area_setPos (s : State) (p : Position) (r : PosRec) (k : AreaNo) : (s.setPos p r).area k = s.area k := rfl
@[simp] theorem State.area_setSrc (s : State) (m : Source) (r : SourceRec) (k : AreaNo) : (s.setSrc m r).area k = s.area k := rfl
@[simp] theorem State.area_setMembers (s : State) (g : Group) (ms : List Member) (k : AreaNo) : (s.setMembers g ms).area k = s.area k := rfl
@[simp] theorem State.area_setLink (s : State) (l : Link) (k : AreaNo) : (s.setLink l).area k = s.area k := rfl
@[simp] theorem State.area_setWork (s : State) (w : Work) (k : AreaNo) : (s.setWork w).area k = s.area k := rfl
@[simp] theorem State.area_setClock (s : State) (c : Clock) (k : AreaNo) : (s.setClock c).area k = s.area k := rfl
@[simp] theorem State.area_setPending (s : State) (q : List Instr) (k : AreaNo) : (s.setPending q).area k = s.area k := rfl
@[simp] theorem State.area_setStage (s : State) (c : ChangeClass) (st : Stage) (k : AreaNo) : (s.setStage c st).area k = s.area k := by
  cases c <;> rfl
@[simp] theorem State.area_setTest (s : State) (p : Port) (t : PortTest) (k : AreaNo) : (s.setTest p t).area k = s.area k := by
  cases p <;> rfl
@[simp] theorem State.area_setHeld (s : State) (p : Port) (t : Option PortTest) (k : AreaNo) : (s.setHeld p t).area k = s.area k := by
  cases p <;> rfl
@[simp] theorem State.stage_setLeg (s : State) (l : Leg) (r : LegRec) (k : ChangeClass) : (s.setLeg l r).stage k = s.stage k := by cases k <;> rfl
@[simp] theorem State.test_setLeg (s : State) (l : Leg) (r : LegRec) (k : Port) : (s.setLeg l r).test k = s.test k := by cases k <;> rfl
@[simp] theorem State.stage_setPos (s : State) (p : Position) (r : PosRec) (k : ChangeClass) : (s.setPos p r).stage k = s.stage k := by cases k <;> rfl
@[simp] theorem State.test_setPos (s : State) (p : Position) (r : PosRec) (k : Port) : (s.setPos p r).test k = s.test k := by cases k <;> rfl
@[simp] theorem State.stage_setSrc (s : State) (m : Source) (r : SourceRec) (k : ChangeClass) : (s.setSrc m r).stage k = s.stage k := by cases k <;> rfl
@[simp] theorem State.test_setSrc (s : State) (m : Source) (r : SourceRec) (k : Port) : (s.setSrc m r).test k = s.test k := by cases k <;> rfl
@[simp] theorem State.stage_setMembers (s : State) (g : Group) (ms : List Member) (k : ChangeClass) : (s.setMembers g ms).stage k = s.stage k := by cases k <;> rfl
@[simp] theorem State.test_setMembers (s : State) (g : Group) (ms : List Member) (k : Port) : (s.setMembers g ms).test k = s.test k := by cases k <;> rfl
@[simp] theorem State.stage_setLink (s : State) (l : Link) (k : ChangeClass) : (s.setLink l).stage k = s.stage k := by cases k <;> rfl
@[simp] theorem State.test_setLink (s : State) (l : Link) (k : Port) : (s.setLink l).test k = s.test k := by cases k <;> rfl
@[simp] theorem State.stage_setWork (s : State) (w : Work) (k : ChangeClass) : (s.setWork w).stage k = s.stage k := by cases k <;> rfl
@[simp] theorem State.test_setWork (s : State) (w : Work) (k : Port) : (s.setWork w).test k = s.test k := by cases k <;> rfl
@[simp] theorem State.stage_setClock (s : State) (c : Clock) (k : ChangeClass) : (s.setClock c).stage k = s.stage k := by cases k <;> rfl
@[simp] theorem State.test_setClock (s : State) (c : Clock) (k : Port) : (s.setClock c).test k = s.test k := by cases k <;> rfl
@[simp] theorem State.stage_setPending (s : State) (q : List Instr) (k : ChangeClass) : (s.setPending q).stage k = s.stage k := by cases k <;> rfl
@[simp] theorem State.test_setPending (s : State) (q : List Instr) (k : Port) : (s.setPending q).test k = s.test k := by cases k <;> rfl
@[simp] theorem State.stage_setTest (s : State) (p : Port) (t : PortTest) (k : ChangeClass) : (s.setTest p t).stage k = s.stage k := by
  cases p <;> cases k <;> rfl
@[simp] theorem State.stage_setHeld (s : State) (p : Port) (t : Option PortTest) (k : ChangeClass) :
    (s.setHeld p t).stage k = s.stage k := by
  cases p <;> cases k <;> rfl
@[simp] theorem State.test_setHeld (s : State) (p : Port) (t : Option PortTest) (k : Port) : (s.setHeld p t).test k = s.test k := by
  cases p <;> cases k <;> rfl
@[simp] theorem State.held_setTest (s : State) (p : Port) (t : PortTest) (k : Port) : (s.setTest p t).held k = s.held k := by
  cases p <;> cases k <;> rfl
@[simp] theorem State.held_setLeg (s : State) (l : Leg) (r : LegRec) (k : Port) : (s.setLeg l r).held k = s.held k := by cases k <;> rfl
@[simp] theorem State.held_setPos (s : State) (p : Position) (r : PosRec) (k : Port) : (s.setPos p r).held k = s.held k := by cases k <;> rfl
@[simp] theorem State.held_setSrc (s : State) (m : Source) (r : SourceRec) (k : Port) : (s.setSrc m r).held k = s.held k := by cases k <;> rfl
@[simp] theorem State.held_setMembers (s : State) (g : Group) (ms : List Member) (k : Port) : (s.setMembers g ms).held k = s.held k := by cases k <;> rfl
@[simp] theorem State.held_setLink (s : State) (l : Link) (k : Port) : (s.setLink l).held k = s.held k := by cases k <;> rfl
@[simp] theorem State.held_setWork (s : State) (w : Work) (k : Port) : (s.setWork w).held k = s.held k := by cases k <;> rfl
@[simp] theorem State.held_setClock (s : State) (c : Clock) (k : Port) : (s.setClock c).held k = s.held k := by cases k <;> rfl
@[simp] theorem State.held_setPending (s : State) (q : List Instr) (k : Port) : (s.setPending q).held k = s.held k := by cases k <;> rfl
@[simp] theorem State.held_setStage (s : State) (c : ChangeClass) (st : Stage) (k : Port) : (s.setStage c st).held k = s.held k := by
  cases c <;> cases k <;> rfl
@[simp] theorem State.test_setStage (s : State) (c : ChangeClass) (st : Stage) (k : Port) : (s.setStage c st).test k = s.test k := by
  cases c <;> cases k <;> rfl

end Sys2Proof.Machine
end

