-- ==== Sys2Proof/Laws/Link.lean ====
section
/-! SUPPORT. What the execution of a request can do (R195): the checks in their order, and the reply at the queue's tail. -/

namespace Sys2Proof.Machine

/-! ## Checks -/

theorem require_eq_ok {p : Prop} [Decidable p] {c : ResultCode} (h : p) : require p c = .ok () := if_pos h

theorem require_eq_error {p : Prop} [Decidable p] {c : ResultCode} (h : ¬ p) : require p c = .error c := if_neg h

theorem require_ok_iff {p : Prop} [Decidable p] {c : ResultCode} {u : Unit} : require p c = .ok u ↔ p := by
  by_cases h : p <;> simp [require, h]

theorem require_error {p : Prop} [Decidable p] {c d : ResultCode} (h : require p c = .error d) : ¬ p ∧ d = c := by
  by_cases hp : p <;> simp_all [require]

@[simp] theorem need_some {α : Type} (a : α) (c : ResultCode) : need (some a) c = .ok a := rfl

@[simp] theorem need_none {α : Type} (c : ResultCode) : need (none : Option α) c = .error c := rfl

theorem need_ok_iff {α : Type} {o : Option α} {c : ResultCode} {a : α} : need o c = .ok a ↔ o = some a := by
  cases o <;> simp [need]

/-- A check in a chain: the rest runs on what it finds, or its refusal stands. -/
theorem except_bind_ok {ε α β : Type} {x : Except ε α} {f : α → Except ε β} {b : β} :
    (x >>= f) = .ok b ↔ ∃ a, x = .ok a ∧ f a = .ok b := by
  cases x <;> simp [bind, Except.bind]

theorem except_bind_error {ε α β : Type} {x : Except ε α} {f : α → Except ε β} {e : ε} :
    (x >>= f) = .error e ↔ x = .error e ∨ ∃ a, x = .ok a ∧ f a = .error e := by
  cases x <;> simp [bind, Except.bind]

/-! ## The head of the queue -/

@[simp] theorem dropRequest_eq (s : State) : dropRequest s = s.setLink { s.link with requests := s.link.requests.tail } := rfl

@[simp] theorem pushReply_eq (r : Request) (c : ResultCode) (b : List Byte) (s : State) :
    pushReply r c b s = s.setLink { s.link with
      replies := s.link.replies ++ [{ kind := r.kind + 0x80#8, tag := r.tag, result := c, body := b }] } := rfl

/-- R195: a request that is due is executed. -/
theorem executeHead_due {kind : Byte} {r : Request} {rest : List Request} {s : State}
    {entry : Request → State → Except ResultCode Taken} (h : HeadDue kind r rest s) :
    executeHead kind entry s = settleAnswer r (dropRequest s) (answer entry r (dropRequest s)) := by
  obtain ⟨h1, h2, h3, h4⟩ := h
  simp only [executeHead, h2]
  exact if_pos ⟨h1, h3, h4⟩

/-- R195: with the reply queue full, or another request at the head, or the part held in reset, nothing changes. -/
theorem executeHead_not_due {kind : Byte} {s : State} {entry : Request → State → Except ResultCode Taken}
    (h : s.hold ≠ none ∨ 8 ≤ s.link.replies.length ∨ s.link.requests = [] ∨
      ∃ r rest, s.link.requests = r :: rest ∧ r.kind ≠ kind) : executeHead kind entry s = s := by
  unfold executeHead
  split
  · rfl
  · rename_i r rest hr
    rcases h with h | h | h | ⟨x, xs, hx, hk⟩
    · exact if_neg (fun c => h c.1)
    · exact if_neg (fun c => absurd c.2.2 (Nat.not_lt.2 h))
    · simp [h] at hr
    · rw [hx] at hr
      cases hr
      exact if_neg (fun c => hk c.2.1)

/-- Everything executeHead can do. -/
theorem executeHead_cases (kind : Byte) (entry : Request → State → Except ResultCode Taken) (s : State) :
    executeHead kind entry s = s ∨ ∃ r rest, HeadDue kind r rest s ∧
      executeHead kind entry s = settleAnswer r (dropRequest s) (answer entry r (dropRequest s)) := by
  rcases hr : s.link.requests with _ | ⟨r, rest⟩
  · exact .inl (executeHead_not_due (.inr (.inr (.inl hr))))
  · by_cases h : HeadDue kind r rest s
    · exact .inr ⟨r, rest, h, executeHead_due h⟩
    · left
      simp only [executeHead, hr]
      exact if_neg (fun c => h ⟨c.1, hr, c.2.1, c.2.2⟩)

/-- R195: a refused request leaves its reply and nothing else. -/
theorem settleAnswer_error {r : Request} {rest : List Request} {s : State} {c : ResultCode}
    (h : s.link.requests = r :: rest) :
    settleAnswer r (dropRequest s) (.error c) = answered r rest c [] s := by
  simp [settleAnswer, answered, State.setLink, h]

/-- R195: a taken request that raises nothing after its reply. -/
theorem settleAnswer_ok (r : Request) (s : State) (t : Taken) (h : t.raises = []) :
    settleAnswer r s (.ok t) = pushReply r t.result t.body t.state := by
  simp [settleAnswer, raiseAll, h]

/-! ## The link controller's checks (R195) -/

theorem answer_unknown {entry : Request → State → Except ResultCode Taken} {r : Request} {s : State}
    (h : bodyFits r.kind.toNat r.body = none) : answer entry r s = .error .badRequest := by
  simp [answer, h, bind, Except.bind]

theorem answer_badLength {entry : Request → State → Except ResultCode Taken} {r : Request} {s : State}
    (h : bodyFits r.kind.toNat r.body = some false) : answer entry r s = .error .badLength := by
  simp [answer, h, bind, Except.bind, require]

theorem answer_wrongState {entry : Request → State → Except ResultCode Taken} {r : Request} {s : State}
    (h : bodyFits r.kind.toNat r.body = some true) (hs : ¬ Serving s) (hk : takenAlways r.kind = false) :
    answer entry r s = .error .wrongState := by
  simp only [takenAlways, Bool.or_eq_false_iff, beq_eq_false_iff_ne] at hk
  simp only [Serving, not_or] at hs
  simp [answer, h, bind, Except.bind, require, hs.1, hs.2, hk.1.1, hk.1.2, hk.2]

theorem answer_taken {entry : Request → State → Except ResultCode Taken} {r : Request} {s : State}
    (h : bodyFits r.kind.toNat r.body = some true) (hs : Serving s ∨ takenAlways r.kind = true) :
    answer entry r s = entry r s := by
  have hp : s.part = .standby ∨ s.part = .running ∨ r.kind = 0x01#8 ∨ r.kind = 0x02#8 ∨ r.kind = 0x05#8 := by
    rcases hs with (h | h) | h
    · exact .inl h
    · exact .inr (.inl h)
    · simp only [takenAlways, Bool.or_eq_true, beq_iff_eq] at h
      tauto
  simp [answer, h, bind, Except.bind, require, hp]

/-- Whatever an entry can do is what a taken answer can do. -/
theorem answer_ok {entry : Request → State → Except ResultCode Taken} {r : Request} {s : State} {t : Taken}
    (h : answer entry r s = .ok t) : entry r s = .ok t := by
  simp only [answer, except_bind_ok] at h
  obtain ⟨_, _, _, _, _, _, h⟩ := h
  exact h

end Sys2Proof.Machine
end

