-- ==== Sys2Proof/Laws/Changes.lean ====
section
/-! SUPPORT. Changes act on the tables alone (R162, R163): the link never decides what a change does, so a check against the
projected state is the same before and after the request has left the queue. -/

namespace Sys2Proof.Machine

/-- The link plays no part in a change. -/
theorem applyOp_setLink (op : ChangeOp) (s : State) (k : Link) : applyOp op (s.setLink k) = (applyOp op s).setLink k := by
  cases op with
  | legClose l =>
    by_cases h : (s.leg l).state = .closed
    · simp [applyOp, closeLeg, h]
    · rcases hg : (s.leg l).group with _ | g <;> simp only [applyOp, closeLeg, State.leg_setLink, h, hg, if_false] <;> rfl
  | groupAdd g m => cases m <;> rfl
  | groupRemove g m => cases m <;> rfl
  | hold l m =>
    simp only [applyOp, holdLeg, State.leg_setLink]
    split <;> rfl
  | resume l =>
    simp only [applyOp, resumeLeg, State.leg_setLink]
    split <;> rfl
  | mute p on => rfl
  | supervise sup a mode coach =>
    simp only [applyOp, putSupervision]
    split
    · rename_i h
      rw [if_pos (by simpa [asSupervisor] using h)]
      rfl
    · rename_i h
      rw [if_neg (by simpa [asSupervisor] using h)]
      rfl
  | unsupervise sup => rfl
  | sendGain t gain => cases t <;> rfl
  | micSet p trim offset floor sidetone => rfl
  | echoSet l bulk shift nlp =>
    by_cases h : (s.leg l).state = .closed
    · simp [applyOp, setEcho, h]
    · cases bulk <;> simp only [applyOp, setEcho, State.leg_setLink, h, if_false] <;> rfl

theorem applyAll_setLink (cs : List Change) (s : State) (k : Link) :
    applyAll cs (s.setLink k) = (applyAll cs s).setLink k := by
  induction cs generalizing s with
  | nil => rfl
  | cons c cs ih =>
    simp only [applyAll, List.foldl_cons] at ih ⊢
    rw [applyOp_setLink, ih]

/-- R163: the projected state is formed from the tables. -/
@[simp] theorem projected_setLink (s : State) (k : Link) : projected (s.setLink k) = (projected s).setLink k := by
  simp only [projected, State.setLink_levels, State.setLink_echo, State.setLink_routing]
  rw [applyAll_setLink, applyAll_setLink, applyAll_setLink]

/-- R163: a staged request with room in its class's list: the change joins the tail. -/
theorem stageChange_room {r : Request} {op : ChangeOp} {fields : State → List Byte} {s : State}
    (h : (s.stage op.cls).list.length < 16) :
    stageChange r op fields s =
      let st := s.stage op.cls
      let t := s.setStage op.cls { st with list := st.list ++ [{ tag := r.tag, arrival := s.frame, op := op }] }
      .ok { body := u8 (st.list.length + 1) ++ fields t, state := t } := by
  simp [stageChange, require, h, bind, Except.bind, pure, Except.pure]

/-- R15: a staged request that finds its class's list full. -/
theorem stageChange_full {r : Request} {op : ChangeOp} {fields : State → List Byte} {s : State}
    (h : 16 ≤ (s.stage op.cls).list.length) : stageChange r op fields s = .error .full := by
  have h' : ¬ (s.stage op.cls).list.length < 16 := Nat.not_lt.2 h
  simp [stageChange, require, h', bind, Except.bind]

end Sys2Proof.Machine
end

