-- ==== Sys2Proof/Laws/Ops.lean ====
section
/-! SUPPORT. What each shared operation can do: notices, the fetch list, the endings of prompts, the index scan's start, and the
clock's marks. -/

namespace Sys2Proof.Machine

/-! ## Fixed tables -/

@[simp] theorem vmap_get {α β : Type} {n : Nat} (f : α → β) (v : Vector α n) (i : Fin n) : (vmap f v)[i] = f v[i] := by
  simp [vmap]

@[simp] theorem vgen_get {β : Type} {n : Nat} (f : Fin n → β) (i : Fin n) : (vgen n f)[i] = f i := by
  simp [vgen]

/-! ## Notices (R200) -/

/-- A raise changes the notice queue and the read in progress, and nothing else. -/
theorem raise_eq (k : Nat) (d : Detail) (s : State) : raise k d s = s.setLink { s.link with
    notices := raiseIn s.frame k d s.link.notices
    reading := s.link.reading.map (noteRaise k d s.link.notices) } := rfl

/-- R200: after a raise its entry is in the queue, with its stamp and detail. -/
theorem raiseIn_mem (stamp : Stamp) (k : Nat) (d : Detail) (ns : List Notice) :
    ∃ n ∈ raiseIn stamp k d ns, n.isFor k d = true ∧ n.stamp = stamp ∧ n.detail = d := by
  induction ns with
  | nil => exact ⟨{ subject := k, count := 1, stamp := stamp, detail := d }, by simp [raiseIn], by simp [Notice.isFor], rfl, rfl⟩
  | cons n ns ih =>
    by_cases h : n.isFor k d = true
    · refine ⟨{ n with count := satInc 255 n.count, stamp := stamp, detail := d }, by simp [raiseIn, h], ?_, rfl, rfl⟩
      simpa [Notice.isFor] using (show n.subject = k by simp [Notice.isFor] at h; exact h.2)
    · obtain ⟨m, hm, h1⟩ := ih
      refine ⟨m, ?_, h1⟩
      simp only [raiseIn, if_neg h]
      exact List.mem_cons_of_mem _ hm

/-- R200: a raise folds into its entry in place, or joins the tail: the queue grows by one exactly when it had none. -/
theorem raiseIn_length (stamp : Stamp) (k : Nat) (d : Detail) (ns : List Notice) :
    (raiseIn stamp k d ns).length = if ns.any (fun n => n.isFor k d) then ns.length else ns.length + 1 := by
  induction ns with
  | nil => rfl
  | cons n ns ih =>
    by_cases h : n.isFor k d = true
    · simp [raiseIn, h]
    · have h' : n.isFor k d = false := by simpa using h
      by_cases ha : ns.any (fun n => n.isFor k d) = true <;> simp [raiseIn, h', ih, ha]

theorem insertAt_perm {α : Type} (i : Nat) (x : α) (l : List α) : (insertAt i x l).Perm (x :: l) := by
  induction l generalizing i with
  | nil => cases i <;> exact List.Perm.refl _
  | cons y ys ih =>
    cases i with
    | zero => exact List.Perm.refl _
    | succ i => exact ((ih i).cons y).trans (List.Perm.swap x y ys)

/-- Any order that a code picks is an order of the same list. -/
theorem shuffle_perm {α : Type} (code : Nat) (l : List α) : (shuffle code l).Perm l := by
  induction l generalizing code with
  | nil => exact List.Perm.refl _
  | cons x xs ih => exact (insertAt_perm _ _ _).trans ((ih _).cons x)

theorem starvedBeforeLow_perm (ns : List Notice) : (starvedBeforeLow ns).Perm ns := by
  induction ns with
  | nil => exact List.Perm.refl _
  | cons n ns ih =>
    have hc : starvedBeforeLow (n :: ns) =
        (match n.detail with
        | .streamLow _ =>
          match (starvedBeforeLow ns).find? (fun k => k.detail.kind == 0xC6 && k.subject == n.subject) with
          | some k => k :: n :: (starvedBeforeLow ns).erase k
          | none => n :: starvedBeforeLow ns
        | _ => n :: starvedBeforeLow ns) := rfl
    rw [hc]
    split
    · split
      · rename_i k hk
        have hm := List.mem_of_find?_eq_some hk
        exact (List.Perm.swap n k _).trans (((List.perm_cons_erase hm).symm.trans ih).cons n)
      · exact ih.cons n
    · exact ih.cons n

/-- R200: ordering the new entries keeps every entry. -/
theorem orderNew_perm (old : Nat) (s : State) : (orderNew old s).link.notices.Perm s.link.notices := by
  have h : (orderNew old s).link.notices = s.link.notices.take old ++
      starvedBeforeLow (shuffle (Config.noticeOrder s.draws) (s.link.notices.drop old)) := rfl
  rw [h]
  exact ((List.Perm.refl _).append ((starvedBeforeLow_perm _).trans (shuffle_perm _ _))).trans
    (by rw [List.take_append_drop])

/-- Ordering the new entries changes the notice queue and nothing else. -/
theorem orderNew_eq (old : Nat) (s : State) :
    orderNew old s = s.setLink { s.link with notices := (orderNew old s).link.notices } := rfl

/-! ## Prompt endings (R103, R114) -/

@[simp] theorem State.setPos_setPos (s : State) (p : Position) (a b : PosRec) :
    (s.setPos p a).setPos p b = s.setPos p b := by simp [State.setPos]

/-- R103: an ended prompt joins the done list's tail with the frame counter's stamp, and PROMPT_DONE is raised. -/
theorem finishPrompt_eq (p : Position) (res : PromptResult) (r : PromptRec) (s : State) :
    finishPrompt p res r s = raise p.val (.promptDone ((s.pos p).done.length + 1)) (s.setPos p { s.pos p with
      done := (s.pos p).done ++ [{ r with state := .done, result := some res, stamp := s.frame }] }) := by
  simp [finishPrompt]

/-- R114: a pending prompt leaves its place in the queue for the done list. -/
theorem endPending_eq (p : Position) (res : PromptResult) (r : PromptRec) (s : State) :
    endPending p res r s = raise p.val (.promptDone ((s.pos p).done.length + 1)) (s.setPos p { s.pos p with
      queue := (s.pos p).queue.filter (fun x => x.handle != r.handle)
      done := (s.pos p).done ++ [{ r with state := .done, result := some res, stamp := s.frame }] }) := by
  simp [endPending, finishPrompt_eq]

/-- R114: the slot's prompt leaves it for the done list, and its fetch item is given up. -/
theorem endSlot_eq (p : Position) (res : PromptResult) (s : State) (pl : Playing) (h : (s.pos p).slot = some pl) :
    endSlot p res s = raise p.val (.promptDone ((s.pos p).done.length + 1)) ((withdraw (.prompt p) s).setPos p { s.pos p with
      slot := none
      done := (s.pos p).done ++ [{ pl.prompt with state := .done, result := some res, stamp := s.frame }] }) := by
  have hw : (withdraw (.prompt p) (s.setPos p { s.pos p with slot := none })) =
      (withdraw (.prompt p) s).setPos p { s.pos p with slot := none } := rfl
  simp [endSlot, h, finishPrompt_eq, hw]
  rfl

theorem endSlot_none (p : Position) (res : PromptResult) (s : State) (h : (s.pos p).slot = none) : endSlot p res s = s := by
  simp [endSlot, h]

/-! ## The fetch list (R128) -/

/-- R128: a withdrawn requester has no item left, and the others keep theirs in their order. -/
theorem withdraw_fetch (r : Requester) (s : State) :
    (withdraw r s).fetch = s.fetch.filter (fun it => it.requester != r) := rfl

theorem placeItem_fetch (it : FetchItem) (s : State) : (placeItem it s).fetch = s.fetch ++ [it] := rfl

/-! ## The index scan (R134) -/

/-- R134: what the start of a scan changes. -/
theorem startScan_eq (s : State) : startScan s = { s with
    index := keepEntries (fun e => e.origin != Origin.catalogue) s.index
    scan := match nextArea s.areas 0 with
      | some a => { running := true, area := a, chunk := 0, outstanding := true, counts := blankCounts }
      | none => { running := true, area := 0, chunk := 0, outstanding := false, counts := blankCounts }
    fetch := match nextArea s.areas 0 with
      | some a => s.fetch ++ [chunkItem a 0]
      | none => s.fetch } := by
  simp only [startScan]
  cases nextArea s.areas 0 <;> rfl

/-! ## Marks (R178) -/

/-- A mark of a period already carried moves the clock and nothing else. -/
theorem markPeriod_carried (kind : MarkKind) (s : State) (hd : s.clock.due = none) (hc : s.clock.carried = true) :
    markPeriod kind s = s.setClock (beginPeriod kind s.clock) := by simp [markPeriod, hd, hc]

/-- While a frame start is due no mark comes. -/
theorem markPeriod_due (kind : MarkKind) (s : State) (hd : s.clock.due.isSome = true) : markPeriod kind s = s := by
  simp [markPeriod, hd]

end Sys2Proof.Machine
end

