-- ==== Sys2Proof/Laws/Steps.lean ====
section
/-! SUPPORT. What each step of a frame start can do: what it leaves as it is, what it reads, and the notices it raises. -/

namespace Sys2Proof.Machine

/-! ## Folds -/

/-- What one round keeps, every round keeps. -/
theorem foldl_keeps {σ α γ : Type} {f : σ → α → σ} {g : σ → γ} (h : ∀ s a, g (f s a) = g s) (l : List α) (s : σ) :
    g (l.foldl f s) = g s := by
  induction l generalizing s with
  | nil => rfl
  | cons a l ih => rw [List.foldl_cons, ih, h]

/-! ## Raises (R200) -/

@[simp] theorem raiseAll_nil (s : State) : raiseAll [] s = s := rfl

@[simp] theorem raiseAll_cons (x : Nat × Detail) (rs : List (Nat × Detail)) (s : State) :
    raiseAll (x :: rs) s = raiseAll rs (raise x.1 x.2 s) := rfl

theorem raiseAll_append (rs xs : List (Nat × Detail)) (s : State) : raiseAll (rs ++ xs) s = raiseAll xs (raiseAll rs s) := by
  simp [raiseAll, List.foldl_append]

/-- Raises change the link and nothing else. -/
theorem raiseAll_eq (rs : List (Nat × Detail)) (s : State) : raiseAll rs s = s.setLink (raiseAll rs s).link := by
  induction rs generalizing s with
  | nil => rfl
  | cons x rs ih => rw [raiseAll_cons, ih]; rfl

@[simp] theorem raiseAll_frame (rs : List (Nat × Detail)) (s : State) : (raiseAll rs s).frame = s.frame := by
  rw [raiseAll_eq]; rfl

/-- What raises leave in the link rests on the link and the frame counter alone. -/
theorem raiseAll_congr (rs : List (Nat × Detail)) {s t : State} (h : s.link = t.link) (hf : s.frame = t.frame) :
    (raiseAll rs s).link = (raiseAll rs t).link := by
  induction rs generalizing s t with
  | nil => exact h
  | cons x rs ih =>
    refine ih ?_ (by simpa [raise_eq] using hf)
    simp [raise_eq, State.setLink, h, hf]

/-- From s to t the frame counter stands and the link has taken raises of these kinds. -/
def Raises (ks : List Nat) (s t : State) : Prop :=
  t.frame = s.frame ∧ ∃ rs : List (Nat × Detail), (∀ x ∈ rs, x.2.kind ∈ ks) ∧ t.link = (raiseAll rs s).link

theorem Raises.none {ks : List Nat} {s t : State} (hf : t.frame = s.frame) (h : t.link = s.link) : Raises ks s t :=
  ⟨hf, [], by simp, h⟩

theorem Raises.one {ks : List Nat} {s t : State} (k : Nat) (d : Detail) (hk : d.kind ∈ ks) (hf : t.frame = s.frame)
    (h : t.link = s.link) : Raises ks s (raise k d t) :=
  ⟨by simpa [raise_eq] using hf, [(k, d)], by simpa using hk, (raiseAll_congr [(k, d)] h hf)⟩

theorem Raises.trans {ks : List Nat} {s t u : State} (h : Raises ks s t) (h' : Raises ks t u) : Raises ks s u := by
  obtain ⟨f, rs, hk, hl⟩ := h
  obtain ⟨f', xs, hk', hl'⟩ := h'
  refine ⟨f'.trans f, rs ++ xs, ?_, ?_⟩
  · intro x hx
    rcases List.mem_append.1 hx with h | h
    · exact hk x h
    · exact hk' x h
  · rw [hl', raiseAll_append]
    exact raiseAll_congr xs hl (by rw [f, raiseAll_frame])

theorem Raises.mono {ks js : List Nat} {s t : State} (h : Raises ks s t) (hs : ks ⊆ js) : Raises js s t := by
  obtain ⟨f, rs, hk, hl⟩ := h
  exact ⟨f, rs, fun x hx => hs (hk x hx), hl⟩

theorem Raises.fold {ks : List Nat} {α : Type} {f : State → α → State} (h : ∀ s a, Raises ks s (f s a)) (l : List α)
    (s : State) : Raises ks s (l.foldl f s) := by
  induction l generalizing s with
  | nil => exact .none rfl rfl
  | cons a l ih => exact (h s a).trans (ih _)

/-- R200: raises leave the queues, the counts and the keys of the entries that stood before. -/
theorem raiseIn_keys (stamp : Stamp) (k : Nat) (d : Detail) (ns : List Notice) :
    ((raiseIn stamp k d ns).take ns.length).map (fun n => (n.detail.kind, n.subject)) =
      ns.map (fun n => (n.detail.kind, n.subject)) ∧ ns.length ≤ (raiseIn stamp k d ns).length := by
  induction ns with
  | nil => simp [raiseIn]
  | cons n ns ih =>
    by_cases h : n.isFor k d = true
    · simp [raiseIn, h]
      simp [Notice.isFor] at h
      exact h.1.symm
    · simp [raiseIn, h, ih.1, ih.2]

/-- R200: raises change the notices and the read in progress; the entries that stood before keep their places and keys. -/
theorem raiseAll_link (rs : List (Nat × Detail)) (s : State) :
    (∀ ns r, ({ (raiseAll rs s).link with notices := ns, reading := r } : Link) =
        { s.link with notices := ns, reading := r }) ∧
    s.link.notices.length ≤ (raiseAll rs s).link.notices.length ∧
    ((raiseAll rs s).link.notices.take s.link.notices.length).map (fun n => (n.detail.kind, n.subject)) =
      s.link.notices.map (fun n => (n.detail.kind, n.subject)) := by
  induction rs generalizing s with
  | nil => simp
  | cons x rs ih =>
    obtain ⟨h1, h2, h3⟩ := ih (raise x.1 x.2 s)
    obtain ⟨g1, g2⟩ := raiseIn_keys s.frame x.1 x.2 s.link.notices
    have hn : (raise x.1 x.2 s).link.notices = raiseIn s.frame x.1 x.2 s.link.notices := rfl
    rw [hn] at h2 h3
    refine ⟨fun ns r => by rw [raiseAll_cons, h1]; rfl, g2.trans h2, ?_⟩
    have h4 := congrArg (List.take s.link.notices.length) h3
    rw [← List.map_take, ← List.map_take, List.take_take, Nat.min_eq_left g2] at h4
    rw [raiseAll_cons, h4, g1]

/-- R200: an entry no raise concerns stays as it is. -/
theorem raiseAll_keeps {ks : List Nat} (rs : List (Nat × Detail)) (s : State) (n : Notice) (h : n ∈ s.link.notices)
    (hr : ∀ x ∈ rs, x.2.kind ∈ ks) (hn : n.detail.kind ∉ ks) : n ∈ (raiseAll rs s).link.notices := by
  induction rs generalizing s with
  | nil => exact h
  | cons x rs ih =>
    rw [raiseAll_cons]
    refine ih _ ?_ (fun y hy => hr y (List.mem_cons_of_mem _ hy))
    have hk : n.isFor x.1 x.2 = false := by
      have := hr x List.mem_cons_self
      simp only [Notice.isFor, Bool.and_eq_false_imp, beq_iff_eq]
      intro he; exact absurd (he ▸ this) hn
    show n ∈ raiseIn s.frame x.1 x.2 s.link.notices
    generalize s.link.notices = ns at h
    induction ns with
    | nil => cases h
    | cons m ms ihm =>
      by_cases hm : m.isFor x.1 x.2 = true
      · simp only [raiseIn, hm, if_true]
        rcases List.mem_cons.1 h with h | h
        · subst h; simp [hk] at hm
        · exact List.mem_cons_of_mem _ h
      · simp only [raiseIn, hm]
        rcases List.mem_cons.1 h with h | h
        · subst h; exact List.mem_cons_self
        · exact List.mem_cons_of_mem _ (ihm h)

theorem Raises.keeps {ks : List Nat} {s t : State} (h : Raises ks s t) (n : Notice) (hn : n ∈ s.link.notices)
    (hk : n.detail.kind ∉ ks) : n ∈ t.link.notices := by
  obtain ⟨_, rs, hr, hl⟩ := h
  rw [hl]; exact raiseAll_keeps rs s n hn hr hk

/-! ## What each step leaves as it is -/

/-- What the canceller bank, the ramps and the grants may change: legs, work and link. -/
def hideLegs (s : State) : State :=
    { s with legs := Vector.replicate 24 blankLeg, work := { s.work with list := [] }, link := blankLink }

theorem hideLegs_setLeg (s : State) (l : Leg) (r : LegRec) : hideLegs (s.setLeg l r) = hideLegs s := rfl

theorem hideLegs_raise (s : State) (k : Nat) (d : Detail) : hideLegs (raise k d s) = hideLegs s := rfl

theorem hideLegs_head (s : State) (l : Leg) : hideLegs (s.headOfList l) = hideLegs s := rfl

theorem hideLegs_only {s t : State} (h : hideLegs t = hideLegs s) :
    ({ t with legs := s.legs, work := { t.work with list := s.work.list }, link := s.link } : State) = s := by
  have := congrArg (fun u : State => ({ u with legs := s.legs, work := { u.work with list := s.work.list }, link := s.link } : State)) h
  exact this

theorem settleDebt_hide (l : Leg) (s : State) : hideLegs (settleDebt l s) = hideLegs s := by
  simp only [settleDebt]; split <;> rfl

/-- R154, R155: the settling of the opening part changes the legs, the adaptation list, the fetch list, the reads and the link alone. -/
theorem settleOpening_only (o : Opening) (s : State) :
    ({ settleOpening o s with
      legs := s.legs, work := { (settleOpening o s).work with list := s.work.list }, link := s.link, fetch := s.fetch
      reads := s.reads } : State) = s := by
  have h : hideLegs (settleOpening o s) =
      { hideLegs s with fetch := o.fetch, reads := s.reads ++ o.served.map (openRead s) } := by
    simp only [settleOpening]
    rw [foldl_keeps (g := hideLegs) (fun s l => settleDebt_hide l s)]
    have h1 : ∀ (s : State), hideLegs (s.work.list.foldl (fun s l => clearGrant l s) s) = hideLegs s :=
        fun s => foldl_keeps (g := hideLegs) (f := fun s l => clearGrant l s) (fun s l => rfl) _ _
    have h2 : ∀ (l : List Leg) (s : State), hideLegs (l.foldl (fun s l => grantLeg l s) s) = hideLegs s :=
        fun l s => foldl_keeps (g := hideLegs) (f := fun s l => grantLeg l s) (fun s l => rfl) _ _
    have h3 := (h2 o.granted (s.work.list.foldl (fun s l => clearGrant l s) s)).trans (h1 s)
    generalize o.granted.foldl (fun s l => grantLeg l s) (s.work.list.foldl (fun s l => clearGrant l s) s) = t at h3
    have ha : t.areas = s.areas := (congrArg State.areas h3 :)
    have hr : t.reads = s.reads := (congrArg State.reads h3 :)
    have ho : openRead (t.setWork { t.work with list := t.work.list.filter (fun l => !o.granted.contains l) ++ o.granted }) =
        openRead s := by
      funext it; simp [openRead, State.area, ha]
    have : ({ hideLegs t with fetch := o.fetch, reads := s.reads ++ o.served.map (openRead s) } : State) =
        { hideLegs s with fetch := o.fetch, reads := s.reads ++ o.served.map (openRead s) } := by rw [h3]
    rw [← this, ← ho, ← hr]; rfl
  have := congrArg (fun u : State => ({ u with legs := s.legs, work := { u.work with list := s.work.list }, link := s.link, fetch := s.fetch, reads := s.reads } : State)) h
  exact this

/-- R154: what the opening part did not serve stays in the fetch list. -/
theorem settleOpening_fetch (o : Opening) (s : State) : (settleOpening o s).fetch = o.fetch := by
  simp only [settleOpening]
  rw [foldl_keeps (g := State.fetch) (fun s l => by have := settleDebt_hide l s; exact (congrArg State.fetch this :))]

/-- R129, R154: what the opening part served is read, in the order of service. -/
theorem settleOpening_reads (o : Opening) (s : State) : (settleOpening o s).reads = s.reads ++ o.served.map (openRead s) := by
  simp only [settleOpening]
  rw [foldl_keeps (g := State.reads) (fun s l => by have := settleDebt_hide l s; exact (congrArg State.reads this :))]
  have h3 : hideLegs (o.granted.foldl (fun s l => grantLeg l s) (s.work.list.foldl (fun s l => clearGrant l s) s)) =
      hideLegs s :=
    (foldl_keeps (g := hideLegs) (f := fun s l => grantLeg l s) (fun s l => rfl) _ _).trans
      (foldl_keeps (g := hideLegs) (f := fun s l => clearGrant l s) (fun s l => rfl) _ _)
  generalize o.granted.foldl (fun s l => grantLeg l s) (s.work.list.foldl (fun s l => clearGrant l s) s) = t at h3
  have ha : t.areas = s.areas := (congrArg State.areas h3 :)
  have hr : t.reads = s.reads := (congrArg State.reads h3 :)
  have ho : openRead (t.setWork { t.work with list := t.work.list.filter (fun l => !o.granted.contains l) ++ o.granted }) =
      openRead s := by
    funext it; simp [openRead, State.area, ha]
  show t.reads ++ o.served.map
      (openRead (t.setWork { t.work with list := t.work.list.filter (fun l => !o.granted.contains l) ++ o.granted })) = _
  rw [hr, ho]

theorem settleDebt_raises (l : Leg) (s : State) : Raises [0xC8] s (settleDebt l s) := by
  simp only [settleDebt]
  split
  · exact .one _ _ (by simp [Detail.kind]) rfl rfl
  · exact .none rfl rfl

/-- R157: the opening part raises ADAPT_STARVED alone. -/
theorem settleOpening_raises (o : Opening) (s : State) : Raises [0xC8] s (settleOpening o s) := by
  have h3 : hideLegs (o.granted.foldl (fun s l => grantLeg l s) (s.work.list.foldl (fun s l => clearGrant l s) s)) =
      hideLegs s :=
    (foldl_keeps (g := hideLegs) (f := fun s l => grantLeg l s) (fun s l => rfl) _ _).trans
      (foldl_keeps (g := hideLegs) (f := fun s l => clearGrant l s) (fun s l => rfl) _ _)
  have h4 : (o.granted.foldl (fun s l => grantLeg l s) (s.work.list.foldl (fun s l => clearGrant l s) s)).link = s.link :=
    (foldl_keeps (g := State.link) (f := fun s l => grantLeg l s) (fun s l => rfl) _ _).trans
      (foldl_keeps (g := State.link) (f := fun s l => clearGrant l s) (fun s l => rfl) _ _)
  simp only [settleOpening]
  have h5 := (congrArg State.frame h3 :)
  have h6 : (o.granted.foldl (fun s l => grantLeg l s) (s.work.list.foldl (fun s l => clearGrant l s) s)).frame = s.frame :=
      h5
  generalize o.granted.foldl (fun s l => grantLeg l s) (s.work.list.foldl (fun s l => clearGrant l s) s) = t at h4 h6
  exact Raises.trans (t :=
      { t.setWork { t.work with list := t.work.list.filter (fun l => !o.granted.contains l) ++ o.granted } with
    fetch := o.fetch, reads := t.reads ++ o.served.map
        (openRead (t.setWork { t.work with list := t.work.list.filter (fun l => !o.granted.contains l) ++ o.granted })) })
    (Raises.none h6 h4) (Raises.fold (fun s l => settleDebt_raises l s) _ _)

/-! ## The hold ramps (R76) -/

/-- R76: leg l with its ramp raised where the leg was held and stays held. -/
def ramped (before : State) (fresh : List Leg) (l : Leg) (r : LegRec) : LegRec :=
  { r with ramp := if r.state = .held ∧ (before.leg l).state = .held ∧ l ∉ fresh then min 32768 (r.ramp + 2048) else r.ramp }

/-- R76: the ramp step changes the legs alone. -/
theorem rampStep_only (before : State) (fresh : List Leg) (s : State) :
    ({ rampStep before fresh s with legs := s.legs } : State) = s := by
  have h : (fun t : State => ({ t with legs := s.legs } : State)) (rampStep before fresh s) =
      (fun t : State => ({ t with legs := s.legs } : State)) s := by
    simp only [rampStep]
    exact foldl_keeps (g :=
        fun t : State => ({ t with legs := s.legs } : State)) (fun t l => by simp only [raiseRamp]; split <;> rfl) _ _
  exact h

/-- R76: the ramp step raises the ramp of each leg that stays held. -/
theorem rampStep_leg (before : State) (fresh : List Leg) (s : State) (l : Leg) : (rampStep before fresh s).leg l =
   ramped before fresh l (s.leg l) := by
  have key : ∀ (ls : List Leg) (hn : ls.Nodup) (s : State), (ls.foldl (raiseRamp before fresh) s).leg l =
     if l ∈ ls then ramped before fresh l (s.leg l) else s.leg l := by
    intro ls
    induction ls with
    | nil => intro _ s; simp
    | cons a ls ih =>
      intro hn s
      obtain ⟨h1, h2⟩ := List.nodup_cons.1 hn
      rw [List.foldl_cons, ih h2]
      have hr : (raiseRamp before fresh s a).leg l = if l = a then ramped before fresh l (s.leg l) else s.leg l := by
        simp only [raiseRamp]
        by_cases hla : l = a
        · subst hla
          split
          · next h => rw [State.leg_setLeg_same, if_pos rfl, ramped, if_pos h]
          · next h => rw [if_pos rfl, ramped, if_neg h]
        · split <;> simp [State.leg_setLeg_other _ _ _ _ hla]
      by_cases hla : l = a
      · subst hla; simp [h1, hr]
      · simp [hla, hr]
  have := key (List.finRange 24) (List.nodup_finRange 24) s
  simpa [List.mem_finRange, rampStep] using this

/-! ## The cancellers (R40) -/

theorem divergenceResetOf_hide (l : Leg) (s : State) : hideLegs (divergenceResetOf l s) = hideLegs s := rfl

theorem testDivergence_hide (l : Leg) (s : State) : hideLegs (testDivergence l s) = hideLegs s := by
  simp only [testDivergence]; split <;> rfl

theorem echoLeg_hide (e : FrameEnd) (a : State × List (List Sample)) (l : Leg) : hideLegs (echoLeg e a l).1 = hideLegs a.1 :=
    by
  simp only [echoLeg]
  split <;> first | rfl | (simp only [testDivergence_hide]; rfl)

theorem echoStep_hide (e : FrameEnd) (s : State) : hideLegs (echoStep e s).1 = hideLegs s :=
  foldl_keeps (g := fun a : State × List (List Sample) => hideLegs a.1) (fun a l => echoLeg_hide e a l) _ _

/-- R40, R49: the cancellers change the legs, the adaptation list and the link alone. -/
theorem echoStep_only (e : FrameEnd) (s : State) :
    ({ (echoStep e s).1 with legs := s.legs, work := { (echoStep e s).1.work with list := s.work.list }, link := s.link } : State) = s :=
  hideLegs_only (echoStep_hide e s)

theorem testDivergence_raises (l : Leg) (s : State) : Raises [0xC9] s (testDivergence l s) := by
  simp only [testDivergence]
  split
  · exact .one _ _ (by simp [Detail.kind]) rfl rfl
  · exact .none rfl rfl

theorem pair_fold_raises {ks : List Nat} {α β : Type} {f : State × β → α → State × β} (h : ∀ a l, Raises ks a.1 (f a l).1)
    (ls : List α) (a : State × β) :
    Raises ks a.1 (ls.foldl f a).1 := by
  induction ls generalizing a with
  | nil => exact .none rfl rfl
  | cons l ls ih => exact (h a l).trans (ih _)

/-- R49: the cancellers raise DIVERGENCE_RESET alone. -/
theorem echoStep_raises (e : FrameEnd) (s : State) : Raises [0xC9] s (echoStep e s).1 := by
  refine pair_fold_raises (fun a l => ?_) _ (s, [])
  simp only [echoLeg]
  split
  · exact .none rfl rfl
  · exact .none rfl rfl
  · exact Raises.trans (t := a.1.setLeg l (echoFrame (a.1.leg l) _).1) (.none rfl rfl) (testDivergence_raises l _)

/-- R40, R49: what one leg's canceller leaves of its record. -/
def echoed (e : FrameEnd) (src : State) (r : LegRec) : LegRec :=
  match r.state, r.slot with
  | .closed, _ => r
  | _, none => r
  | _, some k =>
    let f := (echoFrame r (netInbound e k src)).1
    if 16 ≤ f.ec.divergence then { f with ec := { clearTaps f.ec with
      hangover := 0, divergence := 0, divergenceResets := satInc 65535 f.ec.divergenceResets } }
    else f

/-- R40: the frame leg r gives the mix. -/
def echoOut (e : FrameEnd) (src : State) (r : LegRec) : List Sample :=
  match r.state, r.slot with
  | .closed, _ => silence
  | _, none => silence
  | _, some k => (echoFrame r (netInbound e k src)).2

theorem netInbound_ports {s t : State} (h : s.ports = t.ports) (e : FrameEnd) (k : NetSlot) : netInbound e k s =
    netInbound e k t := by
  cases e <;> simp [netInbound, h]

theorem echoLeg_leg (e : FrameEnd) (a : State × List (List Sample)) (l k : Leg) :
    (echoLeg e a l).1.leg k = if k = l then echoed e a.1 (a.1.leg l) else a.1.leg k := by
  have id' : ∀ r : LegRec, r = a.1.leg l → a.1.leg k = if k = l then r else a.1.leg k := by
    rintro r rfl; by_cases hk : k = l <;> simp [hk]
  simp only [echoLeg, echoed]
  cases hs : (a.1.leg l).state
  · exact id' _ rfl
  all_goals
    cases hk : (a.1.leg l).slot
    · exact id' _ rfl
    · rename_i n
      simp only [testDivergence, State.leg_setLeg_same]
      by_cases hkl : k = l
      · subst hkl
        split
        · simp [divergenceResetOf, State.headOfList, raise_eq, State.setWork, State.leg, State.setLeg, State.setLink]
        · simp
      · simp only [hkl, if_false]
        split <;> simp [divergenceResetOf, State.headOfList, raise_eq, State.leg_setLeg_other _ _ _ _ hkl]

theorem echoLeg_out (e : FrameEnd) (a : State × List (List Sample)) (l : Leg) :
    (echoLeg e a l).2 = a.2 ++ [echoOut e a.1 (a.1.leg l)] := by
  simp only [echoLeg, echoOut]
  cases (a.1.leg l).state <;> cases (a.1.leg l).slot <;> rfl

theorem echoFold (e : FrameEnd) (src : State) (ls : List Leg) (hn : ls.Nodup) : ∀ (a : State × List (List Sample)),
    a.1.ports = src.ports →
    (∀ k, (ls.foldl (echoLeg e) a).1.leg k = if k ∈ ls then echoed e src (a.1.leg k) else a.1.leg k) ∧
    (ls.foldl (echoLeg e) a).2 = a.2 ++ ls.map (fun l => echoOut e src (a.1.leg l)) := by
  induction ls with
  | nil => intro a _; simp
  | cons b ls ih =>
    intro a ha
    obtain ⟨h1, h2⟩ := List.nodup_cons.1 hn
    have hp : (echoLeg e a b).1.ports = src.ports := ((congrArg State.ports (echoLeg_hide e a b) :)).trans ha
    obtain ⟨g1, g2⟩ := ih h2 (echoLeg e a b) hp
    have he : ∀ r, echoed e a.1 r = echoed e src r := by
      intro r; simp only [echoed, netInbound_ports ha]
    have ho : ∀ r, echoOut e a.1 r = echoOut e src r := by
      intro r; simp only [echoOut, netInbound_ports ha]
    constructor
    · intro k
      rw [List.foldl_cons, g1, echoLeg_leg]
      by_cases hk : k = b
      · subst hk; simp [h1, he]
      · simp [hk]
    · rw [List.foldl_cons, g2, echoLeg_out, ho, List.map_cons]
      have : ls.map (fun l => echoOut e src ((echoLeg e a b).1.leg l)) = ls.map (fun l => echoOut e src (a.1.leg l)) := by
        apply List.map_congr_left
        intro l hl
        rw [echoLeg_leg, if_neg (by rintro rfl; exact h1 hl)]
      rw [this]; simp

/-- R40: each canceller works on its own leg. -/
theorem echoStep_leg (e : FrameEnd) (s : State) (l : Leg) : (echoStep e s).1.leg l = echoed e s (s.leg l) := by
  have := (echoFold e s (List.finRange 24) (List.nodup_finRange 24) (s, []) rfl).1 l
  simpa [echoStep, List.mem_finRange] using this

/-- R40: the frames the cancellers give the mix. -/
theorem echoStep_out (e : FrameEnd) (s : State) : (echoStep e s).2 = (List.finRange 24).map
    (fun l => echoOut e s (s.leg l)) := by
  have := (echoFold e s (List.finRange 24) (List.nodup_finRange 24) (s, []) rfl).2
  simpa [echoStep] using this

/-! ## The microphones (R60) -/

theorem micLeg_only (a : State × List (List Sample)) (p : Position) (v : Vector PosRec 16) :
    ({ (micLeg a p).1 with positions := v } : State) = { a.1 with positions := v } := by
  simp only [micLeg]; split <;> rfl

/-- R60: the microphones change the positions alone. -/
theorem micStep_only (s : State) : ({ (micStep s).1 with positions := s.positions } : State) = s := by
  have h : ∀ (ps : List Position) (a : State × List (List Sample)),
      ({ (ps.foldl micLeg a).1 with positions := s.positions } : State) = { a.1 with positions := s.positions } := by
    intro ps
    induction ps with
    | nil => intro a; rfl
    | cons p ps ih => intro a; rw [List.foldl_cons, ih, micLeg_only]
  have := h (List.finRange 16) (s, [])
  simp only [micStep]
  rw [this]

/-- R60: position p's record r after its microphone's frame. -/
def micced (src : State) (p : Position) (r : PosRec) : PosRec :=
  if r.enabled then { r with
    mic := (micFrame r.mic (headInbound p src)).1
    available := r.enabled && !r.muted && !(src.quietLevel && quietBit src p) }
  else { r with available := false }

/-- R60: the frame position p gives the mix. -/
def micOut (src : State) (p : Position) (r : PosRec) : List Sample :=
  if r.enabled then (micFrame r.mic (headInbound p src)).2 else silence

theorem micLeg_pos (src : State) (a : State × List (List Sample)) (h : ({ a.1 with positions := src.positions } : State) =
    src) (p q : Position) :
    (micLeg a p).1.pos q = (if q = p then micced src p (a.1.pos p) else a.1.pos q) ∧ (micLeg a p).2 =
        a.2 ++ [micOut src p (a.1.pos p)] := by
  have h1 : a.1.ports = src.ports := (congrArg State.ports h :)
  have h2 : a.1.quietLevel = src.quietLevel := (congrArg State.quietLevel h :)
  have h3 : a.1.quietMask = src.quietMask := (congrArg State.quietMask h :)
  have hp : headInbound p a.1 = headInbound p src := by simp only [headInbound, h1]
  have hq : (a.1.quietLevel && quietBit a.1 p) = (src.quietLevel && quietBit src p) := by simp only [quietBit, h2, h3]
  clear h h1 h2 h3
  simp only [micLeg, micced, micOut, hp, micAvailable, hq]
  by_cases he : (a.1.pos p).enabled = true
  · simp only [he, if_true]
    by_cases hqp : q = p
    · subst hqp; simp
    · simp [hqp, State.pos_setPos_other _ _ _ _ hqp]
  · simp only [he]
    by_cases hqp : q = p
    · subst hqp; simp
    · simp [hqp, State.pos_setPos_other _ _ _ _ hqp]

theorem micFold (src : State) (ls : List Position) (hn : ls.Nodup) : ∀ (a : State × List (List Sample)),
    ({ a.1 with positions := src.positions } : State) = src →
    (∀ k, (ls.foldl micLeg a).1.pos k = if k ∈ ls then micced src k (a.1.pos k) else a.1.pos k) ∧
    (ls.foldl micLeg a).2 = a.2 ++ ls.map (fun l => micOut src l (a.1.pos l)) := by
  induction ls with
  | nil => intro a _; simp
  | cons b ls ih =>
    intro a ha
    obtain ⟨h1, h2⟩ := List.nodup_cons.1 hn
    have hp : ({ (micLeg a b).1 with positions := src.positions } : State) = src := by
      rw [micLeg_only]; exact ha
    obtain ⟨g1, g2⟩ := ih h2 (micLeg a b) hp
    constructor
    · intro k
      rw [List.foldl_cons, g1, (micLeg_pos src a ha b k).1]
      by_cases hk : k = b
      · subst hk; simp [h1]
      · simp [hk]
    · rw [List.foldl_cons, g2, (micLeg_pos src a ha b b).2, List.map_cons]
      have : ls.map (fun l => micOut src l ((micLeg a b).1.pos l)) = ls.map (fun l => micOut src l (a.1.pos l)) := by
        apply List.map_congr_left
        intro l hl
        rw [(micLeg_pos src a ha b l).1, if_neg (by rintro rfl; exact h1 hl)]
      rw [this]; simp

/-- R60: each microphone works on its own position. -/
theorem micStep_pos (s : State) (p : Position) : (micStep s).1.pos p = micced s p (s.pos p) := by
  have := (micFold s (List.finRange 16) (List.nodup_finRange 16) (s, []) rfl).1 p
  simpa [micStep, List.mem_finRange] using this

/-- R60: the frames the microphones give the mix. -/
theorem micStep_out (s : State) : (micStep s).2 = (List.finRange 16).map (fun p => micOut s p (s.pos p)) := by
  have := (micFold s (List.finRange 16) (List.nodup_finRange 16) (s, []) rfl).2
  simpa [micStep] using this

/-! ## The sources (R84) -/

/-- No read has changed, but for being given up. -/
def ReadsKept (s t : State) : Prop := t.reads.map (fun x => { x with dropped := false }) =
    s.reads.map (fun x => { x with dropped := false })

/-- R128: a withdrawn requester's reads are marked, and stay. -/
theorem withdraw_reads (r : Requester) (s : State) : ReadsKept s (withdraw r s) := by
  simp only [ReadsKept, withdraw, List.map_map]
  apply List.map_congr_left
  intro a _
  simp only [Function.comp]
  split <;> rfl

/-- t with all that the sources act on taken from s. -/
abbrev withSources (s t : State) : State := { t with
  sources := s.sources, fetch := s.fetch, reads := s.reads, link := s.link }

/-- From s to t only source m, the fetch list, the reads and the link (by raises of sources) have changed. -/
def SourceStep (m : Source) (s t : State) : Prop :=
  withSources s t = s ∧
  (∀ k, k ≠ m → t.src k = s.src k) ∧ Raises [0xC6, 0xC7] s t ∧ ReadsKept s t

theorem SourceStep.refl (m : Source) (s : State) : SourceStep m s s := ⟨rfl, fun _ _ => rfl, .none rfl rfl, rfl⟩

theorem SourceStep.trans {m : Source} {s t u : State} (h : SourceStep m s t) (h' : SourceStep m t u) : SourceStep m s u := by
  refine ⟨?_, fun k hk => (h'.2.1 k hk).trans (h.2.1 k hk), h.2.2.1.trans h'.2.2.1, h'.2.2.2.trans h.2.2.2⟩
  have := congrArg (fun x : State => withSources s x) h'.1
  exact this.trans h.1

theorem SourceStep.set {m : Source} (s : State) (r : SourceRec) : SourceStep m s (s.setSrc m r) :=
  ⟨rfl, fun _ hk => State.src_setSrc_other _ _ _ _ hk, .none rfl rfl, rfl⟩

theorem SourceStep.raise {m : Source} (s : State) (k : Nat) (d : Detail) (h : d.kind = 0xC6 ∨ d.kind = 0xC7) : SourceStep m s
    (raise k d s) :=
  ⟨rfl, fun _ _ => rfl, .one k d (by simpa using h) rfl rfl, rfl⟩

theorem SourceStep.withdraw {m : Source} (s : State) (r : Requester) : SourceStep m s (withdraw r s) :=
  ⟨rfl, fun _ _ => rfl, .none rfl rfl, withdraw_reads r s⟩

theorem SourceStep.place {m : Source} (s : State) (it : FetchItem) : SourceStep m s (placeItem it s) :=
  ⟨rfl, fun _ _ => rfl, .none rfl rfl, rfl⟩

theorem landSource_step (ls : List Landed) (m : Source) (s : State) : SourceStep m s (landSource ls m s) := by
  simp only [landSource]
  split
  · split
    · exact .refl m s
    · exact .set s _
    · exact (SourceStep.set s _).trans (.raise _ _ _ (.inl rfl))
  · exact .refl m s

theorem commandSource_step (m : Source) (s : State) : SourceStep m s (commandSource m s) := by
  simp only [commandSource]
  split
  · exact .refl m s
  · exact .set s _
  · exact (SourceStep.set s _).trans (.withdraw _ _)

theorem testLow_step (m : Source) (s : State) : SourceStep m s (testLow m s) := by
  simp only [testLow]
  split
  · exact (SourceStep.set s _).trans (.raise _ _ _ (.inr rfl))
  · exact .refl m s

theorem placeClip_step (m : Source) (s : State) : SourceStep m s (placeClip m s) := by
  simp only [placeClip]
  repeat' split
  all_goals first
    | exact .refl m s
    | exact (SourceStep.set s _).trans (.place _ _)
    | exact .set s _

/-- R84: the six steps of a source change that source, the fetch list, the reads and the link alone. -/
theorem sourceFrame_step (ls : List Landed) (m : Source) (s : State) : SourceStep m s (sourceFrame ls m s).1 := by
  have h1 := (landSource_step ls m s).trans (commandSource_step m _)
  simp only [sourceFrame]
  generalize commandSource m (landSource ls m s) = u at h1 ⊢
  have h2 := h1.trans (SourceStep.set u (produce (enterSource (u.src m))).1)
  refine SourceStep.trans ?_ ((testLow_step m _).trans (placeClip_step m _))
  split
  · exact h2.trans (.raise _ _ _ (.inl rfl))
  · exact h2

/-- sourceFrame of m reads source m alone. -/
theorem landSource_congr (ls : List Landed) (m : Source) {s t : State} (h : s.src m = t.src m) : (landSource ls m s).src m =
    (landSource ls m t).src m := by
  simp only [landSource, h]
  split
  · split
    · exact h
    · simp
    · simp [raise_eq]
  · exact h

theorem commandSource_congr (m : Source) {s t : State} (h : s.src m = t.src m) : (commandSource m s).src m =
    (commandSource m t).src m := by
  simp only [commandSource, h]
  split
  · exact h
  · simp
  · have : ∀ (u : State) r, (withdraw (.source m) (u.setSrc m r)).src m = r := fun u r => State.src_setSrc_same _ _ _
    simp only [stopSource, this, h]

theorem testLow_congr (m : Source) {s t : State} (h : s.src m = t.src m) : (testLow m s).src m = (testLow m t).src m := by
  simp only [testLow, h]
  split
  · simp [raise_eq]
  · exact h

theorem placeClip_congr (m : Source) {s t : State} (h : s.src m = t.src m) : (placeClip m s).src m = (placeClip m t).src m :=
    by
  have hp : ∀ (u : State) it r, (placeItem it (u.setSrc m r)).src m = r := fun u it r => State.src_setSrc_same _ _ _
  simp only [placeClip, h]
  repeat' split
  all_goals first
    | exact h
    | simp [hp]

/-- R84: the six steps of a source read that source alone. -/
theorem sourceFrame_congr (ls : List Landed) (m : Source) {s t : State} (h : s.src m = t.src m) :
    (sourceFrame ls m s).1.src m = (sourceFrame ls m t).1.src m ∧ (sourceFrame ls m s).2 = (sourceFrame ls m t).2 := by
  have h1 := commandSource_congr m (landSource_congr ls m h)
  simp only [sourceFrame]
  generalize commandSource m (landSource ls m s) = u at h1
  generalize commandSource m (landSource ls m t) = w at h1
  rw [h1]
  refine ⟨?_, rfl⟩
  apply placeClip_congr
  apply testLow_congr
  split
  · simp [raise_eq]
  · simp

theorem sourceFold (ls : List Landed) (src : State) (ms : List Source) (hn : ms.Nodup) : ∀ (a : State × List (List Sample)),
    (∀ m ∈ ms, a.1.src m = src.src m) →
    let b := ms.foldl (fun a m => let out := sourceFrame ls m a.1; (out.1, a.2 ++ [out.2])) a
    (∀ k, b.1.src k = if k ∈ ms then (sourceFrame ls k src).1.src k else a.1.src k) ∧
    b.2 = a.2 ++ ms.map (fun m => (sourceFrame ls m src).2) ∧
    withSources a.1 b.1 = a.1 ∧ Raises [0xC6, 0xC7] a.1 b.1 ∧ ReadsKept a.1 b.1 := by
  induction ms with
  | nil => intro a _; exact ⟨by simp, by simp, rfl, .none rfl rfl, rfl⟩
  | cons m ms ih =>
    intro a ha
    obtain ⟨h1, h2⟩ := List.nodup_cons.1 hn
    have hs := sourceFrame_step ls m a.1
    have hc := sourceFrame_congr ls m (ha m List.mem_cons_self)
    simp only [List.foldl_cons]
    generalize sourceFrame ls m a.1 = q at hs hc ⊢
    obtain ⟨t, out⟩ := q
    obtain ⟨k1, k2, k3, k4⟩ := hs
    obtain ⟨g1, g2, g3, g4, g5⟩ := ih h2 (t, a.2 ++ [out]) (fun k hk => by
      have : k ≠ m := by rintro rfl; exact h1 hk
      exact (k2 k this).trans (ha k (List.mem_cons_of_mem _ hk)))
    refine ⟨?_, ?_, ?_, k3.trans g4, g5.trans k4⟩
    · intro k
      rw [g1]
      by_cases hk : k = m
      · subst hk; simpa [h1] using hc.1
      · have hkk := k2 k hk
        simp only at hkk
        simp [hk, hkk]
    · have hc2 : out = _ := hc.2
      rw [g2]; simp [hc2]
    · have := congrArg (fun x : State => withSources a.1 x) g3
      exact this.trans k1

/-- R84: each source takes its steps as it stood, and the frames they give the mix. -/
theorem sourceStep_eq (ls : List Landed) (s : State) :
    (∀ m, (sourceStep ls s).1.src m = (sourceFrame ls m s).1.src m) ∧
    (sourceStep ls s).2 = (List.finRange 4).map (fun m => (sourceFrame ls m s).2) ∧
    withSources s (sourceStep ls s).1 = s ∧ Raises [0xC6, 0xC7] s (sourceStep ls s).1 ∧ ReadsKept s (sourceStep ls s).1 := by
  obtain ⟨h1, h2, h3, h4, h5⟩ := sourceFold ls s (List.finRange 4) (List.nodup_finRange 4) (s, []) (fun _ _ => rfl)
  simp only [sourceStep]
  simp only at h1 h2 h3 h4 h5
  exact ⟨fun m => by simpa [List.mem_finRange] using h1 m, by simpa using h2, h3, h4, h5⟩

/-! ## The index scan (R135) -/

theorem endScan_only (s : State) : ({ endScan s with scan := s.scan, link := s.link } : State) = s := rfl

theorem endScan_raises (s : State) : Raises [0xC3] s (endScan s) := .one _ _ (by simp [Detail.kind]) rfl rfl

theorem scanNextArea_only (s : State) : ({ (scanNextArea s).1 with scan := s.scan, link := s.link } : State) = s := by
  simp only [scanNextArea]; split <;> rfl

theorem scanNextArea_raises (s : State) : Raises [0xC3] s (scanNextArea s).1 := by
  simp only [scanNextArea]; split
  · exact .none rfl rfl
  · exact endScan_raises s

/-- R135: the landing step changes the scan, the index and the link alone. -/
theorem landScan_only (ls : List Landed) (s : State) :
    ({ (landScan ls s).1 with scan := s.scan, index := s.index, link := s.link } : State) = s := by
  have key : ∀ u : State, ({ (scanNextArea u).1 with scan := s.scan, index := s.index, link := s.link } : State) =
      { u with scan := s.scan, index := s.index, link := s.link } := by
    intro u
    have := congrArg (fun x : State => ({ x with scan := s.scan, index := s.index, link := s.link } : State)) (scanNextArea_only u)
    exact this
  simp only [landScan]
  repeat' split
  all_goals first | rfl | exact key _

theorem Raises.before {ks : List Nat} {s u t : State} (h : Raises ks u t) (hf : u.frame = s.frame) (hl : u.link = s.link) :
    Raises ks s t := Raises.trans (.none hf hl) h

/-- R137: the landing step raises REINDEX_DONE alone. -/
theorem landScan_raises (ls : List Landed) (s : State) : Raises [0xC3] s (landScan ls s).1 := by
  simp only [landScan]
  repeat' split
  all_goals first
    | exact .none rfl rfl
    | exact endScan_raises s
    | exact (scanNextArea_raises _).before rfl rfl

/-- R135: the landing step reads the scan, the index and the areas alone. -/
theorem landScan_congr (ls : List Landed) {s t : State} (h : s.scan = t.scan) (hi : s.index = t.index) (ha : s.areas =
    t.areas) :
    (landScan ls s).1.scan = (landScan ls t).1.scan ∧ (landScan ls s).1.index = (landScan ls t).1.index ∧ (landScan ls s).2 =
        (landScan ls t).2 := by
  have key : ∀ u w : State, u.scan = w.scan → u.index = w.index → u.areas = w.areas →
      (scanNextArea u).1.scan = (scanNextArea w).1.scan ∧ (scanNextArea u).1.index = (scanNextArea w).1.index ∧
          (scanNextArea u).2 = (scanNextArea w).2 := by
    intro u w h1 h2 h3
    simp only [scanNextArea, h1, h3]
    split
    · exact ⟨rfl, h2, rfl⟩
    · simp [endScan, raise_eq, h1, h2]
  have har : ∀ a, s.area a = t.area a := by intro a; simp [State.area, ha]
  simp only [landScan, h, hi, har]
  repeat' split
  all_goals first
    | exact ⟨h, hi, rfl⟩
    | exact ⟨by simp [endScan, raise_eq, h], by simp [endScan, raise_eq, hi], rfl⟩
    | exact key _ _ rfl rfl ha

/-! ## The prompt players -/

/-- t with all that the prompt players act on taken from s, the positions whole. -/
abbrev withPlayers (s t : State) : State := { t with
  positions := s.positions, fetch := s.fetch, reads := s.reads, link := s.link }

/-- r with all of a position that its prompt player sets taken from q. -/
abbrev withPlayer (q r : PosRec) : PosRec := { r with queue := q.queue, slot := q.slot, done := q.done, duck := q.duck }

/-- From s to t only position p's queue, slot, done list and duck gain, the fetch list, the reads and the link have changed. -/
def PlayerStep (p : Position) (s t : State) : Prop :=
  withPlayers s t = s ∧
  (∀ k, k ≠ p → t.pos k = s.pos k) ∧
  withPlayer (s.pos p) (t.pos p) = s.pos p ∧
  Raises [0xC5] s t ∧ ReadsKept s t

theorem PlayerStep.refl (p : Position) (s : State) : PlayerStep p s s := ⟨rfl, fun _ _ => rfl, rfl, .none rfl rfl, rfl⟩

theorem PlayerStep.trans {p : Position} {s t u : State} (h : PlayerStep p s t) (h' : PlayerStep p t u) : PlayerStep p s u :=
    by
  refine ⟨?_, fun k hk => (h'.2.1 k hk).trans (h.2.1 k hk), ?_, h.2.2.2.1.trans h'.2.2.2.1, h'.2.2.2.2.trans h.2.2.2.2⟩
  · have := congrArg (fun x : State => withPlayers s x) h'.1
    exact this.trans h.1
  · have := congrArg (fun x : PosRec => withPlayer (s.pos p) x) h'.2.2.1
    exact this.trans h.2.2.1

theorem PlayerStep.set {p : Position} {s : State} {r : PosRec} (h : withPlayer (s.pos p) r = s.pos p) :
    PlayerStep p s (s.setPos p r) :=
  ⟨rfl, fun k hk => State.pos_setPos_other _ _ _ _ hk, by simpa using h, .none rfl rfl, rfl⟩

theorem PlayerStep.before {p : Position} {s t : State} {r : PosRec} (h : PlayerStep p (s.setPos p r) t)
    (hr : withPlayer (s.pos p) r = s.pos p) :
    PlayerStep p s t := (PlayerStep.set hr).trans h

theorem PlayerStep.place {p : Position} (s : State) (it : FetchItem) : PlayerStep p s (placeItem it s) := ⟨rfl,
    fun _ _ => rfl, rfl, .none rfl rfl, rfl⟩

theorem PlayerStep.withdraw {p : Position} (s : State) (r : Requester) : PlayerStep p s (withdraw r s) := ⟨rfl,
    fun _ _ => rfl, rfl, .none rfl rfl, withdraw_reads r s⟩

theorem PlayerStep.raise {p : Position} (s : State) (k n : Nat) : PlayerStep p s (raise k (.promptDone n) s) := ⟨rfl,
    fun _ _ => rfl, rfl, .one _ _ (by simp [Detail.kind]) rfl rfl, rfl⟩

theorem finishPrompt_step (p : Position) (res : PromptResult) (r : PromptRec) (s : State) : PlayerStep p s
    (finishPrompt p res r s) := by
  rw [finishPrompt_eq]
  exact (PlayerStep.raise _ _ _).before rfl

theorem endSlot_step (p : Position) (res : PromptResult) (s : State) : PlayerStep p s (endSlot p res s) := by
  simp only [endSlot]
  split
  · exact .refl p s
  · refine PlayerStep.trans ?_ (finishPrompt_step _ _ _ _)
    exact (PlayerStep.withdraw _ _).before rfl

theorem endPending_step (p : Position) (res : PromptResult) (r : PromptRec) (s : State) : PlayerStep p s
    (endPending p res r s) := by
  simp only [endPending]
  exact (finishPrompt_step _ _ _ _).before rfl

theorem PlayerStep.fold {p : Position} {α : Type} {f : State → α → State} (h : ∀ s a, PlayerStep p s (f s a)) (l : List α)
    (s : State) : PlayerStep p s (l.foldl f s) := by
  induction l generalizing s with
  | nil => exact .refl p s
  | cons a l ih => exact (h s a).trans (ih _)

theorem expireStep_step (p : Position) (s : State) : PlayerStep p s (expireStep p s) := by
  simp only [expireStep]
  exact (PlayerStep.fold (fun s r => endPending_step p _ r s) _ _).before rfl

theorem placePrompt_step (p : Position) (s : State) : PlayerStep p s (placePrompt p s) := by
  simp only [placePrompt]
  repeat' split
  all_goals first
    | exact .refl p s
    | exact (PlayerStep.place _ _).before rfl

theorem playSlot_step (p : Position) (pl : Playing) (s : State) : PlayerStep p s (playSlot p pl s).1 := by
  simp only [playSlot]
  split
  · refine PlayerStep.trans (PlayerStep.set (s := s) (p := p) (r := { s.pos p with slot := some (promptPlay pl).pl }) rfl) ?_
    dsimp only
    split
    · exact endSlot_step _ _ _
    · exact placePrompt_step _ _
  · exact (placePrompt_step _ _).before rfl

theorem slotStep_step (ls : List Landed) (p : Position) (s : State) : PlayerStep p s (slotStep ls p s).1 := by
  simp only [slotStep]
  repeat' split
  all_goals first
    | exact .refl p s
    | exact endSlot_step _ _ _
    | exact playSlot_step _ _ _

theorem selectHead_step (ix : Vector (List IndexEntry) 128) (p : Position) (k : Nat) : ∀ s, PlayerStep p s
    (selectHead ix p k s) := by
  induction k with
  | zero => intro s; exact .refl p s
  | succ k ih =>
    intro s
    simp only [selectHead]
    repeat' split
    all_goals first
      | exact .refl p s
      | exact (endPending_step _ _ _ _).trans (ih _)
      | exact (placePrompt_step _ _).before rfl

theorem selectStep_step (ix : Vector (List IndexEntry) 128) (p : Position) (s : State) : PlayerStep p s
    (selectStep ix p s) := by
  simp only [selectStep]
  have h1 : PlayerStep p s (if preempts s p then endSlot p .preempted s else s) := by
    split
    · exact endSlot_step _ _ _
    · exact .refl p s
  generalize (if preempts s p then endSlot p .preempted s else s) = t at h1 ⊢
  refine h1.trans ?_
  split
  · exact .refl _ _
  · exact selectHead_step _ _ _ _

theorem duckStep_step (p : Position) (s : State) : PlayerStep p s (duckStep p s) := PlayerStep.set rfl

/-- R105: a player changes its own position's prompts and duck gain, the fetch list, the reads and the link alone. -/
theorem playerFrame_step (ix : Vector (List IndexEntry) 128) (ls : List Landed) (p : Position) (s : State) : PlayerStep p s
    (playerFrame ix ls p s).1 := by
  simp only [playerFrame]
  split
  · exact ((expireStep_step p s).trans (slotStep_step ls p _)).trans ((selectStep_step ix p _).trans (duckStep_step p _))
  · exact .refl p s

/-- s and t hold the same of all that position p's player reads. -/
def SeenAlike (p : Position) (s t : State) : Prop :=
  s.pos p = t.pos p ∧ s.frame = t.frame ∧ s.legs = t.legs ∧ s.groups = t.groups ∧ s.supervision = t.supervision ∧
  s.quietMask = t.quietMask ∧ s.quietLevel = t.quietLevel ∧
  ∀ q, (s.pos q).mic = (t.pos q).mic ∧ (s.pos q).enabled = (t.pos q).enabled ∧ (s.pos q).muted = (t.pos q).muted

theorem SeenAlike.set {p : Position} {s t : State} (h : SeenAlike p s t) (r : PosRec) : SeenAlike p (s.setPos p r)
    (t.setPos p r) := by
  obtain ⟨h1, h2, h3, h4, h5, h6, h7, h8⟩ := h
  refine ⟨by simp, h2, h3, h4, h5, h6, h7, fun q => ?_⟩
  by_cases hq : q = p
  · subst hq; simp
  · simpa [State.pos_setPos_other _ _ _ _ hq] using h8 q

theorem SeenAlike.out {p : Position} {s t s' t' : State} (h : SeenAlike p s t)
    (hs : s'.positions = s.positions ∧ s'.frame = s.frame ∧ s'.legs = s.legs ∧ s'.groups = s.groups ∧ s'.supervision =
        s.supervision ∧ s'.quietMask = s.quietMask ∧ s'.quietLevel = s.quietLevel)
    (ht : t'.positions = t.positions ∧ t'.frame = t.frame ∧ t'.legs = t.legs ∧ t'.groups = t.groups ∧ t'.supervision =
        t.supervision ∧ t'.quietMask = t.quietMask ∧ t'.quietLevel = t.quietLevel) :
    SeenAlike p s' t' := by
  obtain ⟨h1, h2, h3, h4, h5, h6, h7, h8⟩ := h
  obtain ⟨a1, a2, a3, a4, a5, a6, a7⟩ := hs
  obtain ⟨b1, b2, b3, b4, b5, b6, b7⟩ := ht
  simp only [SeenAlike, State.pos] at *
  simp_all

theorem SeenAlike.raise {p : Position} {s t : State} (h : SeenAlike p s t) (k : Nat) (d : Detail) : SeenAlike p (raise k d s)
    (raise k d t) :=
  h.out ⟨rfl, rfl, rfl, rfl, rfl, rfl, rfl⟩ ⟨rfl, rfl, rfl, rfl, rfl, rfl, rfl⟩

theorem SeenAlike.place {p : Position} {s t : State} (h : SeenAlike p s t) (it : FetchItem) : SeenAlike p (placeItem it s)
    (placeItem it t) :=
  h.out ⟨rfl, rfl, rfl, rfl, rfl, rfl, rfl⟩ ⟨rfl, rfl, rfl, rfl, rfl, rfl, rfl⟩

theorem SeenAlike.withdraw {p : Position} {s t : State} (h : SeenAlike p s t) (r : Requester) : SeenAlike p (withdraw r s)
    (withdraw r t) :=
  h.out ⟨rfl, rfl, rfl, rfl, rfl, rfl, rfl⟩ ⟨rfl, rfl, rfl, rfl, rfl, rfl, rfl⟩

theorem SeenAlike.finish {p : Position} {s t : State} (h : SeenAlike p s t) (res : PromptResult) (r : PromptRec) :
    SeenAlike p (finishPrompt p res r s) (finishPrompt p res r t) := by
  rw [finishPrompt_eq, finishPrompt_eq, h.1, h.2.1]
  exact (h.set _).raise _ _

theorem SeenAlike.endSlot {p : Position} {s t : State} (h : SeenAlike p s t) (res : PromptResult) : SeenAlike p
    (endSlot p res s) (endSlot p res t) := by
  simp only [Machine.endSlot, h.1]
  split
  · exact h
  · exact ((h.set _).withdraw _).finish _ _

theorem SeenAlike.endPending {p : Position} {s t : State} (h : SeenAlike p s t) (res : PromptResult) (r : PromptRec) :
    SeenAlike p (endPending p res r s) (endPending p res r t) := by
  simp only [Machine.endPending, h.1]
  exact (h.set _).finish _ _

theorem SeenAlike.fold {p : Position} {α : Type} {f : State → α → State} (hf : ∀ s t a, SeenAlike p s t →
    SeenAlike p (f s a) (f t a)) (l : List α) : ∀ {s t : State}, SeenAlike p s t → SeenAlike p (l.foldl f s) (l.foldl f t) :=
    by
  induction l with
  | nil => intro s t h; exact h
  | cons a l ih => intro s t h; exact ih (hf s t a h)

theorem SeenAlike.expire {p : Position} {s t : State} (h : SeenAlike p s t) : SeenAlike p (expireStep p s)
    (expireStep p t) := by
  simp only [expireStep, h.1]
  have hs := h.set { t.pos p with queue := (t.pos p).queue.map waited }
  exact SeenAlike.fold (f := fun s r => Machine.endPending p .expired r s) (fun s t a h => h.endPending _ _) _ hs

theorem SeenAlike.placePrompt {p : Position} {s t : State} (h : SeenAlike p s t) : SeenAlike p (placePrompt p s)
    (placePrompt p t) := by
  simp only [Machine.placePrompt, h.1]
  repeat' split
  all_goals first
    | exact h
    | exact (h.set _).place _

theorem SeenAlike.playSlot {p : Position} {s t : State} (h : SeenAlike p s t) (pl : Playing) : SeenAlike p
    (playSlot p pl s).1 (playSlot p pl t).1 ∧ (playSlot p pl s).2 = (playSlot p pl t).2 := by
  simp only [Machine.playSlot, h.1]
  split
  · refine ⟨?_, rfl⟩
    dsimp only
    split
    · exact (h.set _).endSlot _
    · exact (h.set _).placePrompt
  · exact ⟨(h.set _).placePrompt, rfl⟩

theorem SeenAlike.slotStep {p : Position} {s t : State} (h : SeenAlike p s t) (ls : List Landed) : SeenAlike p
    (slotStep ls p s).1 (slotStep ls p t).1 ∧ (slotStep ls p s).2 = (slotStep ls p t).2 := by
  simp only [Machine.slotStep, h.1]
  split
  · exact ⟨h, rfl⟩
  · split
    · exact ⟨h.endSlot _, rfl⟩
    · split
      · exact ⟨h.endSlot _, rfl⟩
      · exact h.playSlot _
      · exact h.playSlot _

theorem SeenAlike.starts {p : Position} {s t : State} (h : SeenAlike p s t) (r : PromptRec) : startHolds s p r =
    startHolds t p r := by
  obtain ⟨h1, h2, h3, h4, h5, h6, h7, h8⟩ := h
  simp only [startHolds, callersQuiet, h1, State.members, State.leg, h3, h4]

theorem SeenAlike.prime {p : Position} {s t : State} (h : SeenAlike p s t) (r : PromptRec) (loc : Location) : SeenAlike p
    (primePrompt p r loc s) (primePrompt p r loc t) := by
  simp only [primePrompt, h.1]
  exact (h.set _).placePrompt

theorem SeenAlike.selectHead {p : Position} (ix : Vector (List IndexEntry) 128) (k : Nat) : ∀ {s t : State},
    SeenAlike p s t → SeenAlike p (selectHead ix p k s) (selectHead ix p k t) := by
  induction k with
  | zero => intro s t h; exact h
  | succ k ih =>
    intro s t h
    simp only [Machine.selectHead, h.1, h.starts]
    repeat' split
    all_goals first
      | exact h
      | exact h.prime _ _
      | exact ih (h.endPending _ _)

theorem SeenAlike.selectStep {p : Position} {s t : State} (h : SeenAlike p s t) (ix : Vector (List IndexEntry) 128) :
    SeenAlike p (selectStep ix p s) (selectStep ix p t) := by
  have hpre : preempts s p = preempts t p := by simp only [preempts, h.1, h.starts]
  have h1 : SeenAlike p (if preempts s p then Machine.endSlot p .preempted s else s)
      (if preempts t p then Machine.endSlot p .preempted t else t) := by
    rw [hpre]; split
    · exact h.endSlot _
    · exact h
  simp only [Machine.selectStep]
  generalize (if preempts s p then Machine.endSlot p .preempted s else s) = u at h1 ⊢
  generalize (if preempts t p then Machine.endSlot p .preempted t else t) = w at h1 ⊢
  simp only [h1.1]
  split
  · exact h1
  · exact SeenAlike.selectHead ix 8 h1

theorem SeenAlike.duck {p : Position} {s t : State} (h : SeenAlike p s t) : SeenAlike p (duckStep p s) (duckStep p t) := by
  have : duckTarget s p = duckTarget t p := by
    obtain ⟨h1, h2, h3, h4, h5, h6, h7, h8⟩ := h
    have ha : asAgent s p = asAgent t p := by simp [asAgent, h5]
    have hm : ∀ q, micAvailable s q = micAvailable t q := by intro q; simp [micAvailable, h7, quietBit, h6, (h8 q).2.1,
        (h8 q).2.2]
    simp only [duckTarget, h1, ha, hm, fun q => (h8 q).1]
  simp only [duckStep, this, h.1]
  exact h.set _

/-- R105: a player acts alike on states that hold the same of all it reads. -/
theorem SeenAlike.player {p : Position} {s t : State} (h : SeenAlike p s t) (ix : Vector (List IndexEntry) 128)
    (ls : List Landed) :
    (playerFrame ix ls p s).1.pos p = (playerFrame ix ls p t).1.pos p ∧ (playerFrame ix ls p s).2 =
        (playerFrame ix ls p t).2 := by
  simp only [playerFrame, h.1]
  split
  · have h1 := h.expire.slotStep ls
    exact ⟨((h1.1.selectStep ix).duck).1, h1.2⟩
  · exact ⟨h.1, rfl⟩

/-- A player's step leaves alike what another position's player reads. -/
theorem PlayerStep.others {p q : Position} {s t : State} (h : PlayerStep p s t) (hq : q ≠ p) : SeenAlike q t s := by
  obtain ⟨h1, h2, h3, h4, _⟩ := h
  refine ⟨h2 q hq, (congrArg State.frame h1 :), (congrArg State.legs h1 :), (congrArg State.groups h1 :),
      (congrArg State.supervision h1 :), (congrArg State.quietMask h1 :), (congrArg State.quietLevel h1 :), fun k => ?_⟩
  by_cases hk : k = p
  · subst hk; exact ⟨(congrArg PosRec.mic h3 :), (congrArg PosRec.enabled h3 :), (congrArg PosRec.muted h3 :)⟩
  · rw [h2 k hk]; exact ⟨rfl, rfl, rfl⟩

theorem SeenAlike.trans {q : Position} {s t u : State} (h : SeenAlike q s t) (h' : SeenAlike q t u) : SeenAlike q s u := by
  obtain ⟨h1, h2, h3, h4, h5, h6, h7, h8⟩ := h
  obtain ⟨g1, g2, g3, g4, g5, g6, g7, g8⟩ := h'
  exact ⟨h1.trans g1, h2.trans g2, h3.trans g3, h4.trans g4, h5.trans g5, h6.trans g6, h7.trans g7,
      fun k => ⟨(h8 k).1.trans (g8 k).1, (h8 k).2.1.trans (g8 k).2.1, (h8 k).2.2.trans (g8 k).2.2⟩⟩

theorem SeenAlike.refl (q : Position) (s : State) : SeenAlike q s s := ⟨rfl, rfl, rfl, rfl, rfl, rfl, rfl, fun _ => ⟨rfl,
    rfl, rfl⟩⟩

theorem SeenAlike.symm {q : Position} {s t : State} (h : SeenAlike q s t) : SeenAlike q t s := by
  obtain ⟨h1, h2, h3, h4, h5, h6, h7, h8⟩ := h
  exact ⟨h1.symm, h2.symm, h3.symm, h4.symm, h5.symm, h6.symm, h7.symm, fun k => ⟨(h8 k).1.symm, (h8 k).2.1.symm,
      (h8 k).2.2.symm⟩⟩

/-- What all players leave of the positions as others read them. -/
def othersAlike (s t : State) : Prop :=
  withPlayers s t = s ∧
  (∀ p, withPlayer (s.pos p) (t.pos p) = s.pos p)

theorem playerFold (ixs : Position → Vector (List IndexEntry) 128) (ls : List Landed) (src : State) (ps : List Position)
    (hn : ps.Nodup) :
    ∀ (a : State × List (Option (List Sample × Nat))), (∀ p ∈ ps, SeenAlike p a.1 src) →
    let b := ps.foldl (fun a p => let out := playerFrame (ixs p) ls p a.1; (out.1, a.2 ++ [out.2])) a
    (∀ k, b.1.pos k = if k ∈ ps then (playerFrame (ixs k) ls k src).1.pos k else a.1.pos k) ∧
    b.2 = a.2 ++ ps.map (fun p => (playerFrame (ixs p) ls p src).2) ∧ othersAlike a.1 b.1 ∧ Raises [0xC5] a.1 b.1 ∧
        ReadsKept a.1 b.1 := by
  induction ps with
  | nil => intro a _; exact ⟨by simp, by simp, ⟨rfl, fun _ => rfl⟩, .none rfl rfl, rfl⟩
  | cons p ps ih =>
    intro a ha
    obtain ⟨h1, h2⟩ := List.nodup_cons.1 hn
    have hs := playerFrame_step (ixs p) ls p a.1
    have hc := (ha p List.mem_cons_self).player (ixs p) ls
    have ho : ∀ k, k ≠ p → SeenAlike k (playerFrame (ixs p) ls p a.1).1 a.1 := fun k hk => hs.others hk
    simp only [List.foldl_cons]
    generalize playerFrame (ixs p) ls p a.1 = q at hs hc ho ⊢
    obtain ⟨t, out⟩ := q
    obtain ⟨k1, k2, k3, k4, k5⟩ := hs
    simp only at ho hc k1 k2 k3 k4 k5
    obtain ⟨g1, g2, g3, g4, g5⟩ := ih h2 (t, a.2 ++ [out]) (fun k hk => by
      have : k ≠ p := by rintro rfl; exact h1 hk
      exact (ho k this).trans (ha k (List.mem_cons_of_mem _ hk)))
    refine ⟨?_, ?_, ⟨?_, ?_⟩, k4.trans g4, g5.trans k5⟩
    · intro k
      rw [g1]
      by_cases hk : k = p
      · subst hk; simpa [h1] using hc.1
      · simp [hk, k2 k hk]
    · rw [g2]; simp [hc.2]
    · have := congrArg (fun x : State => withPlayers a.1 x) g3.1
      exact this.trans k1
    · intro k
      have := congrArg (fun x : PosRec => withPlayer (a.1.pos k) x) (g3.2 k)
      refine this.trans ?_
      by_cases hk : k = p
      · subst hk; exact k3
      · show withPlayer (a.1.pos k) (t.pos k) = a.1.pos k
        rw [k2 k hk]

/-- R105: each player takes its steps as the tables stood, reading the index before or after the scan's landing step. -/
theorem playerStep_eq (ls : List Landed) (before after : Vector (List IndexEntry) 128) (s : State) :
    let ixs := fun p : Position => if Config.selectsAfterScan s.draws p.val then after else before
    (∀ k, (playerStep ls before after s).1.pos k = (playerFrame (ixs k) ls k s).1.pos k) ∧
    (playerStep ls before after s).2 = (List.finRange 16).map (fun p => (playerFrame (ixs p) ls p s).2) ∧
    othersAlike s (playerStep ls before after s).1 ∧ Raises [0xC5] s (playerStep ls before after s).1 ∧ ReadsKept s
        (playerStep ls before after s).1 := by
  obtain ⟨h1, h2, h3, h4, h5⟩ := playerFold
      (fun p : Position => if Config.selectsAfterScan s.draws p.val then after else before) ls s (List.finRange 16) (List.nodup_finRange 16) (s, []) (fun p _ => .refl p s)
  simp only [playerStep]
  simp only at h1 h2 h3 h4 h5
  exact ⟨fun m => by simpa [List.mem_finRange] using h1 m, by simpa using h2, h3, h4, h5⟩

/-! ## The closing part (R157) -/

/-- R156: the closing part serves from the head and stops at the first item it has no units for. -/
theorem closingServe_eq (cost : AreaNo → Nat) (items : List FetchItem) : ∀ units,
    (closingServe cost units items).1 ++ (closingServe cost units items).2.2 = items ∧
    (closingServe cost units items).2.1 + ((closingServe cost units items).1.map (fun it => cost it.area)).sum = units ∧
    ∀ it, (closingServe cost units items).2.2.head? = some it → (closingServe cost units items).2.1 < cost it.area := by
  induction items with
  | nil => intro u; simp [closingServe]
  | cons a as ih =>
    intro u
    by_cases h : cost a.area ≤ u
    · obtain ⟨h1, h2, h3⟩ := ih (u - cost a.area)
      simp only [closingServe, h, if_true]
      refine ⟨by simp [h1], by simp; omega, h3⟩
    · simp only [closingServe, h, if_false]
      refine ⟨by simp, by simp, ?_⟩
      intro it hit; simp at hit; subst hit; omega

/-- R156, R158: the closing part changes the fetch list, the reads and the service record alone. -/
theorem closingPart_only (o : Opening) (spare : Nat) (s : State) :
    ({ closingPart o spare s with fetch := s.fetch, reads := s.reads, work := s.work } : State) = s := rfl

/-- R156, R158: what the closing part serves, and the record of the service. -/
theorem closingPart_eq (o : Opening) (spare : Nat) (s : State) : ∃ served : List FetchItem,
    served ++ (closingPart o spare s).fetch = s.fetch ∧
    (closingPart o spare s).reads = s.reads ++ served.map (openRead s) ∧
    (closingPart o spare s).work.last.unitsLeft + (served.map (fun it => (s.area it.area).cost)).sum = o.units ∧
    (∀ it, (closingPart o spare s).fetch.head? = some it →
        (closingPart o spare s).work.last.unitsLeft < (s.area it.area).cost) ∧
    (closingPart o spare s).work = { s.work with last := {
        stamp := s.frame, spare := spare, adaptations := o.granted.length, openingFetches := o.served.length,
            closingFetches := served.length,
        unitsLeft := (closingPart o spare s).work.last.unitsLeft, eligible := o.granted.length + o.todo.length, notServed :=
            o.todo.length, itemsLeft := (closingPart o spare s).fetch.length } } := by
  obtain ⟨h1, h2, h3⟩ := closingServe_eq (fun a => (s.area a).cost) s.fetch o.units
  refine ⟨(closingServe (fun a => (s.area a).cost) o.units s.fetch).1, h1, ?_, h2, h3, rfl⟩
  rfl

end Sys2Proof.Machine
end

