-- ==== Sys2Proof/Laws/Frame.lean ====
section
/-! SUPPORT. A frame start from the reads that land to the frames it forms: what each part of it leaves, field by field. -/

namespace Sys2Proof.Machine

/-- t with all that staged changes act on taken from s: the tables, the commitment, the adaptation list and the three classes. -/
abbrev withTables (s t : State) : State := { t with
  legs := s.legs
  positions := s.positions
  groups := s.groups
  supervision := s.supervision
  work := { t.work with commitment := s.work.commitment, list := s.work.list }
  routing := s.routing
  levels := s.levels
  echo := s.echo }

/-- r with all of a position that staged changes set taken from q. -/
abbrev withControls (q r : PosRec) : PosRec := { r with
  muted := q.muted, sendGain := q.sendGain, sidetone := q.sidetone, group := q.group, mic := q.mic }

/-- From s to t only what staged changes act on has changed: the tables, the commitment, the adaptation list and the three
classes. -/
def TablesOnly (s t : State) : Prop :=
  (withTables s t) = s ∧
  ∀ p, (withControls (s.pos p) (t.pos p)) = s.pos p

theorem TablesOnly.refl (s : State) : TablesOnly s s := ⟨rfl, fun _ => rfl⟩

theorem TablesOnly.trans {s t u : State} (h : TablesOnly s t) (h' : TablesOnly t u) : TablesOnly s u := by
  constructor
  · have := congrArg (fun x : State => (withTables s x)) h'.1
    exact this.trans h.1
  · intro p
    have := congrArg (fun x : PosRec => (withControls (s.pos p) x)) (h'.2 p)
    exact this.trans (h.2 p)

theorem TablesOnly.of {s t : State} (hp : t.positions = s.positions)
    (h : ({ withTables s t with positions := t.positions } : State) = s) : TablesOnly s t := by
  constructor
  · exact (congrArg (fun x : State => ({ x with positions := s.positions } : State)) h :)
  · intro p; rw [show t.pos p = s.pos p from by simp [State.pos, hp]]

theorem TablesOnly.setPos {s : State} (p : Position) (r : PosRec) (h : (withControls (s.pos p) r) = s.pos p) : TablesOnly s
    (s.setPos p r) := by
  refine ⟨rfl, fun q => ?_⟩
  by_cases hq : q = p
  · subst hq; simpa using h
  · rw [State.pos_setPos_other _ _ _ _ hq]

theorem TablesOnly.setLeg (s : State) (l : Leg) (r : LegRec) : TablesOnly s (s.setLeg l r) := ⟨rfl, fun _ => rfl⟩

theorem TablesOnly.setMembers (s : State) (g : Group) (r : List Member) : TablesOnly s (s.setMembers g r) := ⟨rfl,
    fun _ => rfl⟩

theorem TablesOnly.commit (s : State) (c : Nat) (ls : List Leg) : TablesOnly s
    (s.setWork { s.work with commitment := c, list := ls }) := ⟨rfl, fun _ => rfl⟩

theorem setMemberGroup_tables (m : Member) (g : Option Group) (s : State) : TablesOnly s (setMemberGroup m g s) := by
  cases m
  · exact .setLeg _ _ _
  · exact .setPos _ _ rfl

theorem joinGroup_tables (g : Group) (m : Member) (s : State) : TablesOnly s (joinGroup g m s) :=
    (TablesOnly.setMembers _ _ _).trans (setMemberGroup_tables _ _ _)

theorem leaveGroup_tables (g : Group) (m : Member) (s : State) : TablesOnly s (leaveGroup g m s) :=
    (TablesOnly.setMembers _ _ _).trans (setMemberGroup_tables _ _ _)

/-- Section 8.4: a change that applies acts on the tables alone. -/
theorem applyOp_tables (op : ChangeOp) (s : State) : TablesOnly s (applyOp op s) := by
  cases op with
  | legClose l =>
    simp only [applyOp, closeLeg]
    split
    · exact .refl s
    · refine TablesOnly.trans ?_ ((TablesOnly.commit _ _ _).trans (.setLeg _ _ _))
      split
      · exact leaveGroup_tables _ _ _
      · exact .refl s
  | groupAdd g m => exact joinGroup_tables _ _ _
  | groupRemove g m => exact leaveGroup_tables _ _ _
  | hold l m => simp only [applyOp, holdLeg]; split <;> first | exact .setLeg _ _ _ | exact .refl s
  | resume l => simp only [applyOp, resumeLeg]; split <;> first | exact .setLeg _ _ _ | exact .refl s
  | mute p on => exact .setPos _ _ rfl
  | supervise sup a mode coach => simp only [applyOp, putSupervision]; split <;> exact ⟨rfl, fun _ => rfl⟩
  | unsupervise sup => exact ⟨rfl, fun _ => rfl⟩
  | sendGain t gain => cases t; exact .setLeg _ _ _; exact .setPos _ _ rfl
  | micSet p trim offset floor sidetone => exact .setPos _ _ rfl
  | echoSet l bulk shift nlp =>
    simp only [applyOp, setEcho]
    split
    · exact .refl s
    · split
      · exact (TablesOnly.setLeg _ _ _).trans (.commit _ _ _)
      · exact .setLeg _ _ _

theorem purgeLeg_tables (l : Leg) (a : Applied) : TablesOnly a.state (purgeLeg l a).state := ⟨rfl, fun _ => rfl⟩

theorem applyChange_tables (a : Applied) (c : Change) : TablesOnly a.state (applyChange a c).state := by
  simp only [applyChange]
  split
  · exact (applyOp_tables _ _).trans (purgeLeg_tables _ _)
  · split <;> exact applyOp_tables _ _
  · exact applyOp_tables _ _

theorem setStage_tables (s : State) (c : ChangeClass) (st : Stage) : TablesOnly s (s.setStage c st) :=
    by cases c <;> exact ⟨rfl, fun _ => rfl⟩

theorem applyFold_tables (cs : List Change) : ∀ a : Applied, TablesOnly a.state (cs.foldl applyChange a).state := by
  induction cs with
  | nil => intro a; exact .refl _
  | cons c cs ih => intro a; exact (applyChange_tables a c).trans (ih _)

theorem applyClass_tables (a : Applied) (c : ChangeClass) : TablesOnly a.state (applyClass a c).state := by
  simp only [applyClass]
  exact (setStage_tables _ _ _).trans (applyFold_tables _ _)

theorem applyInOrder_tables (cs : List ChangeClass) : ∀ x, TablesOnly x.1.state (applyInOrder cs x).1.state := by
  induction cs with
  | nil => intro x; exact .refl _
  | cons c cs ih => intro x; exact (applyClass_tables x.1 c).trans (ih _)

/-- R169: APPLIED is all the report of a class changes. -/
theorem raiseApplied_eq (c : ChangeClass) (ap : List Change) (n : Nat) (s : State) : raiseApplied c ap n s = s.setLink
    (raiseApplied c ap n s).link ∧ Raises [0xC4] s (raiseApplied c ap n s) := by
  simp only [raiseApplied]
  split
  · exact ⟨rfl, .none rfl rfl⟩
  · exact ⟨rfl, .one _ _ (by simp [Detail.kind]) rfl rfl⟩

/-- R166 to R169: the application changes the tables and raises APPLIED alone. -/
theorem stageApplication_only (s : State) : TablesOnly s ((stageApplication s).1.setLink s.link) ∧
    Raises [0xC4] s (stageApplication s).1 := by
  refine ⟨?_, ?_⟩
  · have h1 := applyInOrder_tables (applyOrder s) ({ state := s, levelsDropped := 0, echoDropped := 0, fresh := [] }, [])
    simp only [stageApplication]
    generalize applyInOrder (applyOrder s) ({ state := s, levelsDropped := 0, echoDropped := 0, fresh := [] }, []) = x at h1
    have h2 : TablesOnly s (clearLatches x.1.state) := h1.trans ⟨rfl, fun _ => rfl⟩
    have hl : (clearLatches x.1.state).link = s.link := (congrArg State.link h2.1 :)
    rw [(raiseApplied_eq _ _ _ _).1, (raiseApplied_eq .levels _ _ _).1, (raiseApplied_eq .routing _ _ _).1]
    have : (clearLatches x.1.state).setLink s.link = clearLatches x.1.state := by rw [← hl]; rfl
    have h3 : TablesOnly s ((clearLatches x.1.state).setLink s.link) := by rw [this]; exact h2
    exact h3
  · have h1 := applyInOrder_tables (applyOrder s) ({ state := s, levelsDropped := 0, echoDropped := 0, fresh := [] }, [])
    simp only [stageApplication]
    generalize applyInOrder (applyOrder s) ({ state := s, levelsDropped := 0, echoDropped := 0, fresh := [] }, []) = x at h1
    have h2 : TablesOnly s (clearLatches x.1.state) := h1.trans ⟨rfl, fun _ => rfl⟩
    have hf : (clearLatches x.1.state).frame = s.frame := (congrArg State.frame h2.1 :)
    have hl : (clearLatches x.1.state).link = s.link := (congrArg State.link h2.1 :)
    generalize clearLatches x.1.state = u at hf hl
    exact (((raiseApplied_eq _ _ _ u).2.trans (raiseApplied_eq _ _ _ _).2).trans (raiseApplied_eq _ _ _ _).2).before hf hl

/-! ## Reads and faults -/

theorem takeFaults_only (ls : List Landed) (s : State) :
    ({ takeFaults ls s with fault := s.fault, link := s.link } : State) = s :=
  foldl_keeps (g := fun t : State => ({ t with fault := s.fault, link := s.link } : State)) (fun t x => by
    split
    · simp only [takeFault]; split <;> rfl
    · rfl) ls s

/-- R132: the fault record raises FAULT alone. -/
theorem takeFaults_raises (ls : List Landed) (s : State) : Raises [0xC2] s (takeFaults ls s) :=
  Raises.fold (fun t x => by
    split
    · simp only [takeFault]; split
      · exact .none rfl rfl
      · exact Raises.trans (.none rfl rfl) (.one _ _ (by simp [Detail.kind]) rfl rfl)
    · exact .none rfl rfl) ls s

/-- R132: what the fault record takes rests on the record, the frame counter and the landings alone. -/
theorem takeFaults_congr (ls : List Landed) : ∀ {s t : State}, s.fault = t.fault → s.frame = t.frame →
    (takeFaults ls s).fault = (takeFaults ls t).fault := by
  induction ls with
  | nil => intro s t h _; exact h
  | cons x xs ih =>
    intro s t h hf
    refine ih ?_ ?_
    · dsimp only; split
      · simp only [takeFault, h, hf]; split <;> simp [raise_eq]
      · exact h
    · dsimp only; split
      · simp only [takeFault, h]; split <;> simp [raise_eq, hf]
      · exact hf

/-! ## The mix reads the tables alone -/

/-- s and t hold the same of all that the mixer reads. -/
def MixAlike (s t : State) : Prop :=
  s.legs = t.legs ∧ s.positions = t.positions ∧ s.groups = t.groups ∧ s.supervision = t.supervision ∧
    s.quietMask = t.quietMask ∧ s.quietLevel = t.quietLevel ∧ s.sync = t.sync

theorem MixAlike.reads {s t : State} (h : MixAlike s t) :
    s.leg = t.leg ∧ s.pos = t.pos ∧ s.members = t.members ∧ asSupervisor s = asSupervisor t ∧ asAgent s = asAgent t ∧
      micAvailable s = micAvailable t := by
  obtain ⟨h1, h2, h3, h4, h5, h6, _⟩ := h
  have hp : s.pos = t.pos := by funext p; simp [State.pos, h2]
  exact ⟨by funext l; simp [State.leg, h1], hp, by funext g; simp [State.members, h3], by funext p; simp [asSupervisor, h4],
    by funext p; simp [asAgent, h4], by funext p; simp [micAvailable, quietBit, hp, h5, h6]⟩

theorem memberTerm_congr {s t : State} (h : MixAlike s t) : memberTerm s = memberTerm t := by
  obtain ⟨h1, h2, _, _, _, h6⟩ := h.reads
  funext x n m
  cases m <;> simp only [memberTerm, h1, h2, h6, h.2.2.2.2.2.2]

theorem bargeTerm_congr {s t : State} (h : MixAlike s t) : bargeTerm s = bargeTerm t := by
  obtain ⟨_, _, _, _, h5, _⟩ := h.reads
  funext x n k m
  cases m <;> simp only [bargeTerm, h5, memberTerm_congr h]

theorem groupSum_congr {s t : State} (h : MixAlike s t) : groupSum s = groupSum t := by
  funext x n g self k
  simp only [groupSum, h.reads.2.2.1, memberTerm_congr h, bargeTerm_congr h]

/-- R13: a slot's frame rests on the tables and the mix alone. -/
theorem slotFrame_congr {s t : State} (h : MixAlike s t) : slotFrame s = slotFrame t := by
  have ho : outboundSample s = outboundSample t := by
    funext x l n
    simp only [outboundSample, h.reads.1, groupSum_congr h]
  have hl : legOnSlot s = legOnSlot t := by funext k; simp only [legOnSlot, h.reads.1]
  funext x k
  simp only [slotFrame, hl, ho]

/-- R8: an ear's sample rests on the tables and the mix alone. -/
theorem earSample_congr {s t : State} (h : MixAlike s t) : earSample s = earSample t := by
  obtain ⟨h1, h2, h3, h4, h5, h6⟩ := h.reads
  funext x p n
  simp only [earSample, heardSum, directSum, coachTerm, h2, h4, h5, h6, groupSum_congr h, memberTerm_congr h]

/-- What the steps of the audio leave as it is. -/
def restOf (s : State) := (s.pending, s.draws, s.hold, s.part, s.progress, s.cause, s.straps, s.frame, s.sync, s.clock,
    s.groups,
  s.supervision, s.quietMask, s.quietLevel, s.free, s.classMap, s.areas, s.fault, s.routing, s.levels, s.echo)

theorem placeScan_only (it : Option FetchItem) (s : State) : ({ placeScan it s with fetch := s.fetch } : State) = s := by
  cases it <;> rfl

theorem placeScan_reads (it : Option FetchItem) (s : State) : (placeScan it s).reads = s.reads := by
  cases it <;> rfl

/-- Reads marked as given up keep their items. -/
theorem items_kept {s t : State} (h : ReadsKept s t) : t.reads.map Read.item = s.reads.map Read.item := by
  have := congrArg (List.map Read.item) h
  simpa [List.map_map, Function.comp_def] using this

theorem reads_kept_fresh {s t : State} (h : ReadsKept s t) (P : FetchItem → Area → Prop) (hs : ∀ x ∈ s.reads,
    P x.item x.settings ∧ x.words = [] ∧ x.failed = none) :
    ∀ x ∈ t.reads, P x.item x.settings ∧ x.words = [] ∧ x.failed = none := by
  intro x hx
  have : ({ x with dropped := false } : Read) ∈ s.reads.map (fun x => ({ x with dropped := false } : Read)) := by
    rw [← h]; exact List.mem_map.2 ⟨x, hx, rfl⟩
  obtain ⟨y, hy, he⟩ := List.mem_map.1 this
  have h0 := hs y hy
  have h1 : x.item = y.item := (congrArg Read.item he :).symm
  have h2 : x.settings = y.settings := (congrArg Read.settings he :).symm
  have h3 : x.words = y.words := (congrArg Read.words he :).symm
  have h4 : x.failed = y.failed := (congrArg Read.failed he :).symm
  rw [h1, h2, h3, h4]; exact h0

/-- The mix's inputs, from the lists the steps gather. -/
def mkMix (eo mo so : List (List Sample)) (po : List (Option (List Sample × Nat))) : MixIn :=
  { echo := vgen 24 (fun l => eo.getD l.val []), mic := vgen 16 (fun p => mo.getD p.val []),
    music := vgen 4 (fun m => so.getD m.val []), prompt := vgen 16 (fun p => po.getD p.val none) }

theorem pair_exists {α β : Type} (x : α × β) : ∃ a b, x = (a, b) := ⟨x.1, x.2, rfl⟩

/-- A frame start in RUNNING from the ramps on. -/
theorem audioFrame_eq (e : FrameEnd) (ls : List Landed) (o : Opening) (spare : Nat) (r : State) :
    ∃ (index : Position → Vector (List IndexEntry) 128) (x : MixIn) (u : State) (served : List FetchItem),
      let t := audioFrame e ls o spare r
      restOf t = restOf r ∧
      (∀ l, t.leg l = echoed e r (r.leg l)) ∧
      (∀ m, t.src m = (sourceFrame ls m r).1.src m) ∧
      t.scan = (landScan ls r).1.scan ∧ t.index = (landScan ls r).1.index ∧
      (∀ p, index p = r.index ∨ index p = t.index) ∧
      (∀ p, t.pos p = (playerFrame (index p) ls p (t.setPos p (micced r p (r.pos p)))).1.pos p) ∧
      (∀ l : Leg, x.echo[l] = echoOut e r (r.leg l)) ∧
      (∀ p : Position, x.mic[p] = micOut r p (r.pos p)) ∧
      (∀ m : Source, x.music[m] = (sourceFrame ls m r).2) ∧
      (∀ p : Position, x.prompt[p] = (playerFrame (index p) ls p (t.setPos p (micced r p (r.pos p)))).2) ∧
      (∀ k : NetSlot, t.ports.netTx[k] = slotFrame t x k) ∧
      (∀ p : Position, t.ports.headTx[p] = frameOf (earSample t x p)) ∧
      ({ t.ports with netTx := r.ports.netTx, headTx := r.ports.headTx } : Ports) = r.ports ∧
      Raises [0xC9, 0xC6, 0xC7, 0xC3, 0xC5] r t ∧
      ReadsKept r u ∧ t.reads = u.reads ++ served.map (openRead r) ∧
      t.work.last.unitsLeft + (served.map (fun it => (r.area it.area).cost)).sum = o.units ∧
      (∀ it, t.fetch.head? = some it → t.work.last.unitsLeft < (r.area it.area).cost) ∧
      t.work = { (echoStep e r).1.work with last := {
        stamp := r.frame, spare := spare, adaptations := o.granted.length, openingFetches := o.served.length,
        closingFetches := served.length, unitsLeft := t.work.last.unitsLeft, eligible := o.granted.length + o.todo.length,
        notServed := o.todo.length, itemsLeft := t.fetch.length } } ∧
      (∀ p, (t.pos p).enabled = (r.pos p).enabled) := by
  obtain ⟨E, eo, qE⟩ := pair_exists (echoStep e r)
  have hE := echoStep_only e r
  have hEr := echoStep_raises e r
  have hEl := echoStep_leg e r
  have hEo := echoStep_out e r
  simp only [qE] at hE hEr hEl hEo
  obtain ⟨M, mo, qM⟩ := pair_exists (micStep E)
  have hM := micStep_only E
  have hMp := micStep_pos E
  have hMo := micStep_out E
  simp only [qM] at hM hMp hMo
  obtain ⟨S, so, qS⟩ := pair_exists (sourceStep ls M)
  obtain ⟨hS1, hS2, hS, hSr, hSk⟩ := sourceStep_eq ls M
  simp only [qS] at hS1 hS2 hS hSr hSk
  obtain ⟨C, co, qC⟩ := pair_exists (landScan ls S)
  have hC := landScan_only ls S
  have hCr := landScan_raises ls S
  simp only [qC] at hC hCr
  obtain ⟨P, po, qP⟩ := pair_exists (playerStep ls S.index C.index C)
  obtain ⟨hP1, hP2, hP, hPr, hPk⟩ := playerStep_eq ls S.index C.index C
  simp only [qP] at hP1 hP2 hP hPr hPk
  obtain ⟨D, qD⟩ : ∃ D, placeScan co P = D := ⟨_, rfl⟩
  have hD := placeScan_only co P
  have hDr := placeScan_reads co P
  rw [qD] at hD hDr
  obtain ⟨served, hc1, hc2, hc3, hc4, hc5⟩ := closingPart_eq o spare D
  have hc := closingPart_only o spare D
  obtain ⟨K, qK⟩ : ∃ K, closingPart o spare D = K := ⟨_, rfl⟩
  rw [qK] at hc hc1 hc2 hc3 hc4 hc5
  have qA : audioFrame e ls o spare r = formFrames (mkMix eo mo so po) K := by
    simp only [audioFrame, mkMix, qE, qM, qS, qC, qP, qD, qK]
  rw [qA]
  obtain ⟨X, qX⟩ : ∃ X, mkMix eo mo so po = X := ⟨_, rfl⟩
  rw [qX]
  -- what stays
  have rE : restOf E = restOf r := (congrArg restOf hE :)
  have rM : restOf M = restOf E := (congrArg restOf hM :)
  have rS : restOf S = restOf M := (congrArg restOf hS :)
  have rC : restOf C = restOf S := (congrArg restOf hC :)
  have rP : restOf P = restOf C := (congrArg restOf hP.1 :)
  have rD : restOf D = restOf P := (congrArg restOf hD :)
  have rK : restOf K = restOf D := (congrArg restOf hc :)
  have rT : restOf (formFrames X K) = restOf r := by
    have : restOf (formFrames X K) = restOf K := rfl
    rw [this, rK, rD, rP, rC, rS, rM, rE]
  -- fields
  have lM : M.legs = E.legs := (congrArg State.legs hM :)
  have lS : S.legs = M.legs := (congrArg State.legs hS :)
  have lC : C.legs = S.legs := (congrArg State.legs hC :)
  have lP : P.legs = C.legs := (congrArg State.legs hP.1 :)
  have lD : D.legs = P.legs := (congrArg State.legs hD :)
  have lK : K.legs = D.legs := (congrArg State.legs hc :)
  have pE : E.positions = r.positions := (congrArg State.positions hE :)
  have pS : S.positions = M.positions := (congrArg State.positions hS :)
  have pC : C.positions = S.positions := (congrArg State.positions hC :)
  have pD : D.positions = P.positions := (congrArg State.positions hD :)
  have pK : K.positions = D.positions := (congrArg State.positions hc :)
  have sE : E.sources = r.sources := (congrArg State.sources hE :)
  have sM : M.sources = E.sources := (congrArg State.sources hM :)
  have sC : C.sources = S.sources := (congrArg State.sources hC :)
  have sP : P.sources = C.sources := (congrArg State.sources hP.1 :)
  have sD : D.sources = P.sources := (congrArg State.sources hD :)
  have sK : K.sources = D.sources := (congrArg State.sources hc :)
  have poE : E.ports = r.ports := (congrArg State.ports hE :)
  have poM : M.ports = E.ports := (congrArg State.ports hM :)
  have poS : S.ports = M.ports := (congrArg State.ports hS :)
  have poC : C.ports = S.ports := (congrArg State.ports hC :)
  have poP : P.ports = C.ports := (congrArg State.ports hP.1 :)
  have poD : D.ports = P.ports := (congrArg State.ports hD :)
  have poK : K.ports = D.ports := (congrArg State.ports hc :)
  have scE : E.scan = r.scan := (congrArg State.scan hE :)
  have scM : M.scan = E.scan := (congrArg State.scan hM :)
  have scS : S.scan = M.scan := (congrArg State.scan hS :)
  have scP : P.scan = C.scan := (congrArg State.scan hP.1 :)
  have scD : D.scan = P.scan := (congrArg State.scan hD :)
  have scK : K.scan = D.scan := (congrArg State.scan hc :)
  have ixE : E.index = r.index := (congrArg State.index hE :)
  have ixM : M.index = E.index := (congrArg State.index hM :)
  have ixS : S.index = M.index := (congrArg State.index hS :)
  have ixP : P.index = C.index := (congrArg State.index hP.1 :)
  have ixD : D.index = P.index := (congrArg State.index hD :)
  have ixK : K.index = D.index := (congrArg State.index hc :)
  have wM : M.work = E.work := (congrArg State.work hM :)
  have wS : S.work = M.work := (congrArg State.work hS :)
  have wC : C.work = S.work := (congrArg State.work hC :)
  have wP : P.work = C.work := (congrArg State.work hP.1 :)
  have wD : D.work = P.work := (congrArg State.work hD :)
  have rdE : E.reads = r.reads := (congrArg State.reads hE :)
  have rdM : M.reads = E.reads := (congrArg State.reads hM :)
  have rdC : C.reads = S.reads := (congrArg State.reads hC :)
  have liM : M.link = E.link := (congrArg State.link hM :)
  have liD : D.link = P.link := (congrArg State.link hD :)
  have liK : K.link = D.link := (congrArg State.link hc :)
  have aE : E.areas = r.areas := (congrArg State.areas hE :)
  have aM : M.areas = E.areas := (congrArg State.areas hM :)
  have aS : S.areas = M.areas := (congrArg State.areas hS :)
  have aC : C.areas = S.areas := (congrArg State.areas hC :)
  have aP : P.areas = C.areas := (congrArg State.areas hP.1 :)
  have aD : D.areas = P.areas := (congrArg State.areas hD :)
  have fM : M.frame = E.frame := (congrArg State.frame hM :)
  have fS : S.frame = M.frame := (congrArg State.frame hS :)
  have fE : E.frame = r.frame := (congrArg State.frame hE :)
  have fC : C.frame = S.frame := (congrArg State.frame hC :)
  have fP : P.frame = C.frame := (congrArg State.frame hP.1 :)
  have fD : D.frame = P.frame := (congrArg State.frame hD :)
  have fK : K.frame = D.frame := (congrArg State.frame hc :)
  have qmE : E.quietMask = r.quietMask := (congrArg State.quietMask hE :)
  have qlE : E.quietLevel = r.quietLevel := (congrArg State.quietLevel hE :)
  -- the scan
  have hC' : (landScan ls S).1.scan = (landScan ls r).1.scan ∧ (landScan ls S).1.index = (landScan ls r).1.index := by
    have := landScan_congr ls (s := S) (t := r) (by rw [scS, scM, scE]) (by rw [ixS, ixM, ixE]) (by rw [aS, aM, aE])
    exact ⟨this.1, this.2.1⟩
  rw [qC] at hC'
  simp only at hC'
  -- the microphones
  have gE : ∀ p, E.pos p = r.pos p := by intro p; simp [State.pos, pE]
  have hmic : ∀ p, micced E p (E.pos p) = micced r p (r.pos p) := by
    intro p; simp only [micced, headInbound, quietBit, poE, qmE, qlE, gE]
  have hmo : ∀ p, micOut E p (E.pos p) = micOut r p (r.pos p) := by
    intro p; simp only [micOut, headInbound, poE, gE]
  have gC : ∀ p, C.pos p = micced r p (r.pos p) := by
    intro p
    have : C.pos p = M.pos p := by simp [State.pos, pC, pS]
    rw [this, hMp, hmic]
  have gT : ∀ p, (formFrames X K).pos p = P.pos p := by intro p; show K.pos p = _; simp [State.pos, pK, pD]
  -- the players
  have hsee : ∀ p, SeenAlike p C ((formFrames X K).setPos p (micced r p (r.pos p))) := by
    intro p
    refine ⟨?_, ?_, ?_, ?_, ?_, ?_, ?_, fun q => ?_⟩
    · rw [gC]; simp
    · show C.frame = K.frame; rw [fK, fD, fP]
    · show C.legs = K.legs; rw [lK, lD, lP]
    · have : K.groups = C.groups := by
        have h1 : K.groups = D.groups := (congrArg State.groups hc :)
        have h2 : D.groups = P.groups := (congrArg State.groups hD :)
        have h3 : P.groups = C.groups := (congrArg State.groups hP.1 :)
        rw [h1, h2, h3]
      exact this.symm
    · have : K.supervision = C.supervision := by
        have h1 : K.supervision = D.supervision := (congrArg State.supervision hc :)
        have h2 : D.supervision = P.supervision := (congrArg State.supervision hD :)
        have h3 : P.supervision = C.supervision := (congrArg State.supervision hP.1 :)
        rw [h1, h2, h3]
      exact this.symm
    · have : K.quietMask = C.quietMask := by
        have h1 : K.quietMask = D.quietMask := (congrArg State.quietMask hc :)
        have h2 : D.quietMask = P.quietMask := (congrArg State.quietMask hD :)
        have h3 : P.quietMask = C.quietMask := (congrArg State.quietMask hP.1 :)
        rw [h1, h2, h3]
      exact this.symm
    · have : K.quietLevel = C.quietLevel := by
        have h1 : K.quietLevel = D.quietLevel := (congrArg State.quietLevel hc :)
        have h2 : D.quietLevel = P.quietLevel := (congrArg State.quietLevel hD :)
        have h3 : P.quietLevel = C.quietLevel := (congrArg State.quietLevel hP.1 :)
        rw [h1, h2, h3]
      exact this.symm
    · by_cases hq : q = p
      · subst hq; rw [State.pos_setPos_same, gC]; exact ⟨rfl, rfl, rfl⟩
      · rw [State.pos_setPos_other _ _ _ _ hq, gT]
        have h3 := hP.2 q
        exact ⟨(congrArg PosRec.mic h3 :).symm, (congrArg PosRec.enabled h3 :).symm, (congrArg PosRec.muted h3 :).symm⟩
  have ixC : C.index = (landScan ls r).1.index := hC'.2
  have ixT : (formFrames X K).index = C.index := by show K.index = _; rw [ixK, ixD, ixP]
  have sr : ∀ m, M.src m = r.src m := by intro m; simp [State.src, sM, sE]
  have hso : ∀ m, (sourceFrame ls m M) = ((sourceFrame ls m M).1, (sourceFrame ls m r).2) := by
    intro m; rw [← (sourceFrame_congr ls m (sr m)).2]
  have mixT : MixAlike K (formFrames X K) := ⟨rfl, rfl, rfl, rfl, rfl, rfl, rfl⟩
  let ixs := fun p : Position => if Config.selectsAfterScan C.draws p.val then C.index else S.index
  have hpl : ∀ p, _ ∧ _ := fun p => (hsee p).player (ixs p) ls
  refine ⟨ixs, X, P, served, rT, ?_, ?_, ?_, ?_, ?_, ?_, ?_, ?_, ?_, ?_, ?_, ?_, ?_, ?_, ?_, ?_, ?_, ?_, ?_, ?_⟩
  · intro l
    have : (formFrames X K).leg l = E.leg l := by
      show K.leg l = _; simp only [State.leg, lK, lD, lP, lC, lS, lM]
    rw [this, hEl]
  · intro m
    have : (formFrames X K).src m = S.src m := by show K.src m = _; simp only [State.src, sK, sD, sP, sC]
    rw [this, hS1, (sourceFrame_congr ls m (sr m)).1]
  · show K.scan = _; rw [scK, scD, scP, hC'.1]
  · show K.index = _; rw [ixK, ixD, ixP, hC'.2]
  · intro p
    by_cases h : Config.selectsAfterScan C.draws p.val = true
    · right; simp only [ixs, h, if_true]; exact ixT.symm
    · left; simp only [ixs, h]; simp [ixS, ixM, ixE]
  · intro p
    rw [gT, hP1, ← (hpl p).1]
  · intro l
    rw [← qX]; simp only [mkMix, hEo]
    simp [vgen, List.getD]
  · intro p
    rw [← qX]; simp only [mkMix, hMo, hmo]
    simp [vgen, List.getD]
  · intro m
    rw [← qX]; simp only [mkMix, hS2]
    simp [vgen, List.getD, (sourceFrame_congr ls m (sr m)).2]
  · intro p
    have xp : X.prompt[p] = (playerFrame (ixs p) ls p C).2 := by
      rw [← qX]; simp only [mkMix, hP2]
      simp [vgen, List.getD, ixs]
    rw [xp]; exact (hpl p).2
  · intro k
    rw [← slotFrame_congr mixT]; simp [formFrames, vgen]
  · intro p
    rw [← earSample_congr mixT]; simp [formFrames, vgen]
  · have : K.ports = r.ports := by rw [poK, poD, poP, poC, poS, poM, poE]
    rw [← this]; rfl
  · have h1 : Raises [0xC9, 0xC6, 0xC7, 0xC3, 0xC5] r E := hEr.mono (by simp)
    have h2 : Raises [0xC9, 0xC6, 0xC7, 0xC3, 0xC5] E M := .none fM liM
    have h3 : Raises [0xC9, 0xC6, 0xC7, 0xC3, 0xC5] M S := hSr.mono (by simp)
    have h4 : Raises [0xC9, 0xC6, 0xC7, 0xC3, 0xC5] S C := hCr.mono (by simp)
    have h5 : Raises [0xC9, 0xC6, 0xC7, 0xC3, 0xC5] C P := hPr.mono (by simp)
    have h6 : Raises [0xC9, 0xC6, 0xC7, 0xC3, 0xC5] P (formFrames X K) := .none (by show K.frame = _; rw [fK, fD])
        (by show K.link = _; rw [liK, liD])
    exact ((((h1.trans h2).trans h3).trans h4).trans h5).trans h6
  · simp only [ReadsKept] at hSk hPk ⊢
    rw [hPk, rdC, hSk, rdM, rdE]
  · show K.reads = _
    rw [hc2, hDr]
    have : openRead D = openRead r := by funext it; simp [openRead, State.area, aD, aP, aC, aS, aM, aE]
    rw [this]
  · have : ∀ a, D.area a = r.area a := by intro a; simp [State.area, aD, aP, aC, aS, aM, aE]
    simp only [this] at hc3
    exact hc3
  · have : ∀ a, D.area a = r.area a := by intro a; simp [State.area, aD, aP, aC, aS, aM, aE]
    simp only [this] at hc4
    exact hc4
  · show K.work = _
    have : D.frame = r.frame := by rw [fD, fP, fC, fS, fM, fE]
    rw [hc5, this]
    have : D.work = E.work := by rw [wD, wP, wC, wS, wM]
    rw [this, qE]; rfl
  · intro p
    rw [gT]
    have h3 : (P.pos p).enabled = (C.pos p).enabled := (congrArg PosRec.enabled (hP.2 p) :)
    rw [h3, gC]
    simp only [micced]; split <;> rfl

/-- What the end of a frame start leaves: the collection emptied, the frame start taken, the new notices in their order. -/
def endFrame (n d : Nat) (u : State) : State := { orderNew n (closeFrame u) with draws := d }

/-- R7, R129: the start of a frame start, up to the reads that land. -/
theorem landedState (e : FrameEnd) (quiet : Bool) (s : State) :
    let v := (landReads (openFrame e quiet s)).1
    ({ v with frame := s.frame, quietLevel := s.quietLevel, legs := s.legs, reads := s.reads, fault := s.fault, link := s.link } : State) = s ∧
    v.frame = s.frame + 1 ∧ v.quietLevel = quiet ∧ v.reads = [] ∧
    (∀ l, (v.leg l).state = (s.leg l).state) ∧ v.fault =
        (takeFaults (s.reads.map Read.land) { s with frame := s.frame + 1 }).fault ∧
    Raises [0xC2] { s with frame := s.frame + 1 } v := by
  have h := takeFaults_only (s.reads.map Read.land) { openFrame e quiet s with reads := [] }
  have hr := takeFaults_raises (s.reads.map Read.land) { openFrame e quiet s with reads := [] }
  have hf : (takeFaults (s.reads.map Read.land) { openFrame e quiet s with reads := [] }).fault = _ :=
    takeFaults_congr (s.reads.map Read.land) (s := { openFrame e quiet s with reads := [] }) (t :=
        { s with frame := s.frame + 1 }) rfl rfl
  have hv : (landReads (openFrame e quiet s)).1 = takeFaults
      (s.reads.map Read.land) { openFrame e quiet s with reads := [] } := rfl
  simp only [hv]
  generalize takeFaults (s.reads.map Read.land) { openFrame e quiet s with reads := [] } = v at *
  have h2 := congrArg (fun u : State => ({ u with frame := s.frame, quietLevel := s.quietLevel, legs := s.legs, reads := s.reads, fault := s.fault, link := s.link } : State)) h
  refine ⟨h2, (congrArg State.frame h :), (congrArg State.quietLevel h :), (congrArg State.reads h :), ?_, hf,
      hr.before rfl rfl⟩
  intro l
  have hl : v.legs = vmap (completeHistory e) s.legs := (congrArg State.legs h :)
  have hg : (vmap (completeHistory e) s.legs)[l] = completeHistory e s.legs[l] := by simp [vmap]
  simp only [State.leg, hl, hg, completeHistory]
  cases e
  · rfl
  · dsimp only; split <;> rfl

/-- The keys of the entries that stood before stay as they are through raises and the ordering of the new ones. -/
theorem keys_kept {ks : List Nat} {s u : State} (h : Raises ks s u) (n : Nat) (hn : n = s.link.notices.length) :
    (((orderNew n u).link.notices).take n).map (fun x => (x.detail.kind, x.subject)) =
        s.link.notices.map (fun x => (x.detail.kind, x.subject)) ∧
    ({ (orderNew n u).link with notices := s.link.notices, reading := s.link.reading } : Link) = s.link := by
  obtain ⟨_, rs, _, hl⟩ := h
  obtain ⟨h1, h2, h3⟩ := raiseAll_link rs s
  rw [← hl] at h1 h2 h3
  refine ⟨?_, ?_⟩
  · rw [← h3, hn]
    show ((u.link.notices.take s.link.notices.length ++ _).take s.link.notices.length).map _ = _
    rw [List.take_append_of_le_length (by rw [List.length_take]; omega), List.take_take, Nat.min_self]
  · exact h1 _ _

/-- What stays through a whole frame start. -/
def keptOf (s : State) := (s.pending, s.hold, s.part, s.progress, s.cause, s.straps, s.sync, s.quietMask, s.free, s.classMap,
    s.areas)

/-- States that agree in what a frame start keeps differ in the other fields alone. -/
theorem frame_from_kept {s t : State} (h : keptOf t = keptOf s) :
    ({ t with
        frame := s.frame, quietLevel := s.quietLevel, clock := s.clock, ports := s.ports, link := s.link, legs := s.legs,
        positions := s.positions, groups := s.groups, supervision := s.supervision, sources := s.sources, index := s.index,
        fetch := s.fetch, reads := s.reads, fault := s.fault, scan := s.scan, work := s.work, routing := s.routing,
        levels := s.levels, echo := s.echo, draws := s.draws } : State) = s := by
  simp only [keptOf, Prod.mk.injEq] at h
  obtain ⟨h1, h2, h3, h4, h5, h6, h7, h8, h9, h10, h11⟩ := h
  rw [h1, h2, h3, h4, h5, h6, h7, h8, h9, h10, h11]

theorem echoFrame_keeps (r : LegRec) (d : List Sample) :
    (echoFrame r d).1.ec.divergenceResets = r.ec.divergenceResets := rfl

/-- The state after the opening part: A is the state the changes left. -/
theorem openedState (o : Opening) (A : State) :
    let d := settleOpening o A
    keptOf d = keptOf A ∧ d.frame = A.frame ∧ d.quietLevel = A.quietLevel ∧ d.positions = A.positions ∧ d.groups = A.groups ∧
    d.supervision = A.supervision ∧ d.sources = A.sources ∧ d.ports = A.ports ∧ d.clock = A.clock ∧ d.scan = A.scan ∧
        d.index = A.index ∧ d.fault = A.fault ∧
    d.routing = A.routing ∧ d.levels = A.levels ∧ d.echo = A.echo ∧ d.draws = A.draws ∧ d.areas = A.areas ∧
    d.work.commitment = A.work.commitment ∧ d.work.ceiling = A.work.ceiling ∧ d.work.ratio = A.work.ratio := by
  have h := settleOpening_only o A
  simp only
  generalize settleOpening o A = d at h
  exact ⟨(congrArg keptOf h :), (congrArg State.frame h :), (congrArg State.quietLevel h :), (congrArg State.positions h :),
      (congrArg State.groups h :),
    (congrArg State.supervision h :), (congrArg State.sources h :), (congrArg State.ports h :), (congrArg State.clock h :),
        (congrArg State.scan h :),
    (congrArg State.index h :), (congrArg State.fault h :), (congrArg State.routing h :), (congrArg State.levels h :),
        (congrArg State.echo h :),
    (congrArg State.draws h :), (congrArg State.areas h :), (congrArg (fun x : State => x.work.commitment) h :),
        (congrArg (fun x : State => x.work.ceiling) h :),
    (congrArg (fun x : State => x.work.ratio) h :)⟩

end Sys2Proof.Machine
end

