-- ==== Sys2Proof/WellFormed.lean ====
section
/-! DEFINITION. What a command's operands may be.  Object numbers, slot values and levels are well formed by their types;
the checks that remain are those of a list's length and of a time. -/

namespace Sys2Proof

/-- A transfer has a first byte (R191); a pulse comes within 250 µs of the last one, else sync is lost first
(R181), and so within 312.5 µs of the start of the period in progress, which a relock at up to 62.5 µs may prolong (R183); a fetch item has 1 to 256 words (R128); an outgoing frame has at most 254 bytes (R214). -/
def Instr.wf : Instr → Bool
  | .powerOn => true
  | .resetnAssert => true
  | .resetRelease _ => true
  | .selftestPhaseEnd _ => true
  | .writeTransfer bytes => !bytes.isEmpty
  | .readTransfer => true
  | .badRequest => true
  | .identify => true
  | .status => true
  | .start => true
  | .stop => true
  | .reset _ => true
  | .linkStatus => true
  | .legOpen => true
  | .legClose => true
  | .groupAdd => true
  | .groupRemove => true
  | .hold => true
  | .resume => true
  | .mute => true
  | .supervise => true
  | .unsupervise => true
  | .positionSet => true
  | .sendGain => true
  | .legQuery => true
  | .positionQuery => true
  | .groupQuery => true
  | .echoSet => true
  | .echoTail => true
  | .echoReset => true
  | .echoQuery => true
  | .micSet => true
  | .quietMask => true
  | .micQuery => true
  | .sourceSet => true
  | .sourceStart => true
  | .sourceStop => true
  | .streamData => true
  | .sourceQuery => true
  | .promptQueue => true
  | .promptCancel => true
  | .promptDrain => true
  | .classMap => true
  | .promptQuery => true
  | .areaSet => true
  | .reindex => true
  | .clipDeclare => true
  | .clipForget => true
  | .clipLookup => true
  | .faultRead => true
  | .budgetSet => true
  | .budgetQuery => true
  | .stageMode => true
  | .apply => true
  | .discard => true
  | .stageQuery => true
  | .portTest => true
  | .portTestRead => true
  | .portTestStop => true
  | .syncQuery => true
  | .applyEdge => true
  | .nsyncPulse since => decide (since < 1250)
  | .syncRelock => true
  | .syncLoss => true
  | .flywheelPeriod => true
  | .internalMark => true
  | .samplePeriod _ _ => true
  | .fetchRead words => !words.isEmpty && decide (words.length ≤ 256)
  | .wordReadTimeout => true
  | .frameStart _ => true
  | .adaptStarved _ => true
  | .dtHangoverExpiry _ => true
  | .callerHangoverExpiry _ => true
  | .divergenceReset _ => true
  | .vadHangoverExpiry _ => true
  | .toneCadenceWrap _ => true
  | .promptExpire _ => true
  | .readTransferEnd clocked => decide (clocked ≤ 254)

end Sys2Proof
end

