-- ==== Sys2Proof/Tests/Slice0.lean ====
section
/-! SUPPORT. Tests: the checks of WellFormed, the manual's worked cases, and a state that meets each statement's hypotheses. -/

namespace Sys2Proof.Tests

open Sys2Proof Sys2Proof.Machine

-- The kernel evaluations below run one after the other: all at once they would need a thread each.
set_option Elab.async false

/-! ## Ill-formed commands are refused -/

theorem test_wf_empty_transfer : Instr.wf (.writeTransfer []) = false := by decide
theorem test_wf_late_pulse : Instr.wf (.nsyncPulse 1250) = false := by decide
theorem test_wf_pulse_edge : Instr.wf (.nsyncPulse 1249) = true := by decide
theorem test_wf_no_words : Instr.wf (.fetchRead []) = false := by decide
theorem test_wf_too_many_words : Instr.wf (.fetchRead (List.replicate 257 0#16)) = false := by decide +kernel
theorem test_wf_read_end : Instr.wf (.readTransferEnd 255) = false := by decide

/-! ## The manual's worked arithmetic -/

-- 2.4, prediction and the rounding of a negative one.
theorem test_predict : predictEcho [536870912, -268435456] [2000, 1000] = 750 := by decide +kernel
theorem test_predict_negative : predictEcho [536870912, -268435456, -536870912] [-2000, -1000, 1] = -750 := by decide +kernel
-- 2.4, update: the quotient is truncated toward zero, and a tap is clamped.
theorem test_coefficient : updateCoefficient 1200 1 300000000 128 = 2147 ∧ updateCoefficient (-1200) 1 300000000 128 = -2147 := by
  decide +kernel
theorem test_tap_clamp : updateTaps 2147 [100000000, 2147000000, -2147000000] [1500, 1500, -1500] =
    [103220500, 2147483647, -2147483648] := by decide +kernel
-- 2.4, double talk: 480 at sample 20, then 43 samples without detection.
theorem test_hangover : (List.range 43).foldl (fun h _ => stepHangover false h) (stepHangover true 0) = 437 := by decide +kernel
-- 2.4, divergence: a frame with Ex below 65536 breaks the run.
theorem test_divergence : stepDivergence 850000 1020000 3800000 1 = 2 ∧ stepDivergence 40000 45000 30000 2 = 0 := by decide
-- R16 and R54, the two clamped admissions.
theorem test_admission : grantedTail 48 1000 = 704 ∧ grantedGrowth 58 512 1024 = 864 ∧ grantedGrowth 96 864 256 = 256 := by decide
-- R53 example.
theorem test_bulk : bulkValue 130 = 128 ∧ clampTo 0 6 9 = 6 := by decide
-- 3.6, trim, and the example of R72.
theorem test_trim : trimSample 5000 8 1000 = 1211 ∧ trimSample 8192 (-2048) 30000 = 32767 ∧ trimSample 16383 0 3000 = 11999 := by
  decide +kernel
-- 3.6, the band split of two samples of 1000 after an enable.
theorem test_bands : ([1000, 1000].foldl (fun a m => bandSample m a) { s1 := 0, s2 := 0, s3 := 0, held := [] }).held =
    [⟨60000, 52000, 80000, 64000⟩, ⟨32000, 32000, 64000, 128000⟩] := by decide +kernel
-- 3.6, floors and gains over frames 1 to 3.
theorem test_floors : stepFloor false 4000 0 = 4000 ∧ stepFloor true 2100 2000 = 2008 ∧ stepFloor true 60000 3800 = 3815 ∧
    stepFloor true 1500 2016 = 1500 := by decide
theorem test_gains : stepGain 8192 false 32768 = 28672 ∧ stepGain 8192 false 8623 = 8192 ∧ stepGain 8192 true 25088 = 32768 := by
  decide
theorem test_mic_output : micOutput ⟨28672, 28672, 19208, 19208⟩ ⟨2560, -1280, 768, 256⟩ = 7 := by decide +kernel
-- 1.7 and 1.10, the two ears, and the outbound beneath a barge.
theorem test_ear : earValue 16384 (1000 * 32768) (4000 * 16384 * 32768) = 2500 ∧
    earValue 8192 (1200 * 32768) (800 * 32768 * 32768) = 1100 := by decide +kernel
theorem test_outbound : outboundValue (2000 * 32768 + 1000 * 16384) = 2500 ∧ heldValue 8192 2048 = 512 := by decide +kernel
-- R14: 12 falls to 8192 and 24 rises back.
theorem test_duck : (List.range 12).foldl (fun d _ => moveDuck 8192 d) 32768 = 8192 ∧
    (List.range 23).foldl (fun d _ => moveDuck 32768 d) 8192 = 31744 := by decide +kernel
-- 4.6, the cadenced tone at phases 0, 32768 and 49152.
theorem test_tone : triangle 0 = -32768 ∧ triangle 32768 = 32767 ∧ triangle 49152 = -1 ∧ levelled 16384 (-16384) = -8192 ∧
    levelled 16384 16384 = 8192 := by decide +kernel
-- 6.8, buckets and the clip that runs past its area.
theorem test_clips : (bucketOf 389).val = 5 ∧ (bucketOf 700).val = 60 ∧
    validLocation { blankArea true with size := 16 } 1048000 400 = false := by decide +kernel
-- R192: the check over the nine bytes 0x31 to 0x39.
theorem test_crc : crc [0x31, 0x32, 0x33, 0x34, 0x35, 0x36, 0x37, 0x38, 0x39] = 0x29B1#16 := by decide +kernel
-- 7.5, the worked service at frame start k: P2, M1 and the scan served, L2, L11, L15, L3 granted, 124 units left.
theorem test_service :
    let o := openingRounds (fun _ => 16) (fun _ => 128) 2 24
      { units := 684
        fetch := [⟨.prompt 2, 0, 0, 512⟩, ⟨.source 1, 0, 0, 512⟩, ⟨.scan, 0, 0, 256⟩], served := []
        todo := [2, 11, 15, 3, 8, 1, 4, 5, 7, 9, 10, 12, 13, 14, 16, 17, 18, 19, 20], granted := [], fetchStopped := false,
        adaptStopped := false }
    o.units = 124 ∧ o.served.length = 3 ∧ o.granted = [2, 11, 15, 3] := by decide +kernel
-- R186: a search for word 0, a lock after word 7, and a mismatch that is not itself tried as word 0.
theorem test_pattern :
    let t : PortTest := { startedTest 4 .rx [1, 2, 3, 4, 5, 6, 7, 8] with expected := none }
    let found := [9, 1, 2, 3, 4, 5, 6, 7, 8].foldl (fun t v => checkedWord v t) t
    found.state = .locked ∧ found.passes = 1 ∧ found.expected = some 0 ∧
      (checkedWord 2 found).state = .seeking ∧ (checkedWord 2 found).errors = 1 ∧ (checkedWord 2 found).expected = none := by
  decide +kernel
-- 4.8: the second STREAM_LOW is folded into the first, in its place before the SOURCE_STARVED.
theorem test_coalesce : raiseIn 5013 1 (.streamLow 472)
    (raiseIn 5010 1 (.sourceStarved .underrun) (raiseIn 5002 1 (.streamLow 508) [])) =
    [{ subject := 1, count := 2, stamp := 5013, detail := .streamLow 472 },
     { subject := 1, count := 1, stamp := 5010, detail := .sourceStarved .underrun }] := by decide +kernel

/-! ## States and requests the witnesses are made of -/

/-- A request of this kind and body, with tag 7. -/
def rq (k : Byte) (b : List Byte) : Request := { kind := k, tag := 7#8, body := b }

/-- The state with that request alone in the request queue. -/
def ask (k : Byte) (b : List Byte) (s : State) : State := s.setLink { s.link with requests := [rq k b] }

/-- A part just started. -/
def running : State := { State.reset with part := .running }

/-- A prompt waiting, and the same prompt on another handle in a slot. -/
def waiting : PromptRec :=
  { handle := 3, clip := 9, cls := 2, level := 1, start := .now, gain := 32768, duck := 16384, deadline := 5, repeats := 1,
    played := 0, wait := 4, cancel := false, underruns := 0, state := .pending, result := none, stamp := 0 }

def playing : Playing :=
  { prompt := { waiting with handle := 5, state := .playing }, loc := { area := 0, offset := 0, length := 96, rate := .khz8 },
    half0 := .empty, half1 := .empty, index := 0, phase := .first, next := none }

/-- L0 OPEN on slot 4 in G2 with P0, L1 HELD on M0 on slot 5; P0 and P2 agents, P1 a supervisor; P2 has prompts. -/
def call : State :=
  let s := running.setLeg 0 { blankLeg with state := .opened, slot := some 4, group := some 2 }
  let s := s.setLeg 1 { blankLeg with state := .held, slot := some 5, source := some 0 }
  let s := s.setPos 0 { blankPos with enabled := true, group := some 2 }
  let s := s.setPos 1 { blankPos with enabled := true, role := .supervisor }
  let s := s.setPos 2 { blankPos with enabled := true, queue := [waiting], slot := some playing,
                                      done := [{ waiting with handle := 4, state := .done, result := some .complete }] }
  let s := s.setMembers 2 [.leg 0, .pos 0]
  { s.setWork { s.work with commitment := 208, list := [1, 0] } with free := (List.finRange 128).drop 6 }

theorem due_call (k : Byte) (b : List Byte) : HeadDue k (rq k b) [] (ask k b call) := ⟨rfl, rfl, rfl, Nat.zero_lt_succ _⟩

theorem due_reset (k : Byte) (b : List Byte) : HeadDue k (rq k b) [] (ask k b State.reset) :=
  ⟨rfl, rfl, rfl, Nat.zero_lt_succ _⟩

/-- Nothing is pending, so the projected state is the state. -/
theorem projected_call (k : Byte) (b : List Byte) : projected (ask k b call) = ask k b call := rfl

theorem serving_call (k : Byte) (b : List Byte) : Serving (ask k b call) := .inr rfl

theorem serving_reset (k : Byte) (b : List Byte) : Serving (ask k b State.reset) := .inl rfl

/-! ## The machine, reset and the link: a state for each statement's hypotheses -/

theorem test_meets_step : (State.reset.setPending [.identify]).pending = .identify :: [] ∧ State.reset.pending = [] := ⟨rfl, rfl⟩

/-- One short transfer, then what the link keeps. -/
theorem test_meets_link_bounded : ∃ t, LinkBounded (State.reset.setPending [.writeTransfer [0xA5#8]]) ∧
    step (State.reset.setPending [.writeTransfer [0xA5#8]]) = .next t ∧ t.link.short = 1 :=
  ⟨_, by unfold LinkBounded; decide +kernel, rfl, by decide +kernel⟩

/-- A sync loss, which raises a notice. -/
theorem test_meets_notices : ∃ t, NoticesDistinct (State.reset.setPending [.syncLoss]) ∧
    step (State.reset.setPending [.syncLoss]) = .next t ∧ t.link.notices.length = 2 :=
  ⟨_, ⟨by decide +kernel, by decide +kernel⟩, rfl, by decide +kernel⟩

theorem test_meets_limits : ∃ t, LimitsHeld (State.reset.setPending [.nsyncPulse 250]) ∧
    step (State.reset.setPending [.nsyncPulse 250]) = .next t ∧ t.sync.seeking = 1 :=
  ⟨_, by unfold LimitsHeld ClassesHeld; decide +kernel, rfl, by decide +kernel⟩

/-- P0 speaks its last frame of voice activity. -/
def lastFrame : State := call.setPos 0 { call.pos 0 with mic := { blankMic with vad := true, vadHangover := 1 } }

theorem test_meets_activity : ∃ t, ActivityHeld (lastFrame.setPending [.vadHangoverExpiry 0]) ∧
    step (lastFrame.setPending [.vadHangoverExpiry 0]) = .next t ∧ (t.pos 0).mic.vad = false :=
  ⟨_, ⟨by unfold LegRec.flagsHeld; decide +kernel, by unfold PosRec.flagsHeld; decide +kernel⟩, rfl, by decide +kernel⟩

/-- ECHO_RESET of L0. -/
theorem test_meets_budget : ∃ t, BudgetHeld ((ask 0x22#8 [0] call).setPending [.echoReset]) ∧
    step ((ask 0x22#8 [0] call).setPending [.echoReset]) = .next t ∧ t.work.list = [0, 1] :=
  ⟨_, by unfold BudgetHeld; decide +kernel, rfl, by decide +kernel⟩

/-- The call with every handle in its place, and with P1 the supervisor of P2. -/
def wholeCall : State := { call with free := [0, 1, 2] ++ call.free, supervision := [⟨1, 2, .whisper, 32768, 8192⟩] }

/-- LEG_CLOSE of L0 joins the ROUTING list. -/
theorem test_meets_tables : ∃ t, TablesHeld ((ask 0x11#8 [0] wholeCall).setPending [.legClose]) ∧
    LimitsHeld ((ask 0x11#8 [0] wholeCall).setPending [.legClose]) ∧
    step ((ask 0x11#8 [0] wholeCall).setPending [.legClose]) = .next t ∧ t.routing.list.length = 1 :=
  have h : TablesAgree ((ask 0x11#8 [0] wholeCall).setPending [.legClose]) :=
    ⟨by decide +kernel, by decide +kernel, by decide +kernel, by decide +kernel, by decide +kernel, by decide +kernel,
     by decide +kernel, by decide +kernel⟩
  ⟨_, ⟨h, h⟩, by unfold LimitsHeld ClassesHeld; decide +kernel, rfl, by decide +kernel⟩

/-- PROMPT_CANCEL of the prompt waiting at P2. -/
theorem test_meets_handles : ∃ t, HandlesHeld ((ask 0x39#8 [3] wholeCall).setPending [.promptCancel]) ∧
    step ((ask 0x39#8 [3] wholeCall).setPending [.promptCancel]) = .next t ∧ (t.pos 2).done.length = 2 :=
  ⟨_, by unfold HandlesHeld; decide +kernel, rfl, by decide +kernel⟩

theorem test_meets_reset_sources : State.reset.hold ≠ some .powerOn := by decide

/-- The part held in reset by RESETN. -/
def held : State := { State.reset with hold := some .pin }

theorem test_meets_held : held.hold ≠ none ∧ Instr.applyEdge ≠ .powerOn ∧ Instr.applyEdge ≠ .resetnAssert ∧
    ∀ pins, Instr.applyEdge ≠ .resetRelease pins := ⟨by decide, by decide, by decide, fun _ => by simp⟩

theorem test_meets_release : held.hold = some .pin := rfl

theorem test_meets_reset_request : (ask 0x05#8 [] State.reset).hold = none ∧
    (ask 0x05#8 [] State.reset).link.requests = rq 0x05#8 [] :: [] ∧ (rq 0x05#8 []).kind = 0x05#8 ∧ (rq 0x05#8 []).body = [] ∧
    HeadDue 0x05#8 (rq 0x05#8 [0]) [] (ask 0x05#8 [0] State.reset) ∧ (rq 0x05#8 [0]).body ≠ [] :=
  ⟨rfl, rfl, rfl, rfl, due_reset _ _, by decide⟩

/-- In self-test phase k. -/
def testing (k : Nat) : State := { State.reset with part := .selftest, progress := k, link := blankLink }

theorem test_meets_selftest : (testing 3).hold = none ∧ (testing 3).part = .selftest ∧ (testing 3).progress < 4 ∧
    (testing 4).progress = 4 ∧ (testing 4).link.notices = [] ∧ (testing 4).link.reading = none ∧
    (testing 4).straps.scan = false ∧ nextArea (testing 4).areas 0 = some 0 := by decide +kernel

theorem test_meets_whole_frame : State.reset.hold = none ∧ State.reset.link.reading = none ∧
    (rq 0x33#8 (List.replicate 248 0)).body.length ≤ 248 := ⟨rfl, rfl, by decide +kernel⟩

/-- A whole IDENTIFY frame, tag 7, whose check 0x538A is computed by hand; it waits in the request queue. -/
theorem test_whole_frame : ∃ t, exec (.writeTransfer [0xA5, 0x04, 0x01, 0x07, 0x53, 0x8A]) State.reset = .next t ∧
    t.link.requests = [{ kind := 0x01, tag := 0x07, body := [] }] := ⟨_, rfl, by decide +kernel⟩

/-- Four requests queued, and this many replies. -/
def fullQueue (replies : Nat) : State :=
  State.reset.setLink { blankLink with
    requests := List.replicate 4 (rq 0x02#8 []), replies := List.replicate replies ⟨0, 0, .ok, []⟩ }

theorem test_meets_full_queue : ∀ n ∈ [7, 8], (fullQueue n).hold = none ∧ (fullQueue n).link.reading = none ∧
    (fullQueue n).link.requests.length = 4 ∧ (fullQueue n).link.replies.length = n := by decide +kernel

theorem test_meets_broken_frame : State.reset.hold = none ∧ State.reset.link.reading = none ∧
    (3#8).toNat < 4 ∧ 252 < (253#8).toNat ∧ 4 ≤ (4#8).toNat ∧ ([0, 0, 0] : List Byte).length < (4#8).toNat ∧ (252#8).toNat ≤ 252 ∧
    2 ≤ ([0x01, 0x07] : List Byte).length ∧ u16 (crc (4#8 :: [0x01, 0x07])).toNat ≠ [0x53, 0x8B] ∧
    (0x00#8 ≠ 0xA5#8 ∧ 0x00#8 ≠ 0x5A#8) := by decide +kernel

/-- A reply waiting, a notice waiting with no reply, and neither. -/
def replied : State := State.reset.setLink { State.reset.link with replies := [{ kind := 0x81, tag := 7, result := .ok, body := [] }] }

def quietLink : State := State.reset.setLink blankLink

/-- A read in progress of this sort, with these raises since its first byte. -/
def reading (what : Outgoing) (raises : Nat) : State :=
  State.reset.setLink { State.reset.link with reading := some { what := what, bytes := [0xAC, 0x0C], raises := raises } }

theorem test_meets_reads : (replied.link.reading = none ∧ ∃ x xs, replied.link.replies = x :: xs) ∧
    (State.reset.link.replies = [] ∧ ∃ n ns, State.reset.link.notices = n :: ns) ∧
    (quietLink.link.replies = [] ∧ quietLink.link.notices = []) ∧
    (∃ x, (reading .reply 0).link.reading = some x ∧ x.what = .reply ∧ 1 < x.bytes.length ∧ x.bytes.length ≤ 2) ∧
    (∃ x, (reading .notice 0).link.reading = some x ∧ x.what = .notice ∧ x.raises = 0 ∧ x.bytes.length ≤ 2) ∧
    (∃ x, (reading .notice 1).link.reading = some x ∧ x.what = .notice ∧ 0 < x.raises ∧ x.bytes.length ≤ 2 ∧
      ∃ n ns, (reading .notice 1).link.notices = n :: ns) ∧
    (∃ x, (reading .nothing 0).link.reading = some x ∧ x.what = .nothing) ∧ (reading .reply 0).hold = none :=
  ⟨⟨rfl, _, _, rfl⟩, ⟨rfl, _, _, rfl⟩, ⟨rfl, rfl⟩, ⟨_, rfl, rfl, by decide, by decide⟩, ⟨_, rfl, rfl, rfl, by decide⟩,
   ⟨_, rfl, rfl, by decide, by decide, _, _, rfl⟩, ⟨_, rfl, rfl⟩, rfl⟩

/-- R191, R197: the lead 0x5A and all the bytes of the PART_STATE notice take it from the queue; one byte fewer counts SHORT. -/
theorem test_read_by_write : (∃ n, State.reset.link.notices = [n] ∧
      (∃ t, exec (.writeTransfer (0x5A#8 :: List.replicate n.bytes.length 0)) State.reset = .next t ∧ t.link.notices = [] ∧
        t.attn = false ∧ t.link.short = 0) ∧
      ∃ t, exec (.writeTransfer (0x5A#8 :: List.replicate (n.bytes.length - 1) 0)) State.reset = .next t ∧
        t.link.notices = [n] ∧ t.attn = true ∧ t.link.short = 1) :=
  ⟨_, rfl, ⟨_, rfl, by decide +kernel⟩, _, rfl, by decide +kernel⟩

/-- R191, R197: a read in progress drives its bytes, then 0x00; a write transfer and a part held in reset drive 0x00. -/
theorem test_ldo : [0, 1, 2, 200].map (reading .notice 0).ldo = [0xAC, 0x0C, 0, 0] ∧
    transferOut [0xA5, 0x04, 0x01] (reading .notice 0) = [0, 0, 0] ∧ transferOut [0x5A, 0, 0] quietLink = [0, 0, 0] ∧
    ({ reading .notice 0 with hold := some .pin } : State).ldo 0 = 0 := by decide +kernel

/-- The part FAILED, with a request at the head. -/
def failed (k : Byte) (b : List Byte) : State := { ask k b State.reset with part := .failed, progress := 2 }

theorem test_meets_link_checks : (HeadDue 0x07#8 (rq 0x07#8 []) [] (ask 0x07#8 [] State.reset) ∧ bodyFits 0x07 [] = none) ∧
    rowKind .legOpen = some 0x10#8 ∧
    8 ≤ (State.reset.setLink { blankLink with replies := List.replicate 8 ⟨0, 0, .ok, []⟩ }).link.replies.length ∧
    (HeadDue 0x10#8 (rq 0x10#8 [0]) [] (ask 0x10#8 [0] State.reset) ∧ bodyFits 0x10 [0] = some false) ∧
    (HeadDue 0x11#8 (rq 0x11#8 [0]) [] (failed 0x11#8 [0]) ∧ bodyFits 0x11 [0] = some true ∧ takenAlways 0x11#8 = false ∧
      ¬ Serving (failed 0x11#8 [0])) :=
  ⟨⟨due_reset _ _, rfl⟩, rfl, by decide +kernel, ⟨due_reset _ _, rfl⟩, ⟨rfl, rfl, rfl, Nat.zero_lt_succ _⟩, rfl, rfl,
   by unfold Serving; decide +kernel⟩

theorem test_meets_refused : rowKind .legClose = some 0x11#8 ∧ HeadDue 0x11#8 (rq 0x11#8 [24]) [] (ask 0x11#8 [24] call) :=
  ⟨rfl, due_call _ _⟩

theorem test_meets_identify : (rq 0x01#8 []).body = [] ∧ HeadDue 0x01#8 (rq 0x01#8 []) [] (ask 0x01#8 [] State.reset) ∧
    HeadDue 0x02#8 (rq 0x02#8 []) [] (ask 0x02#8 [] State.reset) := ⟨rfl, due_reset _ _, due_reset _ _⟩

theorem test_meets_start : HeadDue 0x03#8 (rq 0x03#8 []) [] (ask 0x03#8 [] State.reset) ∧ (ask 0x03#8 [] State.reset).part = .standby ∧
    HeadDue 0x03#8 (rq 0x03#8 []) [] (ask 0x03#8 [] call) ∧ (ask 0x03#8 [] call).part = .running :=
  ⟨due_reset _ _, rfl, due_call _ _, rfl⟩

theorem test_meets_stop_in_standby : HeadDue 0x04#8 (rq 0x04#8 []) [] (ask 0x04#8 [] State.reset) ∧
    (rq 0x04#8 []).body = [] ∧ (ask 0x04#8 [] State.reset).part = .standby := ⟨due_reset _ _, rfl, rfl⟩

theorem test_meets_stop : HeadDue 0x04#8 (rq 0x04#8 []) [] (ask 0x04#8 [] call) ∧ (rq 0x04#8 []).body = [] ∧
    (ask 0x04#8 [] call).part = .running := ⟨due_call _ _, rfl, rfl⟩

theorem test_meets_link_status : HeadDue 0x06#8 (rq 0x06#8 []) [] (ask 0x06#8 [] call) ∧ Serving (ask 0x06#8 [] call) ∧
    HeadDue 0x06#8 (rq 0x06#8 []) [] (failed 0x06#8 []) ∧ ¬ Serving (failed 0x06#8 []) :=
  ⟨due_call _ _, .inr rfl, ⟨rfl, rfl, rfl, Nat.zero_lt_succ _⟩, by unfold Serving; decide +kernel⟩

/-! ## The connection tables -/

/-- LEG_OPEN of L2 on slot 31 under a ceiling that leaves room for the shortest tail alone. -/
def tight : State := call.setWork { call.work with ceiling := 220 }

theorem due_tight (k : Byte) (b : List Byte) : HeadDue k (rq k b) [] (ask k b tight) := ⟨rfl, rfl, rfl, Nat.zero_lt_succ _⟩

theorem test_meets_leg_open : HeadDue 0x10#8 (rq 0x10#8 (u8 2 ++ u8 31 ++ u16 1024 ++ u16 65535)) []
      (ask 0x10#8 (u8 2 ++ u8 31 ++ u16 1024 ++ u16 65535) tight) ∧
    ((tight.leg 2).state = .closed ∧ (tight.leg 2).closing = false) ∧
    (∀ k, k ≠ 2 → (tight.leg k).state ≠ .closed → (tight.leg k).slot ≠ some 31) ∧
    (128 % 16 = 0 ∧ 128 ≤ max 128 (min 1024 1024) ∧ tight.work.commitment + (128 / 16 + 4) ≤ tight.work.ceiling) ∧
    ∀ g, g % 16 = 0 → g ≤ max 128 (min 1024 1024) → tight.work.commitment + (g / 16 + 4) ≤ tight.work.ceiling → g ≤ 128 := by
  refine ⟨due_tight _ _, by decide +kernel, by decide +kernel, by decide +kernel, ?_⟩
  intro g h _ h1
  have : 208 + (g / 16 + 4) ≤ 220 := h1
  omega

/-- The ROUTING list full of changes that name no leg. -/
def fullRouting : State := { call with routing := { blankStage with list := List.replicate 16 ⟨0, 0, .mute 0 true⟩ } }

theorem due_full (k : Byte) (b : List Byte) : HeadDue k (rq k b) [] (ask k b fullRouting) := ⟨rfl, rfl, rfl, Nat.zero_lt_succ _⟩

theorem test_meets_leg_close :
    (HeadDue 0x11#8 (rq 0x11#8 [23]) [] (ask 0x11#8 [23] call) ∧ ((projected (ask 0x11#8 [23] call)).leg 23).state = .closed) ∧
    (HeadDue 0x11#8 (rq 0x11#8 [0]) [] (ask 0x11#8 [0] call) ∧ ((projected (ask 0x11#8 [0] call)).leg 0).state ≠ .closed ∧
      (ask 0x11#8 [0] call).routing.list.length < 16) ∧
    HeadDue 0x11#8 (rq 0x11#8 [0]) [] (ask 0x11#8 [0] fullRouting) ∧
      ((projected (ask 0x11#8 [0] fullRouting)).leg 0).state ≠ .closed ∧ 16 ≤ (ask 0x11#8 [0] fullRouting).routing.list.length :=
  ⟨⟨due_call _ _, by decide +kernel⟩, ⟨due_call _ _, by decide +kernel, by decide +kernel⟩, due_full _ _, by decide +kernel,
   by decide +kernel⟩

/-- One supervision record: P1 over P2. -/
def supervised : State := { call with supervision := [⟨1, 2, .whisper, 32768, 8192⟩] }

theorem due_supervised (k : Byte) (b : List Byte) : HeadDue k (rq k b) [] (ask k b supervised) :=
  ⟨rfl, rfl, rfl, Nat.zero_lt_succ _⟩

theorem test_meets_routing :
    (HeadDue 0x12#8 (rq 0x12#8 [2, 0, 1]) [] (ask 0x12#8 [2, 0, 1] call) ∧ (call.leg 1).state ≠ .closed ∧ (call.leg 1).group = none ∧
      (call.members 2).length < 6) ∧
    (HeadDue 0x12#8 (rq 0x12#8 [15, 1, 2]) [] (ask 0x12#8 [15, 1, 2] call) ∧ 2 < activeCount call.straps ∧ (call.pos 2).enabled = true ∧
      (call.pos 2).group = none ∧ (∀ k ∈ call.supervision, k.supervisor ≠ 2) ∧ (call.members 15).length < 6) ∧
    (HeadDue 0x13#8 (rq 0x13#8 [2, 0, 0]) [] (ask 0x13#8 [2, 0, 0] call) ∧ (call.leg 0).group = some 2) ∧
    (HeadDue 0x13#8 (rq 0x13#8 [2, 1, 0]) [] (ask 0x13#8 [2, 1, 0] call) ∧ (call.pos 0).group = some 2) ∧
    (HeadDue 0x16#8 (rq 0x16#8 [7, 1]) [] (ask 0x16#8 [7, 1] call) ∧ 7 < activeCount call.straps) ∧
    (HeadDue 0x18#8 (rq 0x18#8 [1]) [] (ask 0x18#8 [1] supervised) ∧ ∃ k ∈ supervised.supervision, k.supervisor = 1) ∧
    HeadDue 0x14#8 (rq 0x14#8 [0, 3]) [] (ask 0x14#8 [0, 3] call) ∧
    (HeadDue 0x15#8 (rq 0x15#8 [1]) [] (ask 0x15#8 [1] call) ∧ (call.leg 1).state = .held) ∧
    projected call = call ∧ projected supervised = supervised :=
  ⟨⟨due_call _ _, by decide +kernel⟩, ⟨due_call _ _, by decide +kernel⟩, ⟨due_call _ _, by decide +kernel⟩,
   ⟨due_call _ _, by decide +kernel⟩, ⟨due_call _ _, by decide +kernel⟩, ⟨due_supervised _ _, by decide +kernel⟩, due_call _ _,
   ⟨due_call _ _, by decide +kernel⟩, rfl, rfl⟩

theorem test_meets_supervise :
    (HeadDue 0x17#8 (rq 0x17#8 [1, 2, 0]) [] (ask 0x17#8 [1, 2, 0] call) ∧ (call.pos 1).role = .supervisor ∧ (call.pos 2).role = .agent ∧
      (call.pos 1).enabled = true ∧ (call.pos 2).enabled = true ∧ (call.pos 1).group = none ∧ asSupervisor call 1 = none ∧
      asAgent call 2 = none ∧ call.supervision.length < 8) ∧
    HeadDue 0x17#8 (rq 0x17#8 (u8 1 ++ u8 2 ++ u8 2 ++ u16 65535 ++ u16 0)) []
      (ask 0x17#8 (u8 1 ++ u8 2 ++ u8 2 ++ u16 65535 ++ u16 0) supervised) ∧
    (∃ k, asSupervisor supervised 1 = some k ∧ k.agent = 2) ∧ projected call = call ∧ projected supervised = supervised :=
  ⟨⟨due_call _ _, by decide +kernel⟩, due_supervised _ _, ⟨_, rfl, rfl⟩, rfl, rfl⟩

theorem test_meets_levels :
    (HeadDue 0x1A#8 (rq 0x1A#8 (u8 0 ++ u8 0 ++ u16 65535)) [] (ask 0x1A#8 (u8 0 ++ u8 0 ++ u16 65535) call) ∧
      (call.leg 0).state ≠ .closed) ∧
    (HeadDue 0x1A#8 (rq 0x1A#8 (u8 1 ++ u8 7 ++ u16 0)) [] (ask 0x1A#8 (u8 1 ++ u8 7 ++ u16 0) call) ∧ 7 < activeCount call.straps) ∧
    (HeadDue 0x28#8 (rq 0x28#8 (u8 7 ++ u8 2 ++ u16 0 ++ i16 (-32768) ++ u16 0 ++ u16 0)) []
      (ask 0x28#8 (u8 7 ++ u8 2 ++ u16 0 ++ i16 (-32768) ++ u16 0 ++ u16 0) call) ∧ 2 % 16 ≠ 0) ∧
    (HeadDue 0x20#8 (rq 0x20#8 (u8 1 ++ u8 4 ++ u16 0 ++ u8 255 ++ u8 1)) []
      (ask 0x20#8 (u8 1 ++ u8 4 ++ u16 0 ++ u8 255 ++ u8 1) call) ∧ 4 % 8 ≠ 0 ∧ (call.leg 1).state ≠ .closed) ∧
    projected call = call ∧ call.levels.list.length < 16 ∧ call.echo.list.length < 16 ∧ ∀ x ∈ call.echo.list, x.op.cls = .echo :=
  ⟨⟨due_call _ _, by decide +kernel⟩, ⟨due_call _ _, by decide +kernel⟩, ⟨due_call _ _, by decide⟩,
   ⟨due_call _ _, by decide, by decide +kernel⟩, rfl, by decide +kernel, by decide +kernel, by decide +kernel⟩

/-- The example of R53, with a change of this leg's bulk delay pending before: L1's delay will be 128, its shift 6, its NLP on. -/
theorem test_echo_set : ∃ t, exec .echoSet (ask 0x20#8 (u8 1 ++ u8 3 ++ u16 130 ++ u8 9 ++ u8 2)
      { call with echo := { call.echo with list := [⟨9, 0, .echoSet 1 (some 64) none (some true)⟩] } }) = .next t ∧
    (t.leg 1).bulk = 0 ∧ t.link.replies.map (·.body) = [[2, 0, 128, 6, 1]] := ⟨_, rfl, by decide +kernel⟩

theorem test_meets_close : (call.leg 0).state = .opened ∧ (call.leg 0).group = some 2 ∧ (call.leg 1).state = .held ∧
    (call.leg 1).group ≠ some 2 ∧ (∀ k ∈ call.supervision, k.supervisor ≠ 1) ∧
    ∃ k ∈ supervised.supervision, k.supervisor = 1 := by decide +kernel

/-- A hold of L0 and a mute of P7 pending, for the next frame start or for an APPLY that has not come. -/
def staged (nextFrame : Bool) : State :=
  { call with routing := {
      list := [⟨9, 0, .hold 0 1⟩, ⟨10, 0, .mute 7 true⟩], nextFrame := nextFrame, applyLine := false, latch := false } }

theorem test_meets_application : ((staged true).stage .routing).nextFrame = true ∧
    ((staged true).stage .routing).list.getLast?.map Change.tag = some 10 ∧ ((staged false).stage .routing).nextFrame = false ∧
    ((staged false).stage .routing).latch = false ∧ ClassesHeld (staged true) ∧ ClassesHeld (staged false) := by
  unfold ClassesHeld; decide +kernel

theorem test_application : let t := (staged true).routing.list.foldl (fun u x => applyOp x.op u) (staged true)
    (t.leg 0).state = .held ∧ (t.leg 0).source = some 1 ∧ (t.leg 0).group = some 2 ∧ (t.pos 7).muted = true := by decide +kernel

/-- A close of L0 is due, and the LEVELS class, with a SEND_GAIN of L0 and one of P0, is not. -/
def purging : State :=
  { call with
    routing := { blankStage with list := [⟨9, 0, .legClose 0⟩] }
    levels := { list := [⟨7, 0, .sendGain (.leg 0) 5⟩, ⟨8, 0, .sendGain (.pos 0) 6⟩], nextFrame := false, applyLine := true, latch := false } }

/-- R167: the SEND_GAIN of the leg is purged and counted as discarded for its own class. -/
theorem test_purge : let a := applyClass { state := purging, levelsDropped := 0, echoDropped := 0, fresh := [] } .routing
    (a.state.leg 0).state = .closed ∧ a.state.levels.list.map Change.tag = [8] ∧ a.state.routing.list = [] ∧
    a.levelsDropped = 1 ∧ a.echoDropped = 0 := by decide +kernel

/-- At a ceiling with no room for another position. -/
def noRoom : State := call.setWork { call.work with ceiling := 231 }

theorem test_meets_position_set :
    (HeadDue 0x19#8 (rq 0x19#8 [2, 1, 1]) [] (ask 0x19#8 [2, 1, 1] call) ∧ (call.pos 2).enabled = true ∧
      Role.supervisor ≠ (call.pos 2).role ∧ engaged call 2 = false) ∧
    (HeadDue 0x19#8 (rq 0x19#8 [7, 1, 0]) [] (ask 0x19#8 [7, 1, 0] call) ∧ (call.pos 7).enabled = false ∧ 7 < activeCount call.straps ∧
      call.work.commitment + 24 ≤ call.work.ceiling) ∧
    (HeadDue 0x19#8 (rq 0x19#8 [7, 1, 0]) [] (ask 0x19#8 [7, 1, 0] noRoom) ∧ (noRoom.pos 7).enabled = false ∧
      noRoom.work.ceiling < noRoom.work.commitment + 24) ∧
    (HeadDue 0x19#8 (rq 0x19#8 [0, 0, 0]) [] (ask 0x19#8 [0, 0, 0] call) ∧ (call.pos 0).enabled = true ∧ engaged call 0 = true) ∧
    HeadDue 0x19#8 (rq 0x19#8 [2, 0, 0]) [] (ask 0x19#8 [2, 0, 0] call) ∧ projected call = call :=
  ⟨⟨due_call _ _, by decide +kernel⟩, ⟨due_call _ _, by decide +kernel⟩,
   ⟨⟨rfl, rfl, rfl, Nat.zero_lt_succ _⟩, by decide +kernel⟩, ⟨due_call _ _, by decide +kernel⟩, due_call _ _, rfl⟩

theorem test_meets_queries : (HeadDue 0x1B#8 (rq 0x1B#8 [23]) [] (ask 0x1B#8 [23] State.reset) ∧ Serving (ask 0x1B#8 [23] State.reset)) ∧
    HeadDue 0x1C#8 (rq 0x1C#8 [7]) [] (ask 0x1C#8 [7] call) ∧ HeadDue 0x1D#8 (rq 0x1D#8 [15]) [] (ask 0x1D#8 [15] call) ∧
    HeadDue 0x2A#8 (rq 0x2A#8 [7]) [] (ask 0x2A#8 [7] call) ∧ HeadDue 0x34#8 (rq 0x34#8 [3]) [] (ask 0x34#8 [3] call) ∧
    HeadDue 0x3C#8 (rq 0x3C#8 [2]) [] (ask 0x3C#8 [2] call) ∧ HeadDue 0x49#8 (rq 0x49#8 []) [] (ask 0x49#8 [] call) ∧
    HeadDue 0x4F#8 (rq 0x4F#8 [2]) [] (ask 0x4F#8 [2] call) ∧ HeadDue 0x51#8 (rq 0x51#8 [1]) [] (ask 0x51#8 [1] call) ∧
    7 < activeCount call.straps :=
  ⟨⟨due_reset _ _, serving_reset _ _⟩, due_call _ _, due_call _ _, due_call _ _, due_call _ _, due_call _ _, due_call _ _,
   due_call _ _, due_call _ _, by decide⟩

/-- 11.7: the LEG_QUERY reply for L5 at step 6 of the warm transfer. -/
theorem test_leg_query : (legQueryEntry (rq 0x1B#8 [5]) (State.reset.setLeg 5 { blankLeg with
      state := .held, slot := some 4, group := some 2, source := some 0, ramp := 32768 })).toOption.map (·.body) =
    some [5, 2, 4, 0x80, 0x00, 2, 0, 0x80, 0x00, 0x02, 0x02, 0x00, 0x00, 0x00, 1] := by decide +kernel

/-! ## The echo canceller and the microphones -/

theorem test_meets_echo : (HeadDue 0x21#8 (rq 0x21#8 (u8 0 ++ u16 65535)) [] (ask 0x21#8 (u8 0 ++ u16 65535) call) ∧
      (call.leg 0).state ≠ .closed ∧ (call.leg 0).closing = false ∧ legCost (call.leg 0).tail ≤ call.work.commitment ∧
      call.work.commitment ≤ call.work.ceiling) ∧
    (HeadDue 0x22#8 (rq 0x22#8 [23]) [] (ask 0x22#8 [23] call) ∧ (call.leg 23).state = .closed) ∧
    HeadDue 0x22#8 (rq 0x22#8 [1]) [] (ask 0x22#8 [1] call) ∧ (call.leg 1).state ≠ .closed ∧ (call.leg 1).closing = false ∧
    HeadDue 0x23#8 (rq 0x23#8 [23]) [] (ask 0x23#8 [23] call) ∧ Serving (ask 0x23#8 [23] call) :=
  ⟨⟨due_call _ _, by decide +kernel⟩, ⟨due_call _ _, by decide +kernel⟩, due_call _ _, by decide +kernel, by decide +kernel,
   due_call _ _, serving_call _ _⟩

/-- L0 and P0 with every counter one short of what its row names, and M3 a tone at the end of its cadence. -/
def onEdge : State :=
  let s := call.setLeg 0 { call.leg 0 with
    ec := { (call.leg 0).ec with hangover := 1, callerHangover := 1, callerActive := true, divergence := 15 }
    work := { blankLegWork with debt := 249 } }
  let s := s.setPos 0 { call.pos 0 with mic := { blankMic with vad := true, vadHangover := 1 } }
  s.setSrc 3 { blankSource with kind := .tone, state := .playing, onFrames := 250, offFrames := 500, cadence := 749 }

theorem test_meets_counters : onEdge.hold = none ∧
    ((onEdge.leg 0).state ≠ .closed ∧ (onEdge.leg 0).ec.hangover = 1 ∧ (onEdge.leg 0).ec.callerHangover = 1 ∧
      (onEdge.leg 0).ec.divergence = 15 ∧ (onEdge.leg 0).ec.divergenceResets < 65535) ∧
    ((onEdge.pos 0).enabled = true ∧ (onEdge.pos 0).mic.vadHangover = 1) ∧
    ((onEdge.src 3).kind = .tone ∧ (onEdge.src 3).state = .playing ∧
      (onEdge.src 3).cadence + 1 = (onEdge.src 3).onFrames + (onEdge.src 3).offFrames) ∧
    (0 ∈ onEdge.work.list ∧ (onEdge.leg 0).work.armed = true ∧ (onEdge.leg 0).work.debt = 249) := by decide +kernel

theorem test_meets_silence : (∀ x ∈ (call.leg 0).ec.history, x = 0) ∧ (List.replicate 64 (32767 : Int)).length = 64 ∧
    ∀ x ∈ List.replicate 64 (32767 : Int), -32768 ≤ x ∧ x ≤ 32767 := by decide +kernel

theorem test_meets_quiet_mask : HeadDue 0x29#8 (rq 0x29#8 (u16 65535)) [] (ask 0x29#8 (u16 65535) State.reset) ∧
    Serving (ask 0x29#8 (u16 65535) State.reset) := ⟨due_reset _ _, serving_reset _ _⟩

/-! ## The sources and the prompt player -/

/-- A SOURCE_SET body of this source and kind, with every other field at its top. -/
def setBody (m kind clip : Nat) : List Byte :=
  u8 m ++ u8 kind ++ u16 65535 ++ u16 65535 ++ u16 clip ++ u16 65535 ++ u16 65535 ++ u16 0 ++ u16 65535

theorem test_meets_source_set : (State.reset.src 3).state = .stopped ∧ (State.reset.src 3).cmd = .none ∧
    HeadDue 0x30#8 (rq 0x30#8 (setBody 3 0 0)) [] (ask 0x30#8 (setBody 3 0 0) State.reset) ∧
    HeadDue 0x30#8 (rq 0x30#8 (setBody 3 1 65534)) [] (ask 0x30#8 (setBody 3 1 65534) State.reset) ∧
    HeadDue 0x30#8 (rq 0x30#8 (setBody 3 2 0)) [] (ask 0x30#8 (setBody 3 2 0) State.reset) ∧
    Serving (ask 0x30#8 (setBody 3 2 0) State.reset) :=
  ⟨by decide +kernel, by decide +kernel, due_reset _ _, due_reset _ _, due_reset _ _, serving_reset _ _⟩

/-- Clip 9 declared, and M1 set to it. -/
def clipped : State :=
  { call.setSrc 1 { blankSource with kind := .clip, clip := some 9 } with
    index := putEntry { id := 9, loc := { area := 0, offset := 512, length := 600, rate := .khz8 }, origin := .declared } call.index }

theorem due_clipped (k : Byte) (b : List Byte) : HeadDue k (rq k b) [] (ask k b clipped) := ⟨rfl, rfl, rfl, Nat.zero_lt_succ _⟩

theorem test_meets_source_commands : (HeadDue 0x31#8 (rq 0x31#8 [0]) [] (ask 0x31#8 [0] clipped) ∧ (clipped.src 0).state = .stopped ∧
      (clipped.src 0).cmd = .none ∧ (clipped.src 0).kind ≠ .clip) ∧
    (HeadDue 0x31#8 (rq 0x31#8 [1]) [] (ask 0x31#8 [1] clipped) ∧ (clipped.src 1).state = .stopped ∧ (clipped.src 1).cmd = .none ∧
      (clipped.src 1).kind = .clip ∧ (clipped.src 1).clip = some 9 ∧
      lookupClip clipped.index 9 = some { id := 9, loc := { area := 0, offset := 512, length := 600, rate := .khz8 }, origin := .declared }) ∧
    HeadDue 0x32#8 (rq 0x32#8 [3]) [] (ask 0x32#8 [3] clipped) :=
  ⟨⟨due_clipped _ _, by decide +kernel⟩, ⟨due_clipped _ _, by decide +kernel⟩, due_clipped _ _⟩

/-- M0's ring one sample short of full, and two samples sent. -/
def nearlyFull : State := call.setSrc 0 { blankSource with ring := List.replicate 2047 0 }

theorem test_meets_stream_data : HeadDue 0x33#8 (rq 0x33#8 (u8 0 ++ u8 2 ++ [1, -1].flatMap i16)) []
      (ask 0x33#8 (u8 0 ++ u8 2 ++ [1, -1].flatMap i16) nearlyFull) ∧ (nearlyFull.src 0).kind = .stream ∧
    Serving (ask 0x33#8 (u8 0 ++ u8 2 ++ [1, -1].flatMap i16) nearlyFull) ∧
    ∀ x ∈ [(1 : Int), -1], -32768 ≤ x ∧ x ≤ 32767 :=
  ⟨⟨rfl, rfl, rfl, Nat.zero_lt_succ _⟩, by decide +kernel, .inr rfl, by decide⟩

theorem test_stream_data : ∃ t, exec .streamData (ask 0x33#8 (u8 0 ++ u8 2 ++ [1, -1].flatMap i16) nearlyFull) = .next t ∧
    (t.src 0).ring.drop 2047 = [1] ∧ t.link.replies.map (·.body) = [[1, 0x08, 0x00]] := ⟨_, rfl, by decide +kernel⟩

theorem test_meets_source_outputs : (call.src 0).state = .stopped ∧ (call.src 0).cmd = .none := by decide +kernel

/-- A PROMPT_QUEUE body for P2: clip 9, class 5, GAP, gain 40000, duck 16384, deadline 250, repeat count 0. -/
def queueBody : List Byte := u8 2 ++ u16 9 ++ u8 5 ++ u8 1 ++ u16 40000 ++ u16 16384 ++ u16 250 ++ u8 0

theorem test_meets_prompt_queue : HeadDue 0x38#8 (rq 0x38#8 queueBody) [] (ask 0x38#8 queueBody clipped) ∧ 2 < activeCount clipped.straps ∧
    (clipped.pos 2).enabled = true ∧ (clipped.pos 2).queue.length < 8 ∧ 6 ∈ clipped.free ∧ (∀ k ∈ clipped.free, 6 ≤ k) ∧
    (lookupClip clipped.index 9).isSome = true := ⟨due_clipped _ _, by decide +kernel⟩

/-- After the example of R117: level 2 goes before the waiting level 1, and the reply carries what was clamped. -/
theorem test_prompt_queue : ∃ t, exec .promptQueue (ask 0x38#8 queueBody clipped) = .next t ∧
    (t.pos 2).queue.map (·.handle) = [6, 3] ∧ t.link.replies.map (·.body) = [[6, 2, 0, 2, 121, 0x80, 0, 0x40, 0, 1]] :=
  ⟨_, rfl, by decide +kernel⟩

theorem test_meets_prompt_ends : (HeadDue 0x39#8 (rq 0x39#8 [3]) [] (ask 0x39#8 [3] call) ∧ pendingAt call 3 = some (2, waiting)) ∧
    (HeadDue 0x39#8 (rq 0x39#8 [5]) [] (ask 0x39#8 [5] call) ∧ pendingAt call 5 = none ∧ playingAt call 5 = some (2, playing)) ∧
    (HeadDue 0x39#8 (rq 0x39#8 [127]) [] (ask 0x39#8 [127] call) ∧ pendingAt call 127 = none ∧ playingAt call 127 = none) ∧
    (call.hold = none ∧ (call.pos 2).enabled = true ∧ waiting.deadline ≠ 0 ∧ waiting.deadline ≤ waiting.wait + 1 ∧ waiting.wait < 65535) :=
  ⟨⟨due_call _ _, by decide +kernel⟩, ⟨due_call _ _, by decide +kernel⟩, ⟨due_call _ _, by decide +kernel⟩, by decide +kernel⟩

theorem test_prompt_expire : ∃ t, exec (.promptExpire 3) call = .next t ∧ (t.pos 2).queue = [] ∧
    ((t.pos 2).done.map (·.result)) = [some .complete, some .expired] := ⟨_, rfl, by decide +kernel⟩

/-- P2's queue full of NOW prompts of level 3, the first two of them for a clip the index does not hold. -/
def pressed : State := clipped.setPos 2 { clipped.pos 2 with
  queue := [10, 11, 12, 13, 14, 15, 16, 17].map (fun h =>
    { waiting with handle := h, clip := if h < 12 then 8 else 9, level := 3, deadline := 0 }) }

theorem test_meets_player : (pressed.pos 2).enabled = true ∧ ((pressed.pos 2).queue.map PromptRec.handle).Nodup ∧
    (pressed.pos 2).queue.length ≤ 8 ∧ (call.pos 3).enabled = false := by decide +kernel

/-- R111, R112, R113: the slot's prompt is preempted, two heads end NOT_FOUND, and the third starts. -/
theorem test_preempts : let t := (playerFrame pressed.index [] 2 pressed).1
    ((t.pos 2).done.drop 1).map (·.result) = [some .preempted, some .notFound, some .notFound] ∧
    (t.pos 2).slot.map (fun x => (x.prompt.handle, x.half0)) = some (12, .waiting 0) ∧ (t.pos 2).queue.length = 5 := by decide +kernel

/-- R107, R109, R14: block 0 lands, the 8 kHz clip of 96 samples gives its first 32 twice, and D falls by 2048. -/
theorem test_plays : let s := call.setPos 2 { call.pos 2 with
      queue := [], slot := some { playing with prompt := { playing.prompt with state := .priming }, half0 := .waiting 0 } }
    let out := playerFrame s.index
      [{ item := ⟨.prompt 2, 0, 0, 192⟩, dropped := false, outcome := .ok ((List.range 96).map (BitVec.ofNat 16)) }] 2 s
    (out.1.pos 2).duck = 30720 ∧ (out.1.pos 2).slot.map (·.index) = some 32 ∧
    out.2 = some ((List.range 64).map (fun n => ((n / 2 : Nat) : Int)), 32768) := by decide +kernel

/-- R118: state PLAYING, marked, the handle and the position, in that order. -/
theorem test_prompt_cancel : ∃ t, exec .promptCancel (ask 0x39#8 [5] call) = .next t ∧
    t.link.replies.map (·.body) = [[2, 1, 5, 2]] ∧ (t.pos 2).slot.map (·.prompt.cancel) = some true := ⟨_, rfl, by decide +kernel⟩

theorem test_meets_prompt_drain : HeadDue 0x3A#8 (rq 0x3A#8 [2]) [] (ask 0x3A#8 [2] call) ∧ 2 < activeCount call.straps :=
  ⟨due_call _ _, by decide⟩

theorem test_prompt_drain : ∃ t, exec .promptDrain (ask 0x3A#8 [2] call) = .next t ∧ t.free.head? = some 4 ∧
    t.link.replies.map (·.body) = [[1, 4, 0, 9, 2, 0, 0, 0, 0, 0, 0, 0, 0, 0]] := ⟨_, rfl, by decide +kernel⟩

theorem test_meets_class_map : HeadDue 0x3B#8 (rq 0x3B#8 [3, 3, 3, 3, 0, 0, 0, 3]) [] (ask 0x3B#8 [3, 3, 3, 3, 0, 0, 0, 3] State.reset) ∧
    (#v[3, 3, 3, 3, 0, 0, 0, 3] : Vector Nat 8).toList.flatMap u8 = [3, 3, 3, 3, 0, 0, 0, 3] ∧
    HeadDue 0x3B#8 (rq 0x3B#8 [0, 0, 0, 0, 0, 0, 0, 4]) [] (ask 0x3B#8 [0, 0, 0, 0, 0, 0, 0, 4] State.reset) ∧
    (∀ i : Fin 8, (#v[3, 3, 3, 3, 0, 0, 0, 3] : Vector Nat 8)[i] ≤ 3) ∧ ∃ i : Fin 8, 3 < (#v[0, 0, 0, 0, 0, 0, 0, 4] : Vector Nat 8)[i] :=
  ⟨due_reset _ _, rfl, due_reset _ _, by decide, by decide⟩

/-! ## Prompt memory, the budget and the stager -/

/-- An AREA_SET body for A1: ON, base 255, size 1, cost 4, wait limit 400, ready use ON, catalogue ON. -/
def areaBody : List Byte := u8 1 ++ u8 1 ++ u8 255 ++ u16 1 ++ u16 4 ++ u16 400 ++ u8 1 ++ u8 1

/-- A scan running over A0, with its chunk read served. -/
def scanning : State := startScan State.reset

theorem due_scanning (k : Byte) (b : List Byte) : HeadDue k (rq k b) [] (ask k b scanning) := ⟨rfl, rfl, rfl, Nat.zero_lt_succ _⟩

theorem test_meets_areas : (HeadDue 0x40#8 (rq 0x40#8 areaBody) [] (ask 0x40#8 areaBody State.reset) ∧ State.reset.part = .standby ∧
      255 + 1 ≤ 256 ∧ State.reset.scan.running = false) ∧
    (HeadDue 0x40#8 (rq 0x40#8 areaBody) [] (ask 0x40#8 areaBody scanning) ∧ scanning.part = .standby ∧ scanning.scan.running = true) ∧
    HeadDue 0x41#8 (rq 0x41#8 []) [] (ask 0x41#8 [] State.reset) ∧ HeadDue 0x41#8 (rq 0x41#8 []) [] (ask 0x41#8 [] scanning) ∧
    nextArea State.reset.areas 0 = some 0 ∧
    nextArea (State.reset.areas.set 0 (blankArea false)) 0 = none :=
  ⟨⟨due_reset _ _, by decide +kernel⟩, ⟨due_scanning _ _, by decide +kernel⟩, due_reset _ _, due_scanning _ _, by decide +kernel,
   by decide +kernel⟩

/-- The settings in force: the cost is clamped to 8 and the wait limit to 255. -/
theorem test_area_set : ∃ t, exec .areaSet (ask 0x40#8 areaBody State.reset) = .next t ∧
    t.link.replies.map (·.body) = [[1, 255, 0, 1, 8, 255, 1, 1, 0, 0, 0, 0]] := ⟨_, rfl, by decide +kernel⟩

/-- A frame has ended. -/
def ended (s : State) (e : FrameEnd) : State := s.setClock { startClock with due := some e }

/-- A frame has ended with the chunk of this number waited for or not, and this read made. -/
def landing (outstanding : Bool) (chunk : Nat) (x : Read) : State :=
  { ended scanning .whole with reads := [x], scan := { scanning.scan with outstanding := outstanding, chunk := chunk } }

/-- A read of a catalogue chunk that took these words. -/
def chunkRead (words : List Word16) (failed : Option Nat) (dropped : Bool) : Read :=
  { item := chunkItem 0 0, settings := blankArea true, words := words, failed := failed, dropped := dropped }

theorem test_meets_scan : (∀ outstanding chunk x, (landing outstanding chunk x).hold = none ∧
      Serving (landing outstanding chunk x) ∧ (landing outstanding chunk x).clock.due = some .whole ∧
      (landing outstanding chunk x).scan.running = true ∧ (landing outstanding chunk x).scan.outstanding = outstanding ∧
      (landing outstanding chunk x).scan.chunk = chunk) ∧
    (∀ x ∈ (landing true 0 (chunkRead [] none true)).reads, x.item.requester = .scan → x.dropped = true) ∧
    (∀ words failed, (landing true 0 (chunkRead words failed false)).reads.find?
      (fun x => x.item.requester == .scan && !x.dropped) = some (chunkRead words failed false)) ∧
    2 * (chunkRead [0] none false).words.length < (chunkRead [0] none false).item.count ∧
    (∀ w : Word16, (chunkRead (List.replicate 128 w) none false).item.count ≤
      2 * (chunkRead (List.replicate 128 w) none false).words.length) ∧
    (judgeChunk 0 (blankArea true) 16 (List.replicate 128 0) (scanning.index, blankCounts)).2 = true ∧
    (judgeChunk 0 (blankArea true) 16 (List.replicate 128 1) (scanning.index, blankCounts)).2 = false ∧
    nextArea scanning.areas 1 = none :=
  ⟨fun _ _ _ => ⟨rfl, .inl rfl, rfl, rfl, rfl, rfl⟩, by decide +kernel, fun _ _ => rfl, by decide +kernel,
   fun _ => by simp [chunkRead, chunkItem], by decide +kernel, by decide +kernel, by decide +kernel⟩

/-- Clips 1, 129, 257 and 385 share bucket 1. -/
def bucketFull : Vector (List IndexEntry) 128 :=
  [1, 129, 257, 385].foldl (fun ix k => putEntry
    { id := k, loc := { area := 0, offset := 0, length := 1, rate := .khz8 }, origin := .declared } ix) State.reset.index

/-- R136: one entry of each judgement, the clip that ends at the area's last byte among them. -/
theorem test_judgements : let a := { blankArea true with size := 1 }
    let loc := fun offset : Nat => ({ area := 0, offset := offset, length := 1, rate := .khz8 } : Location)
    ((judgeEntry a 65535 (loc 0) (bucketFull, blankCounts)).2.range = 1 ∧
      (judgeEntry a 2 (loc 65536) (bucketFull, blankCounts)).2.range = 1 ∧
      (judgeEntry a 2 (loc 1) (bucketFull, blankCounts)).2.range = 1) ∧
    (judgeEntry a 385 (loc 65534) (bucketFull, blankCounts)).2.duplicate = 1 ∧
    (judgeEntry a 513 (loc 65534) (bucketFull, blankCounts)).2.full = 1 ∧
    (judgeEntry a 2 (loc 65534) (bucketFull, blankCounts)).2.indexed = 1 := by decide +kernel

/-- A CLIP_DECLARE body for clip 9 in A0: the last 16 MiB − 2 bytes offset, 1 sample, 8 kHz. -/
def declareBody : List Byte := u16 9 ++ u8 0 ++ u8 1 ++ u32 16777214 ++ u32 1

theorem test_meets_clips : (HeadDue 0x42#8 (rq 0x42#8 declareBody) [] (ask 0x42#8 declareBody clipped) ∧ 16777214 % 2 = 0 ∧
      (clipped.area 0).enable = true ∧ 16777214 + 2 * 1 ≤ (clipped.area 0).size * 65536 ∧ (lookupClip clipped.index 9).isSome = true) ∧
    (HeadDue 0x43#8 (rq 0x43#8 (u16 9)) [] (ask 0x43#8 (u16 9) clipped) ∧ ∃ e, lookupClip clipped.index 9 = some e) ∧
    HeadDue 0x44#8 (rq 0x44#8 (u16 9)) [] (ask 0x44#8 (u16 9) clipped) ∧
    (HeadDue 0x44#8 (rq 0x44#8 (u16 65534)) [] (ask 0x44#8 (u16 65534) clipped) ∧ lookupClip clipped.index 65534 = none) ∧
    Serving (ask 0x44#8 (u16 65534) clipped) :=
  ⟨⟨due_clipped _ _, by decide +kernel⟩, ⟨due_clipped _ _, _, rfl⟩, due_clipped _ _, ⟨due_clipped _ _, by decide +kernel⟩, .inr rfl⟩

theorem test_clip_lookup : ∃ t, exec .clipLookup (ask 0x44#8 (u16 9) clipped) = .next t ∧
    t.link.replies.map (·.body) = [[0, 9, 0, 0, 0, 2, 0, 0, 0, 0x02, 0x58, 1, 1, 9, 1, 0, 1]] := ⟨_, rfl, by decide +kernel⟩

theorem test_meets_fault_read : HeadDue 0x45#8 (rq 0x45#8 []) [] (ask 0x45#8 [] State.reset) ∧ Serving (ask 0x45#8 [] State.reset) :=
  ⟨due_reset _ _, serving_reset _ _⟩

/-- A read of two words in an area with or without ready use, behind one that has failed and one that is complete. -/
def readOf (ready : Bool) : Read :=
  { item := ⟨.scan, 0, 0, 4⟩, settings := { blankArea true with ready := ready }, words := [7#16], failed := none, dropped := false }

theorem test_meets_reads_served :
    (∀ y ∈ [{ readOf true with failed := some 0 }, { readOf true with words := [1#16, 2#16] }],
      y.failed.isSome = true ∨ y.item.count ≤ 2 * y.words.length) ∧
    ∀ ready, (readOf ready).failed = none ∧ 2 * (readOf ready).words.length < (readOf ready).item.count ∧
      (readOf ready).settings.ready = ready := by decide

/-- A frame has ended with two reads failed behind one complete, and the fault record latched or clear. -/
def failing (latched : Bool) : State :=
  { ended State.reset .whole with
    reads := [{ readOf true with words := [1#16, 2#16] }, { readOf true with failed := some 2 }, readOf true]
    fault := { blankFault with latched := latched, later := 254 } }

theorem test_meets_fault : ∀ latched, (failing latched).hold = none ∧ Serving (failing latched) ∧
    (failing latched).clock.due = some .whole ∧ (failing latched).fault.latched = latched ∧ (ended State.reset .whole).reads = [] :=
  fun _ => ⟨rfl, .inl rfl, rfl, rfl, rfl⟩

theorem test_fault : ∀ latched, ∃ t, exec (.frameStart false) (failing latched) = .next t ∧
    t.fault.offset = (if latched then 0 else 2) ∧ t.fault.later = if latched then 255 else 1 :=
  fun latched => ⟨_, rfl, by cases latched <;> decide +kernel⟩

/-- R123: area 1 is selected, at its base and the offset of the word in progress. -/
theorem test_memory_bus : ({ State.reset with reads := [{ readOf true with
      item := ⟨.scan, 1, 256, 256⟩, settings := { blankArea true with base := 2 } }] } : State).memoryBus = some (1, 0x020102#24) ∧
    State.reset.memoryBus = none := by decide +kernel

/-- A BUDGET_SET body. -/
def budgetBody (sel ceiling ratio : Nat) : List Byte := u8 sel ++ u16 ceiling ++ u8 ratio

/-- A commitment above the least ceiling. -/
def loaded : State := State.reset.setWork { State.reset.work with commitment := 513 }

theorem test_meets_budget_set : HeadDue 0x48#8 (rq 0x48#8 (budgetBody 252 0 0)) [] (ask 0x48#8 (budgetBody 252 0 0) State.reset) ∧ 252 % 4 = 0 ∧
    (HeadDue 0x48#8 (rq 0x48#8 (budgetBody 3 300 255)) [] (ask 0x48#8 (budgetBody 3 300 255) loaded) ∧ 3 % 2 = 1 ∧
      max 512 (min 2048 300) < loaded.work.commitment) ∧
    (HeadDue 0x48#8 (rq 0x48#8 (budgetBody 3 513 255)) [] (ask 0x48#8 (budgetBody 3 513 255) loaded) ∧
      loaded.work.commitment ≤ max 512 (min 2048 513)) :=
  ⟨due_reset _ _, by decide, ⟨⟨rfl, rfl, rfl, Nat.zero_lt_succ _⟩, by decide +kernel⟩, ⟨rfl, rfl, rfl, Nat.zero_lt_succ _⟩, by decide +kernel⟩

/-- An item that costs more than the units left, and an eligible leg whose adaptation does. -/
def starved : State :=
  let s := (call.setLeg 0 { call.leg 0 with tail := 1024, ec := { (call.leg 0).ec with lastPower := 1048576 } })
  { s.setWork { s.work with commitment := 2550 } with fetch := [⟨.scan, 0, 0, 256⟩] }

theorem test_meets_opening : (openingPart starved).fetch.head? = some ⟨.scan, 0, 0, 256⟩ ∧ 1 ≤ starved.work.ratio ∧
    (openingPart starved).todo.head? = some 0 := by decide +kernel

/-- The same with room for both: L0 is granted, and L1 is not eligible. -/
def spared : State := starved.setWork { starved.work with commitment := 208 }

theorem test_meets_settling : starved.work.list.Nodup ∧ (openingPart starved).todo = [0] ∧ spared.work.list.Nodup ∧
    (openingPart spared).granted = [0] ∧ 1 ∈ spared.work.list ∧ (spared.leg 1).ec.lastPower < (spared.leg 1).tail * 1024 ∧
    2 ∉ spared.work.list := by decide +kernel

/-- A close of L0 waiting, and a mask of APPLY_LINE. -/
def closing : State :=
  { call.setLeg 0 { call.leg 0 with closing := true } with
    routing := { list := [⟨9, 0, .legClose 0⟩], nextFrame := false, applyLine := true, latch := false } }

theorem due_closing (k : Byte) (b : List Byte) : HeadDue k (rq k b) [] (ask k b closing) := ⟨rfl, rfl, rfl, Nat.zero_lt_succ _⟩

theorem test_meets_stager : HeadDue 0x4C#8 (rq 0x4C#8 [2, 3]) [] (ask 0x4C#8 [2, 3] closing) ∧
    (HeadDue 0x4C#8 (rq 0x4C#8 [2, 255]) [] (ask 0x4C#8 [2, 255] closing) ∧ Serving (ask 0x4C#8 [2, 255] closing)) ∧
    (HeadDue 0x4D#8 (rq 0x4D#8 [255]) [] (ask 0x4D#8 [255] closing) ∧ 255 % 8 ≠ 0) ∧ closing.hold = none ∧
    (HeadDue 0x4E#8 (rq 0x4E#8 [1]) [] (ask 0x4E#8 [1] closing) ∧ 1 % 8 ≠ 0 ∧ Nat.testBit 1 ChangeClass.routing.code = true ∧
      ∃ x ∈ (closing.stage .routing).list, x.op = .legClose 0) ∧
    (∀ c : ChangeClass, Nat.testBit 1 c.code = true → ∀ x ∈ (closing.stage c).list, x.op ≠ .legClose 1) := by
  refine ⟨due_closing _ _, ⟨due_closing _ _, .inr rfl⟩, ⟨due_closing _ _, by decide⟩, rfl, ⟨due_closing _ _, by decide, by decide, by decide +kernel⟩, ?_⟩
  intro c
  cases c <;> decide +kernel

/-- R213: the bits above the two sources are ignored. -/
theorem test_stage_mode : ∃ t, exec .stageMode (ask 0x4C#8 [2, 0xFE] closing) = .next t ∧ t.echo.nextFrame = false ∧
    t.echo.applyLine = true ∧ t.link.replies.map (·.body) = [[2, 1, 2, 0, 0, 0, 1, 0, 0]] := ⟨_, rfl, by decide +kernel⟩

theorem test_discard : ∃ t, exec .discard (ask 0x4E#8 [1] closing) = .next t ∧ (t.leg 0).closing = false ∧ t.routing.list = [] ∧
    t.link.replies.map (·.body) = [[1]] := ⟨_, rfl, by decide +kernel⟩

/-! ## The ports and the frame -/

/-- A PORT_TEST body: port, slot and direction, and a pattern of eight words. -/
def testBody (port slot dir : Nat) : List Byte :=
  u8 port ++ u8 slot ++ u8 dir ++ [-32768, 32767, 3, 4, 5, 6, 7, 8].flatMap i16

/-- A test running on the headset port. -/
def tested : State := State.reset.setTest .headset (startedTest 0 .tx (List.replicate 8 1))

theorem test_meets_port_tests : (HeadDue 0x50#8 (rq 0x50#8 (testBody 0 31 2)) [] (ask 0x50#8 (testBody 0 31 2) State.reset) ∧
      (State.reset.test .network).state = .off) ∧
    (HeadDue 0x50#8 (rq 0x50#8 (testBody 1 7 0)) [] (ask 0x50#8 (testBody 1 7 0) State.reset) ∧ 7 < activeCount State.reset.straps ∧
      (State.reset.test .headset).state = .off) ∧
    (HeadDue 0x50#8 (rq 0x50#8 (testBody 1 7 1)) [] (ask 0x50#8 (testBody 1 7 1) tested) ∧ (tested.test .headset).state ≠ .off) ∧
    (HeadDue 0x52#8 (rq 0x52#8 [1]) [] (ask 0x52#8 [1] tested) ∧ Serving (ask 0x52#8 [1] tested)) ∧
    (HeadDue 0x52#8 (rq 0x52#8 [0]) [] (ask 0x52#8 [0] tested) ∧ (tested.test .network).state = .off) ∧
    tested.clock.carried = false ∧ ∀ port, tested.held port = none :=
  ⟨⟨due_reset _ _, by decide +kernel⟩, ⟨due_reset _ _, by decide +kernel⟩, ⟨⟨rfl, rfl, rfl, Nat.zero_lt_succ _⟩, by decide +kernel⟩,
   ⟨⟨rfl, rfl, rfl, Nat.zero_lt_succ _⟩, .inl rfl⟩, ⟨⟨rfl, rfl, rfl, Nat.zero_lt_succ _⟩, rfl⟩, rfl,
   by intro port; cases port <;> rfl⟩

/-- R187: a test started in a period not yet carried leaves the record the period began with acting in it. -/
theorem test_port_test : ∃ t, exec .portTest (ask 0x50#8 (testBody 0 31 2) State.reset) = .next t ∧
    (t.test .network).state = .seeking ∧ t.held .network = some blankTest := ⟨_, rfl, by decide +kernel⟩

theorem test_port_test_stop : ∃ t, exec .portTestStop (ask 0x52#8 [1] tested) = .next t ∧ (t.test .headset).state = .off ∧
    (t.held .headset).map (·.state) = some .locked := ⟨_, rfl, by decide +kernel⟩

theorem test_meets_sync_query : HeadDue 0x53#8 (rq 0x53#8 []) [] (ask 0x53#8 [] State.reset) ∧ Serving (ask 0x53#8 [] State.reset) :=
  ⟨due_reset _ _, serving_reset _ _⟩

/-- The part in this sync state with this seeking count. -/
def synced (state : SyncState) (seeking : Nat) : State :=
  { State.reset with sync := { state := state, seeking := seeking, slips := 65534, losses := 65534 } }

theorem test_meets_sync : (synced .lost 0).hold = none ∧ Serving (synced .lost 0) ∧ (synced .lost 0).sync.state = .lost ∧
    (synced .seeking 62).sync.seeking < 63 ∧ (synced .seeking 63).sync.seeking = 63 ∧ (synced .seeking 63).sync.slips < 65535 ∧
    (synced .locked 0).sync.state ≠ .lost ∧ (synced .locked 0).sync.losses < 65535 :=
  ⟨rfl, .inl rfl, rfl, by decide, rfl, by decide, by decide, by decide⟩

/-- In this sync state with period 63 carried, prolonged or not. -/
def marked (state : SyncState) (prolonged : Bool) : State :=
  (synced state 0).setClock { period := 63, mark := .pulse, carried := true, prolonged := prolonged, due := none }

theorem test_meets_marks : (marked .locked false).hold = none ∧ Serving (marked .locked false) ∧
    (marked .locked false).clock.carried = true ∧ (marked .locked false).clock.due = none ∧ (marked .locked false).sync.state = .locked ∧
    (marked .locked false).clock.prolonged = false ∧ 125 ≤ 125 ∧ 124 < 125 ∧ (marked .locked true).clock.prolonged = true ∧
    (marked .lost false).sync.state ≠ .locked ∧ (marked .lost true).clock.prolonged = true :=
  ⟨rfl, .inl rfl, rfl, rfl, rfl, rfl, by decide, by decide, rfl, by decide, rfl⟩

/-- L0 OPEN in a period marked so. -/
def carrying (mark : MarkKind) : State := call.setClock { startClock with mark := mark }

theorem test_meets_sample_period : (∀ mark, (carrying mark).hold = none ∧ Serving (carrying mark) ∧ (carrying mark).clock.carried = false ∧
      (carrying mark).clock.due = none ∧ (carrying mark).ports.netTest.state = .off ∧ (carrying mark).ports.headTest.state = .off ∧
      (carrying mark).ports.netHeld = none ∧ (carrying mark).ports.headHeld = none) ∧
    (carrying .internal).clock.mark = .internal ∧ (carrying .pulse).clock.mark ≠ .internal ∧
    ((carrying .pulse).leg 2).state = .closed ∧ ((carrying .pulse).leg 0).state ≠ .closed ∧
    ((carrying .pulse).leg 0).slot = some 4 :=
  ⟨fun _ => ⟨rfl, .inr rfl, rfl, rfl, rfl, rfl, rfl, rfl⟩, rfl, by decide, by decide +kernel, by decide +kernel, by decide +kernel⟩

/-- Tests running on both ports' last slots in a period marked so: BOTH on the network port, in this state, RX on the headset. -/
def underTest (mark : MarkKind) (expected : Option Nat) : State :=
  ((carrying mark).setTest .network { startedTest 31 .both [1, 2, 3, 4, 5, 6, 7, 8] with expected := expected }).setTest .headset
    (startedTest 15 .rx (List.replicate 8 1))

theorem test_meets_running_tests : ∀ mark expected, (underTest mark expected).hold = none ∧ Serving (underTest mark expected) ∧
    (underTest mark expected).clock.carried = false ∧ (underTest mark expected).clock.due = none ∧
    (underTest mark expected).clock.mark = mark ∧
    ((underTest mark expected).ports.netTest.state ≠ .off ∧ (underTest mark expected).ports.netHeld = none ∧
      (underTest mark expected).ports.netTest.slot = (31 : NetSlot).val) ∧
    ((underTest mark expected).ports.headTest.state ≠ .off ∧ (underTest mark expected).ports.headHeld = none ∧
      (underTest mark expected).ports.headTest.slot = (15 : Position).val) ∧
    ((underTest mark expected).setHeld .network (some blankTest)).ports.netHeld ≠ none ∧
    ((underTest mark expected).setHeld .headset (some blankTest)).ports.headHeld ≠ none :=
  fun _ _ => ⟨rfl, .inr rfl, rfl, rfl, rfl, ⟨by simp [underTest, State.setTest, startedTest], rfl, rfl⟩,
    ⟨by simp [underTest, State.setTest, startedTest], rfl, rfl⟩, by simp [State.setHeld], by simp [State.setHeld]⟩

/-- R186: the eighth word in its place locks the test and counts a pass. -/
theorem test_running_test :
    ∃ t, exec (.samplePeriod (Vector.replicate 32 8) (Vector.replicate 16 0)) (underTest .pulse (some 7)) = .next t ∧
    t.ports.netTest.state = .locked ∧ t.ports.netTest.passes = 1 ∧ t.ports.netTest.txIndex = 1 := ⟨_, rfl, by decide +kernel⟩

/-! ## The mix and the frame start -/

/-- Slot 6 is bound to no leg, slot 4 to the OPEN L0 of a group and slot 5 to the HELD L1; P0 is a member, P1 supervises P2 in
no group, P2 has no record of its own, and P3 is disabled. -/
theorem test_meets_mix : (∀ l, (wholeCall.leg l).state ≠ .closed → (wholeCall.leg l).slot ≠ some 6) ∧
    ((wholeCall.leg 0).state = .opened ∧ (wholeCall.leg 0).slot = some 4 ∧ (wholeCall.leg 0).group = some 2 ∧
      ∀ j, j ≠ 0 → (wholeCall.leg j).state ≠ .closed → (wholeCall.leg j).slot ≠ some 4) ∧
    ((wholeCall.leg 1).state = .held ∧ (wholeCall.leg 1).slot = some 5 ∧ (wholeCall.leg 1).source = some 0 ∧
      ∀ j, j ≠ 1 → (wholeCall.leg j).state ≠ .closed → (wholeCall.leg j).slot ≠ some 5) ∧
    ((wholeCall.pos 0).enabled = true ∧ (wholeCall.pos 0).group = some 2) ∧
    ((wholeCall.pos 1).enabled = true ∧ (wholeCall.pos 1).group = none ∧
      wholeCall.supervision.find? (fun k => k.supervisor == 1) = some ⟨1, 2, .whisper, 32768, 8192⟩ ∧ (wholeCall.pos 2).group = none) ∧
    (∀ k ∈ wholeCall.supervision, k.supervisor ≠ 2) ∧ (wholeCall.pos 3).enabled = false := by decide +kernel

/-- R181: an OPEN leg's term is 0 while sync is lost. -/
theorem test_silent_callers (x : MixIn) (n : Nat) :
    memberTerm { wholeCall with sync := { wholeCall.sync with state := .lost } } x n (.leg 0) = 0 ∧
    memberTerm { wholeCall with sync := { wholeCall.sync with state := .locked } } x n (.leg 0) = x.echo[0].getD n 0 * 32768 :=
  ⟨rfl, rfl⟩

theorem test_meets_frame_start : (∀ e, (ended State.reset e).hold = none ∧ Serving (ended State.reset e) ∧
      (ended State.reset e).clock.due = some e ∧ (ended State.reset e).part = .standby) ∧
    (ended call .whole).hold = none ∧ Serving (ended call .whole) ∧ (ended call .whole).part = .running ∧
    (((ended call .whole).pos 3).enabled = false ∧ ((ended call .whole).pos 2).enabled = true) ∧
    (let d := settleOpening (openingPart (ended call .whole)) (ended call .whole);
      (d.leg 2).state = .closed ∧ (d.leg 0).state ≠ .closed ∧ (d.leg 0).slot = some 4 ∧
        (echoFrame (d.leg 0) (netInbound .whole 4 (ended call .whole))).1.ec.divergence < 16) :=
  ⟨fun _ => ⟨rfl, .inl rfl, rfl, rfl⟩, rfl, .inr rfl, rfl, by decide +kernel, by decide +kernel⟩

/-- A leg whose filter makes echo where the line sends none, at the last frame before a divergence reset. -/
def diverging : LegRec := { blankLeg with
  state := .opened, slot := some 4, tail := 128
  ec := { blankCanceller 128 with
    divergence := 15, taps := List.replicate 128 536870912, history := List.replicate 1600 1000 } }

/-- A frame of 100 on every slot has ended with L0 so. -/
def divergingCall : State :=
  let s := ended (call.setLeg 0 diverging) .whole
  { s with ports := { s.ports with netRx := List.replicate 64 (Vector.replicate 32 100) } }

theorem test_meets_divergence : let d := settleOpening (openingPart divergingCall) divergingCall
    divergingCall.hold = none ∧ divergingCall.part = .running ∧ divergingCall.clock.due = some .whole ∧
    (d.leg 0).state ≠ .closed ∧ (d.leg 0).slot = some 4 ∧
    16 ≤ (echoFrame (d.leg 0) (netInbound .whole 4 divergingCall)).1.ec.divergence := by decide +kernel

/-- R205: the first frame start falls at the 64th internal mark after entry into STANDBY. -/
theorem test_first_frame : ((List.range 64).foldl (fun c _ => beginPeriod .internal c) startClock).due = some .whole ∧
    ((List.range 63).foldl (fun c _ => beginPeriod .internal c) startClock).due = none := by decide +kernel

end Sys2Proof.Tests
end

