-- ==== Sys2Proof/Proofs/EchoReset.lean ====
section
/-! PROOF. ECHO_RESET (R56): what a due request with a fitting body leaves (R195), the entry of ECHO_RESET by the leg's state,
and the statement about it. -/

namespace Sys2Proof.Machine

/-! ## A due request that passes the link controller's checks (R195) -/

section
variable {kind : Byte} {r : Request} {rest : List Request} {s : State} {entry : Request → State → Except ResultCode Taken}

/-- R195: past kind, length and part state, the owning block's entry decides. -/
theorem executeHead_entry (h : HeadDue kind r rest s) (hfit : bodyFits r.kind.toNat r.body = some true) (hs : Serving s) :
    executeHead kind entry s = settleAnswer r (dropRequest s) (entry r (dropRequest s)) := by
  rw [executeHead_due h, answer_taken (s := dropRequest s) hfit (.inl hs)]

theorem executeHead_refused {c : ResultCode} (h : HeadDue kind r rest s) (hfit : bodyFits r.kind.toNat r.body = some true)
    (hs : Serving s) (he : entry r (dropRequest s) = .error c) : executeHead kind entry s = answered r rest c [] s := by
  have ⟨_, hqueue, _, _⟩ := h
  rw [executeHead_entry h hfit hs, he, settleAnswer_error hqueue]

/-- An entry that leaves the link alone: its effect u is that on the state before the request left the queue. -/
theorem executeHead_accepted {body : List Byte} {u : State} (h : HeadDue kind r rest s)
    (hfit : bodyFits r.kind.toNat r.body = some true) (hs : Serving s) (hu : u.link = s.link)
    (he : entry r (dropRequest s) = .ok { body := body, state := u.setLink (dropRequest s).link }) :
    executeHead kind entry s = answered r rest .ok body u := by
  have ⟨_, hqueue, _, _⟩ := h
  rw [executeHead_entry h hfit hs, he, settleAnswer_ok _ _ _ rfl]
  simp [answered, State.setLink, hu, hqueue]

end

/-! ## Fields -/

theorem objectAt_u8 {n : Nat} (hn : n ≤ 256) (i : Fin n) : objectAt n (u8 i.val) 0 = .ok i := by
  have hbyte : byteAt (u8 i.val) 0 = i.val := by
    simp only [byteAt, u8, List.getD_cons_zero, BitVec.toNat_ofNat]
    omega
  simp [objectAt, hbyte, object]

/-! ## The entry of ECHO_RESET (R56) -/

theorem clearTaps_eq (ec : Canceller) : clearTaps ec = { ec with taps := List.replicate ec.taps.length 0 } := by
  simp [clearTaps]

/-- R56: the leg with its taps, hangover and divergence count cleared, moved to the head of the adaptation list. -/
def echoCleared (l : Leg) (s : State) : State :=
  (s.setLeg l { s.leg l with ec := { (s.leg l).ec with
      taps := List.replicate (s.leg l).ec.taps.length 0, hangover := 0, divergence := 0 } }).setWork
    { s.work with list := l :: s.work.list.filter (· != l) }

section
variable {r : Request} {s : State} {l : Leg}

theorem echoResetEntry_noObject (hp : s.part = .running) (hb : r.body = u8 l.val)
    (hl : (s.leg l).state = .closed ∨ (s.leg l).closing = true) : echoResetEntry r s = .error .noObject := by
  have hgone : ¬ ((s.leg l).state ≠ .closed ∧ (s.leg l).closing = false) := by
    rcases hl with h | h <;> simp [h]
  simp only [echoResetEntry, whenRunning, bind, Except.bind, require_eq_ok hp, hb, objectAt_u8 (by decide : 24 ≤ 256),
    require_eq_error hgone]

theorem echoResetEntry_ok (hp : s.part = .running) (hb : r.body = u8 l.val)
    (hl : (s.leg l).state ≠ .closed ∧ (s.leg l).closing = false) :
    echoResetEntry r s = .ok { body := [], state := echoCleared l s } := by
  simp only [echoResetEntry, whenRunning, bind, Except.bind, require_eq_ok hp, hb, objectAt_u8 (by decide : 24 ≤ 256),
    require_eq_ok hl, clearTaps_eq]
  rfl

end

theorem bodyFits_echoReset {r : Request} {n : Nat} (hk : r.kind = 0x22#8) (hb : r.body = u8 n) :
    bodyFits r.kind.toNat r.body = some true := by
  rw [hk, hb]
  rfl

/-- ECHO_RESET is the execution of the head request by its entry. -/
theorem exec_echoReset (s : State) : exec .echoReset s = .next (executeHead 0x22#8 echoResetEntry s) := rfl

/-- Settles O33: past the link controller's checks, the leg's state decides between the two outcomes of the entry. -/
theorem echoResetClearsTheFilter : Obligations.EchoResetClearsTheFilter := by
  intro s r rest l hdue hpart hbody
  have ⟨_, _, hkind, _⟩ := hdue
  have hfit := bodyFits_echoReset hkind hbody
  rw [exec_echoReset]
  constructor
  · intro hgone
    rw [executeHead_refused hdue hfit (.inr hpart) (echoResetEntry_noObject hpart hbody hgone)]
  · intro hopen hclosing
    have hentry : echoResetEntry r (dropRequest s) =
        .ok { body := [], state := (echoCleared l s).setLink (dropRequest s).link } :=
      echoResetEntry_ok hpart hbody ⟨hopen, hclosing⟩
    rw [executeHead_accepted (u := echoCleared l s) hdue hfit (.inr hpart) rfl hentry, echoCleared]

end Sys2Proof.Machine
end

section
/-! PROOF. PROMPT_DRAIN and CLASS_MAP (R119, R120): the free pool under a batch of returned handles, the byte fields of a body,
the two entries, and the statements about them. -/

namespace Sys2Proof.Machine

/-! ## The free pool (R119) -/

/-- Wherever the rising order places it, the returned handle is the only one the pool gains. -/
theorem freeHandle_perm (h : Handle) (pool : List Handle) : (freeHandle h pool).Perm (h :: pool) := by
  induction pool with
  | nil => exact .refl _
  | cons x xs ih =>
    rw [freeHandle]
    split
    · exact .refl _
    · exact (ih.cons x).trans (.swap h x xs)

/-- R119: the pool once the handles of these records have returned to it, one after another. -/
def poolAfter (out : List PromptRec) (pool : List Handle) : List Handle :=
  out.foldl (fun f k => freeHandle k.handle f) pool

open List in
theorem poolAfter_perm (out : List PromptRec) (pool : List Handle) :
    (poolAfter out pool).Perm (out.map PromptRec.handle ++ pool) := by
  induction out generalizing pool with
  | nil => exact .refl _
  | cons k ks ih =>
    calc poolAfter (k :: ks) pool
      _ = poolAfter ks (freeHandle k.handle pool) := rfl
      _ ~ ks.map PromptRec.handle ++ freeHandle k.handle pool := ih _
      _ ~ ks.map PromptRec.handle ++ k.handle :: pool := (freeHandle_perm k.handle pool).append_left _
      _ ~ k.handle :: (ks.map PromptRec.handle ++ pool) := List.perm_middle

/-! ## Byte fields -/

theorem byteAt_u8 {n : Nat} (hn : n < 256) : byteAt (u8 n) 0 = n := by
  simp only [byteAt, u8, List.getD_cons_zero, BitVec.toNat_ofNat]
  omega

theorem flatMap_u8 (l : List Nat) : l.flatMap u8 = l.map (BitVec.ofNat 8) := List.map_eq_flatMap.symm

/-- A table sent as bytes reads back entry by entry, each modulo 256. -/
theorem byteAt_flatMap_u8 {n : Nat} (v : Vector Nat n) (i : Fin n) : byteAt (v.toList.flatMap u8) i.val = v[i] % 256 := by
  simp [byteAt, flatMap_u8, List.getD_eq_getElem?_getD]

theorem vgen_byteAt_flatMap_u8 {n : Nat} {v : Vector Nat n} (hv : ∀ i : Fin n, v[i] < 256) :
    vgen n (fun i => byteAt (v.toList.flatMap u8) i.val) = v := by
  ext i hi
  have hread : (vgen n (fun i => byteAt (v.toList.flatMap u8) i.val))[(⟨i, hi⟩ : Fin n)] = v[(⟨i, hi⟩ : Fin n)] := by
    rw [vgen_get, byteAt_flatMap_u8, Nat.mod_eq_of_lt (hv _)]
  exact hread

theorem activePosition_ok {s : State} {p : Position} (hp : p.val < activeCount s.straps) :
    activePosition s p.val = .ok p := by
  simp [activePosition, hp, object]

/-! ## The entry of PROMPT_DRAIN (R119) -/

/-- R119: the state with the position's 8 oldest done records gone and their handles back in the pool. -/
def drained (p : Position) (s : State) : State :=
  { s.setPos p { s.pos p with done := (s.pos p).done.drop 8 } with free := poolAfter ((s.pos p).done.take 8) s.free }

theorem promptDrainEntry_ok {r : Request} {s : State} {p : Position} (hb : r.body = u8 p.val)
    (hp : p.val < activeCount s.straps) :
    promptDrainEntry r s = .ok
      { body := u8 (min 8 (s.pos p).done.length) ++ ((s.pos p).done.take 8).flatMap doneBytes ++ u8 ((s.pos p).done.length - 8)
        state := drained p s } := by
  have hbyte : byteAt r.body 0 = p.val := by rw [hb, byteAt_u8 (by omega)]
  simp only [promptDrainEntry, hbyte, activePosition_ok hp, bind, Except.bind, List.length_take, List.length_drop]
  rfl

theorem bodyFits_promptDrain {r : Request} {n : Nat} (hk : r.kind = 0x3A#8) (hb : r.body = u8 n) :
    bodyFits r.kind.toNat r.body = some true := by
  rw [hk, hb]
  rfl

/-- PROMPT_DRAIN is the execution of the head request by its entry. -/
theorem exec_promptDrain (s : State) : exec .promptDrain s = .next (executeHead 0x3A#8 promptDrainEntry s) := rfl

/-- Settles O46: the entry takes every request for an active position, and the pool it leaves holds the returned handles. -/
theorem promptDrainReturnsRecords : Obligations.PromptDrainReturnsRecords := by
  intro s r rest p hdue hserving hbody hactive
  have ⟨_, _, hkind, _⟩ := hdue
  refine ⟨poolAfter ((s.pos p).done.take 8) s.free, poolAfter_perm _ _, ?_⟩
  rw [exec_promptDrain, executeHead_accepted (u := drained p s) hdue (bodyFits_promptDrain hkind hbody) hserving rfl
    (promptDrainEntry_ok (s := dropRequest s) hbody hactive)]
  rfl

/-! ## The entry of CLASS_MAP (R120) -/

section
variable {r : Request} {s : State} {map : Vector Nat 8}

theorem classMapEntry_ok (hb : r.body = map.toList.flatMap u8) (hmap : ∀ i : Fin 8, map[i] ≤ 3) :
    classMapEntry r s = .ok { body := map.toList.flatMap u8, state := { s with classMap := map } } := by
  have hlevels : ∀ i ∈ List.range 8, byteAt r.body i ≤ 3 := by
    intro i hi
    rw [hb, byteAt_flatMap_u8 map ⟨i, List.mem_range.1 hi⟩]
    exact (Nat.mod_le _ _).trans (hmap _)
  have hread : vgen 8 (fun i => byteAt r.body i.val) = map := by
    rw [hb, vgen_byteAt_flatMap_u8 fun i => (hmap i).trans_lt (by decide)]
  simp only [classMapEntry, bind, Except.bind, require_eq_ok hlevels, hread]
  rfl

theorem classMapEntry_badValue (hb : r.body = map.toList.flatMap u8) {i : Fin 8} (hhigh : 3 < map[i]) (hbyte : map[i] < 256) :
    classMapEntry r s = .error .badValue := by
  have hlevels : ¬ ∀ i ∈ List.range 8, byteAt r.body i ≤ 3 := by
    intro h
    have hread := h i.val (List.mem_range.2 i.isLt)
    rw [hb, byteAt_flatMap_u8, Nat.mod_eq_of_lt hbyte] at hread
    omega
  simp only [classMapEntry, bind, Except.bind, require_eq_error hlevels]

end

theorem bodyFits_classMap {r : Request} {map : Vector Nat 8} (hk : r.kind = 0x3B#8) (hb : r.body = map.toList.flatMap u8) :
    bodyFits r.kind.toNat r.body = some true := by
  have hlen : r.body.length = 8 := by simp [hb, flatMap_u8]
  rw [hk]
  simpa [bodyFits] using hlen

/-- CLASS_MAP is the execution of the head request by its entry. -/
theorem exec_classMap (s : State) : exec .classMap s = .next (executeHead 0x3B#8 classMapEntry s) := rfl

/-- Settles O47: past the link controller's checks, the levels read from the body decide between the entry's two outcomes. -/
theorem classMapTakesTheLevels : Obligations.ClassMapTakesTheLevels := by
  intro s r rest map hdue hserving hbody
  have ⟨_, _, hkind, _⟩ := hdue
  have hfit := bodyFits_classMap hkind hbody
  rw [exec_classMap]
  constructor
  · intro hmap
    rw [executeHead_accepted (u := { s with classMap := map }) hdue hfit hserving rfl
      (classMapEntry_ok (s := dropRequest s) hbody hmap)]
  · rintro ⟨i, hhigh, hbyte⟩
    rw [executeHead_refused hdue hfit hserving (classMapEntry_badValue hbody hhigh hbyte)]

end Sys2Proof.Machine
end

section
/-! PROOF. BUDGET_SET (R160): the fields of a body read one behind another, the bits of its selection, the two limits it asks for,
the entry by the selection and the commitment, and the statement about it. -/

namespace Sys2Proof.Machine

/-! ## Fields one behind another (R213) -/

theorem byteAt_u8_append_zero {n : Nat} (hn : n < 256) (b : List Byte) : byteAt (u8 n ++ b) 0 = n := byteAt_u8 hn

theorem byteAt_append_length_add (a b : List Byte) (i : Nat) : byteAt (a ++ b) (a.length + i) = byteAt b i := by
  simp [byteAt, List.getD_eq_getElem?_getD, List.getElem?_append_right]

theorem wordAt_append_length_add (a b : List Byte) (i : Nat) : wordAt (a ++ b) (a.length + i) = wordAt b i := by
  simp only [wordAt, Nat.add_assoc, byteAt_append_length_add]

theorem wordAt_u16_append_zero {n : Nat} (hn : n < 65536) (b : List Byte) : wordAt (u16 n ++ b) 0 = n := by
  have hhigh : byteAt (u16 n ++ b) 0 = n / 256 % 256 := rfl
  have hlow : byteAt (u16 n ++ b) 1 = n % 256 := rfl
  rw [wordAt, hhigh, hlow]
  omega

/-! ## Bits of a selection (R213) -/

theorem selected_zero_iff {sel : Nat} : selected sel 0 = true ↔ sel % 2 = 1 := by
  simp [selected, Nat.testBit_zero]

theorem selected_one_iff {sel : Nat} : selected sel 1 = true ↔ 2 ≤ sel % 4 := by
  simp only [selected, Nat.testBit_succ, Nat.testBit_zero, decide_eq_true_eq]
  omega

/-! ## The entry of BUDGET_SET (R160) -/

/-- R160: the ceiling in force once the request is taken: the clamped value where CEILING is selected. -/
def askedCeiling (sel ceiling : Nat) (w : Work) : Nat := if sel % 2 = 1 then max 512 (min 2048 ceiling) else w.ceiling

/-- R160: the service ratio in force once the request is taken: the clamped value where RATIO is selected. -/
def askedRatio (sel ratio : Nat) (w : Work) : Nat := if 2 ≤ sel % 4 then max 1 (min 4 ratio) else w.ratio

/-- R160: the limits taken replace those in force, and nothing else of the budget moves. -/
def limitsTaken (sel ceiling ratio : Nat) (s : State) : State :=
  s.setWork { s.work with ceiling := askedCeiling sel ceiling s.work, ratio := askedRatio sel ratio s.work }

/-- The entry's check on the ceiling binds only where CEILING is selected. -/
theorem ceilingFits_iff {sel ceiling : Nat} {w : Work} :
    (selected sel 0 = false ∨ w.commitment ≤ askedCeiling sel ceiling w) ↔
      (sel % 2 = 1 → w.commitment ≤ max 512 (min 2048 ceiling)) := by
  rw [← Bool.not_eq_true, selected_zero_iff, askedCeiling, ← imp_iff_not_or]
  exact imp_congr_right fun hodd => by rw [if_pos hodd]

section
variable {r : Request} {s : State} {sel ceiling ratio : Nat} (hsel : sel < 256) (hceiling : ceiling < 65536) (hratio : ratio < 256)
  (hb : r.body = u8 sel ++ u16 ceiling ++ u8 ratio)
include hsel hceiling hratio hb

/-- The entry over the three fields of its body. -/
theorem budgetSetEntry_eq :
    budgetSetEntry r s = (do
      require (sel % 4 ≠ 0) .badValue
      require (selected sel 0 = false ∨ s.work.commitment ≤ askedCeiling sel ceiling s.work) .conflict
      return {
        body := u16 (askedCeiling sel ceiling s.work) ++ u8 (askedRatio sel ratio s.work) ++ u16 s.work.commitment ++
          u16 (2560 - s.work.commitment)
        state := limitsTaken sel ceiling ratio s }) := by
  have hselAt : byteAt r.body 0 = sel := by
    rw [hb, List.append_assoc, byteAt_u8_append_zero hsel]
  have hceilingAt : wordAt r.body 1 = ceiling := by
    rw [hb, List.append_assoc]
    exact (wordAt_append_length_add (u8 sel) _ 0).trans (wordAt_u16_append_zero hceiling _)
  have hratioAt : byteAt r.body 3 = ratio := by
    rw [hb]
    exact (byteAt_append_length_add (u8 sel ++ u16 ceiling) _ 0).trans (byteAt_u8 hratio)
  simp only [budgetSetEntry, hselAt, hceilingAt, hratioAt, selected_zero_iff, selected_one_iff]
  rfl

theorem budgetSetEntry_badValue (hnone : sel % 4 = 0) : budgetSetEntry r s = .error .badValue := by
  rw [budgetSetEntry_eq hsel hceiling hratio hb, require_eq_error (not_not.2 hnone)]
  rfl

theorem budgetSetEntry_conflict (hodd : sel % 2 = 1) (hbelow : max 512 (min 2048 ceiling) < s.work.commitment) :
    budgetSetEntry r s = .error .conflict := by
  have hsome : sel % 4 ≠ 0 := by omega
  have hclash : ¬ (selected sel 0 = false ∨ s.work.commitment ≤ askedCeiling sel ceiling s.work) :=
    fun hfits => hbelow.not_ge (ceilingFits_iff.1 hfits hodd)
  rw [budgetSetEntry_eq hsel hceiling hratio hb, require_eq_ok hsome, require_eq_error hclash]
  rfl

theorem budgetSetEntry_ok (hsome : sel % 4 ≠ 0)
    (hroom : sel % 2 = 1 → s.work.commitment ≤ max 512 (min 2048 ceiling)) :
    budgetSetEntry r s = .ok {
      body := u16 (askedCeiling sel ceiling s.work) ++ u8 (askedRatio sel ratio s.work) ++ u16 s.work.commitment ++
        u16 (2560 - s.work.commitment)
      state := limitsTaken sel ceiling ratio s } := by
  rw [budgetSetEntry_eq hsel hceiling hratio hb, require_eq_ok hsome, require_eq_ok (ceilingFits_iff.2 hroom)]
  rfl

end

theorem bodyFits_budgetSet {r : Request} {sel ceiling ratio : Nat} (hk : r.kind = 0x48#8)
    (hb : r.body = u8 sel ++ u16 ceiling ++ u8 ratio) : bodyFits r.kind.toNat r.body = some true := by
  rw [hk, hb]
  rfl

/-- BUDGET_SET is the execution of the head request by its entry. -/
theorem exec_budgetSet (s : State) : exec .budgetSet s = .next (executeHead 0x48#8 budgetSetEntry s) := rfl

/-- Settles O52: past the link controller's checks, the selection and the commitment decide between the entry's three outcomes. -/
theorem budgetSetMovesTheLimits : Obligations.BudgetSetMovesTheLimits := by
  intro s r rest sel ceiling ratio hdue hserving hsel hceiling hratio hbody
  have ⟨_, _, hkind, _⟩ := hdue
  have hfit := bodyFits_budgetSet hkind hbody
  rw [exec_budgetSet]
  refine ⟨fun hnone => ?_, fun hodd hbelow => ?_, fun hsome hroom => ?_⟩
  · rw [executeHead_refused hdue hfit hserving (budgetSetEntry_badValue hsel hceiling hratio hbody hnone)]
  · rw [executeHead_refused hdue hfit hserving (budgetSetEntry_conflict hsel hceiling hratio hbody hodd hbelow)]
  · refine ⟨askedCeiling sel ceiling s.work, askedRatio sel ratio s.work, rfl, rfl, ?_⟩
    rw [executeHead_accepted (u := limitsTaken sel ceiling ratio s) hdue hfit hserving rfl
      (budgetSetEntry_ok (s := dropRequest s) hsel hceiling hratio hbody hsome hroom)]
    rfl

end Sys2Proof.Machine
end

section
/-! PROOF. START and LINK_STATUS (R208, R212): a due request in a part that serves none (R202), one whose effect is on the link
itself, the two entries, and the statements about them. -/

namespace Sys2Proof.Machine

/-! ## A due request by its part state (R195, R202) -/

section
variable {kind : Byte} {r : Request} {rest : List Request} {s : State} {entry : Request → State → Except ResultCode Taken}

/-- R202: in SELFTEST and FAILED the link controller answers before the entry is asked. -/
theorem executeHead_wrongState (h : HeadDue kind r rest s) (hfit : bodyFits r.kind.toNat r.body = some true)
    (hs : ¬ Serving s) (halways : takenAlways r.kind = false) :
    executeHead kind entry s = answered r rest .wrongState [] s := by
  have ⟨_, hqueue, _, _⟩ := h
  rw [executeHead_due h, answer_wrongState (s := dropRequest s) hfit hs halways, settleAnswer_error hqueue]

/-- An entry that may change the link: the reply joins the queue of the state it leaves. -/
theorem executeHead_replied {t : Taken} (h : HeadDue kind r rest s) (hfit : bodyFits r.kind.toNat r.body = some true)
    (hs : Serving s) (he : entry r (dropRequest s) = .ok t) (hquiet : t.raises = []) :
    executeHead kind entry s = pushReply r t.result t.body t.state := by
  rw [executeHead_entry h hfit hs, he, settleAnswer_ok r _ t hquiet]

end

/-! ## START (R208) -/

theorem startEntry_ok {s : State} (r : Request) (hp : s.part = .standby) :
    startEntry r s = .ok { body := u32 s.frame.toNat, state := { s with part := .running } } := by
  simp only [startEntry, whenStandby, bind, Except.bind, require_eq_ok hp]
  rfl

theorem startEntry_wrongState {s : State} (r : Request) (hp : s.part ≠ .standby) : startEntry r s = .error .wrongState := by
  simp only [startEntry, whenStandby, bind, Except.bind, require_eq_error hp]

theorem bodyFits_start {r : Request} (hk : r.kind = 0x03#8) (hb : r.body = []) :
    bodyFits r.kind.toNat r.body = some true := by
  rw [hk, hb]
  rfl

/-- START is the execution of the head request by its entry. -/
theorem exec_start (s : State) : exec .start s = .next (executeHead 0x03#8 startEntry s) := rfl

/-- Settles O19: START is served in both states, and its entry takes it in STANDBY alone. -/
theorem startEntersRunning : Obligations.StartEntersRunning := by
  intro s r rest hdue hbody
  have ⟨_, _, hkind, _⟩ := hdue
  have hfit := bodyFits_start hkind hbody
  rw [exec_start]
  constructor
  · intro hstandby
    rw [executeHead_accepted (u := { s with part := .running }) hdue hfit (.inl hstandby) rfl
      (startEntry_ok (s := dropRequest s) r hstandby)]
    rfl
  · intro hrunning
    have hnot : (dropRequest s).part ≠ .standby := by simp [hrunning]
    rw [executeHead_refused hdue hfit (.inr hrunning) (startEntry_wrongState r hnot)]

/-! ## LINK_STATUS (R212) -/

/-- R212: the link with its four counts cleared and its queues as they are. -/
def countsCleared (k : Link) : Link := { k with badCheck := 0, badLength := 0, short := 0, overrun := 0 }

/-- R212: the counts, then the lengths of the queues as the entry finds them, the request itself gone. -/
theorem linkStatusEntry_ok (r : Request) (s : State) :
    linkStatusEntry r s = .ok {
      body := u16 s.link.badCheck ++ u16 s.link.badLength ++ u16 s.link.short ++ u16 s.link.overrun ++
        u8 s.link.requests.length ++ u8 s.link.replies.length ++ u8 s.link.notices.length
      state := s.setLink (countsCleared s.link) } := rfl

theorem bodyFits_linkStatus {r : Request} (hk : r.kind = 0x06#8) (hb : r.body = []) :
    bodyFits r.kind.toNat r.body = some true := by
  rw [hk, hb]
  rfl

/-- LINK_STATUS is the execution of the head request by its entry. -/
theorem exec_linkStatus (s : State) : exec .linkStatus s = .next (executeHead 0x06#8 linkStatusEntry s) := rfl

/-- Settles O22: where the part serves requests the entry takes every LINK_STATUS; elsewhere the link controller refuses it. -/
theorem linkStatusReportsAndClears : Obligations.LinkStatusReportsAndClears := by
  intro s r rest hdue hbody
  have ⟨_, hqueue, hkind, _⟩ := hdue
  have hfit := bodyFits_linkStatus hkind hbody
  rw [exec_linkStatus]
  constructor
  · intro hserving
    rw [executeHead_replied hdue hfit hserving (linkStatusEntry_ok r _) rfl]
    simp [answered, countsCleared, State.setLink, hqueue]
  · intro hunserved
    rw [executeHead_wrongState hdue hfit hunserved (by rw [hkind]; rfl)]

end Sys2Proof.Machine
end

section
/-! PROOF. LEG_QUERY and ECHO_QUERY (R219, R220): a due request whose entry only reads the state, flag bytes as sums of their bits,
and the statements about the two record layouts. -/

namespace Sys2Proof.Machine

/-! ## A query (R195) -/

/-- An entry that leaves the state as it finds it: the reply alone shows that the request was taken. -/
theorem executeHead_query {kind : Byte} {r : Request} {rest : List Request} {s : State} {body : List Byte}
    {entry : Request → State → Except ResultCode Taken} (h : HeadDue kind r rest s)
    (hfit : bodyFits r.kind.toNat r.body = some true) (hs : Serving s)
    (he : entry r (dropRequest s) = .ok { body := body, state := dropRequest s }) :
    executeHead kind entry s = answered r rest .ok body s :=
  executeHead_accepted h hfit hs rfl he

theorem leg_dropRequest (s : State) (l : Leg) : (dropRequest s).leg l = s.leg l := State.leg_setLink s _ l

/-! ## Flag bytes (R213) -/

@[simp] theorem bits_nil : bits [] = 0 := rfl

/-- Bit 0 is the first flag, and the others stand one place higher. -/
@[simp] theorem bits_cons (b : Bool) (l : List Bool) : bits (b :: l) = (if b then 1 else 0) + 2 * bits l := rfl

theorem bits_two (a b : Bool) : bits [a, b] = (if a then 1 else 0) + (if b then 2 else 0) := by
  simp [mul_ite]

theorem bits_four (a b c d : Bool) :
    bits [a, b, c, d] =
      (if a then 1 else 0) + (if b then 2 else 0) + (if c then 4 else 0) + (if d then 8 else 0) := by
  simp [mul_add, mul_ite, add_assoc]

/-! ## The leg record (R219) -/

theorem bodyFits_legQuery {r : Request} {n : Nat} (hk : r.kind = 0x1B#8) (hb : r.body = u8 n) :
    bodyFits r.kind.toNat r.body = some true := by
  rw [hk, hb]
  rfl

/-- LEG_QUERY is the execution of the head request by its entry. -/
theorem exec_legQuery (s : State) : exec .legQuery s = .next (executeHead 0x1B#8 legQueryEntry s) := rfl

/-- Settles O30: the entry takes every leg number and reads the leg's record, whose two flags make one byte. -/
theorem legQueryReports : Obligations.LegQueryReports := by
  intro s r rest l hdue hserving hbody
  have ⟨_, _, hkind, _⟩ := hdue
  have hleg : objectAt 24 r.body 0 = .ok l := hbody ▸ objectAt_u8 (by decide) l
  rw [exec_legQuery, executeHead_query hdue (bodyFits_legQuery hkind hbody) hserving]
  simp only [legQueryEntry, hleg, bind, Except.bind, bits_two, leg_dropRequest]
  -- R213: slot, group and source are each a number or absent.
  rcases (s.leg l).slot with _ | slot <;> rcases (s.leg l).group with _ | group <;>
    rcases (s.leg l).source with _ | source <;> rfl

/-! ## The canceller record (R220) -/

theorem bodyFits_echoQuery {r : Request} {n : Nat} (hk : r.kind = 0x23#8) (hb : r.body = u8 n) :
    bodyFits r.kind.toNat r.body = some true := by
  rw [hk, hb]
  rfl

/-- ECHO_QUERY is the execution of the head request by its entry. -/
theorem exec_echoQuery (s : State) : exec .echoQuery s = .next (executeHead 0x23#8 echoQueryEntry s) := rfl

/-- Settles O34: the entry takes every leg number and reads the leg's record, whose four flags make one byte. -/
theorem echoQueryReports : Obligations.EchoQueryReports := by
  intro s r rest l hdue hserving hbody
  have ⟨_, _, hkind, _⟩ := hdue
  have hleg : objectAt 24 r.body 0 = .ok l := hbody ▸ objectAt_u8 (by decide) l
  rw [exec_echoQuery, executeHead_query hdue (bodyFits_echoQuery hkind hbody) hserving]
  simp only [echoQueryEntry, hleg, bind, Except.bind, bits_four, leg_dropRequest]
  rfl

end Sys2Proof.Machine
end

section
/-! PROOF. What the entry of each request row leaves when it takes a request (R15, R195): one case for each kind of effect, with
the checks that let it through, and the statement that a refused request changes nothing (R196). -/

namespace Sys2Proof.Machine

/-! ## Rows and their entries (R195) -/

/-- The entry of the chapter that a request row asks, for the rows of rowKind. -/
def rowEntry : Instr → Option (Request → State → Except ResultCode Taken)
  | .identify => some identifyEntry | .status => some statusEntry | .start => some startEntry | .stop => some stopEntry
  | .linkStatus => some linkStatusEntry | .legOpen => some legOpenEntry | .legClose => some legCloseEntry
  | .groupAdd => some groupAddEntry | .groupRemove => some groupRemoveEntry | .hold => some holdEntry
  | .resume => some resumeEntry | .mute => some muteEntry | .supervise => some superviseEntry
  | .unsupervise => some unsuperviseEntry | .positionSet => some positionSetEntry | .sendGain => some sendGainEntry
  | .legQuery => some legQueryEntry | .positionQuery => some positionQueryEntry | .groupQuery => some groupQueryEntry
  | .echoSet => some echoSetEntry | .echoTail => some echoTailEntry | .echoReset => some echoResetEntry
  | .echoQuery => some echoQueryEntry | .micSet => some micSetEntry | .quietMask => some quietMaskEntry
  | .micQuery => some micQueryEntry | .sourceSet => some sourceSetEntry | .sourceStart => some sourceStartEntry
  | .sourceStop => some sourceStopEntry | .streamData => some streamDataEntry | .sourceQuery => some sourceQueryEntry
  | .promptQueue => some promptQueueEntry | .promptCancel => some promptCancelEntry | .promptDrain => some promptDrainEntry
  | .classMap => some classMapEntry | .promptQuery => some promptQueryEntry | .areaSet => some areaSetEntry
  | .reindex => some reindexEntry | .clipDeclare => some clipDeclareEntry | .clipForget => some clipForgetEntry
  | .clipLookup => some clipLookupEntry | .faultRead => some faultReadEntry | .budgetSet => some budgetSetEntry
  | .budgetQuery => some budgetQueryEntry | .stageMode => some stageModeEntry | .apply => some applyEntry
  | .discard => some discardEntry | .stageQuery => some stageQueryEntry | .portTest => some portTestEntry
  | .portTestRead => some portTestReadEntry | .portTestStop => some portTestStopEntry | .syncQuery => some syncQueryEntry
  | _ => none

/-- Every request row is the execution of the head request by its entry. -/
theorem exec_row {c : Instr} {k : Byte} (h : rowKind c = some k) :
    ∃ entry, rowEntry c = some entry ∧ ∀ s, exec c s = .next (executeHead k entry s) := by
  cases c <;> cases h <;> exact ⟨_, rfl, fun _ => rfl⟩

/-! ## What an entry leaves -/

/-- R19 to R26, R78, R80: what the checks of a staged request have found on the projected state p. -/
def Admitted (p : State) : ChangeOp → Prop
  | .groupAdd g m =>
    memberInService p m = true ∧ memberGroup p m = none ∧ memberSupervises p m = false ∧ (p.members g).length < 6
  | .groupRemove g m => memberGroup p m = some g
  | .supervise sup agent _ _ =>
    ((p.pos sup).enabled = true ∧ (p.pos agent).enabled = true) ∧
      ((p.pos sup).role = .supervisor ∧ (p.pos agent).role = .agent) ∧ (p.pos sup).group = none ∧
      match asSupervisor p sup with
      | some k => k.agent = agent
      | none => asAgent p agent = none ∧ p.supervision.length < 8
  | _ => True

/-- R163: the state with a change at the tail of its class's list. -/
def joinList (op : ChangeOp) (tag : Byte) (s : State) : State :=
  s.setStage op.cls { s.stage op.cls with
    list := (s.stage op.cls).list ++ [{ tag := tag, arrival := s.frame, op := op }] }

/-- R27, R28: the state after POSITION_SET has passed its checks. -/
def positionPut (p : Position) (on : Bool) (role : Role) (s : State) : State :=
  if (s.pos p).enabled = on then s.setPos p { s.pos p with role := role }
  else if on then enablePosition p role s
  else disablePosition p role s

/-- R16: the leg opens on the slot with this tail and gain, at the head of the adaptation list, and its cost is committed. -/
def legOpened (l : Leg) (slot : NetSlot) (tail gain : Nat) (s : State) : State :=
  (s.setLeg l (openedLeg (s.leg l) slot tail gain)).setWork
    { s.work with commitment := s.work.commitment + legCost tail, list := moveHead l s.work.list }

/-- R55: the leg takes this tail, its taps cut or completed with zeros, and the commitment moves by the change of cost. -/
def tailPut (l : Leg) (tail : Nat) (s : State) : State :=
  (s.setLeg l { s.leg l with tail := tail, ec := { (s.leg l).ec with taps := resizeTaps tail (s.leg l).ec.taps } }).setWork
    { s.work with commitment := s.work.commitment - legCost (s.leg l).tail + legCost tail }

/-- From s to u a request row has taken its request: one case for each kind of effect, with what its checks found. -/
inductive Served (s : State) : State → Prop
  | same : Served s s
  | started : Served s { s with part := .running }
  | tornDown : Served s (tearDown s)
  | counts : Served s (s.setLink { s.link with badCheck := 0, badLength := 0, short := 0, overrun := 0 })
  | opened (l : Leg) (slot : NetSlot) (requested gain : Nat) (hclosed : (s.leg l).state = .closed)
      (hslot : slotTaken s l slot = false)
      (htail : 128 ≤ grantedTail (s.work.ceiling - s.work.commitment) requested) :
      Served s (legOpened l slot (grantedTail (s.work.ceiling - s.work.commitment) requested) gain s)
  | staged (op : ChangeOp) (tag : Byte) (hroom : (s.stage op.cls).list.length < 16) (hop : Admitted (projected s) op) :
      Served s (joinList op tag s)
  | closing (l : Leg) (tag : Byte) (hroom : s.routing.list.length < 16) :
      Served s ((joinList (.legClose l) tag s).setLeg l { s.leg l with closing := true })
  | position (p : Position) (on : Bool) (role : Role)
      (hfree : ¬ ((s.pos p).enabled = true ∧ (on = false ∨ role ≠ (s.pos p).role) ∧ engagedAnywhere s p = true))
      (hroom : ¬ ((s.pos p).enabled = false ∧ on = true ∧ s.work.ceiling < s.work.commitment + Config.positionCost)) :
      Served s (positionPut p on role s)
  | retailed (l : Leg) (requested : Nat) (hlive : (s.leg l).state ≠ .closed) :
      Served s (tailPut l (grantedGrowth (s.work.ceiling - (s.work.commitment - legCost (s.leg l).tail)) (s.leg l).tail requested) s)
  | cleared (l : Leg) (hlive : (s.leg l).state ≠ .closed) :
      Served s ((s.setLeg l { s.leg l with ec := { clearTaps (s.leg l).ec with hangover := 0, divergence := 0 } }).headOfList l)
  | quieted (mask : BitVec 16) : Served s { s with quietMask := mask }
  | source (m : Source) (k : SourceRec) : Served s (s.setSrc m k)
  | queued (p : Position) (k : PromptRec) (hon : (s.pos p).enabled = true) (hroom : (s.pos p).queue.length < 8)
      (hfree : s.free.min? = some k.handle) :
      Served s { s.setPos p { s.pos p with queue := insertPrompt k (s.pos p).queue } with free := s.free.erase k.handle }
  | cancelled (h : Handle) (p : Position) (k : PromptRec) (hat : pendingAt s h = some (p, k)) :
      Served s (endPending p .cancelled k s)
  | marked (h : Handle) (p : Position) (pl : Playing) (hat : playingAt s h = some (p, pl)) :
      Served s (s.setPos p { s.pos p with slot := some { pl with prompt := { pl.prompt with cancel := true } } })
  | drained (p : Position) : Served s (drained p s)
  | levels (map : Vector Nat 8) : Served s { s with classMap := map }
  | indexed (areas : Vector Area 4) (index : Vector (List IndexEntry) 128) : Served s { s with areas := areas, index := index }
  | scanned : Served s (startScan s)
  | faultRead : Served s { s with fault := blankFault }
  | limits (ceiling ratio : Nat) (hc : 512 ≤ ceiling ∧ ceiling ≤ 2048 ∧ s.work.commitment ≤ ceiling ∨ ceiling = s.work.ceiling)
      (hr : 1 ≤ ratio ∧ ratio ≤ 4 ∨ ratio = s.work.ratio) :
      Served s (s.setWork { s.work with ceiling := ceiling, ratio := ratio })
  | masked (c : ChangeClass) (next line : Bool) :
      Served s (s.setStage c { s.stage c with nextFrame := next, applyLine := line })
  | latched (cs : List ChangeClass) : Served s (cs.foldl (fun s c => s.setStage c (latchIfPending (s.stage c))) s)
  | discarded (cs : List ChangeClass) : Served s (cs.foldl (fun s c => discardClass c s) s)
  | tested (port : Port) (t : PortTest) : Served s ((keepActing port s).setTest port t)

/-- What a request row's taken request amounts to: its result is OK or ACCEPTED, only STOP raises behind the reply, and its state is
served. -/
structure Taken.Sound (s : State) (t : Taken) : Prop where
  result : t.result = .ok ∨ t.result = .accepted
  raises : t.raises = [] ∨ t.raises = [(0, .partState .standby 0 .stop)]
  served : Served s t.state

theorem Taken.Sound.of {s u : State} {body : List Byte} (h : Served s u) : Taken.Sound s { body := body, state := u } :=
  ⟨.inl rfl, .inl rfl, h⟩

theorem except_pure_ok {ε α : Type} {a b : α} : (pure a : Except ε α) = .ok b ↔ a = b := by
  simp [pure, Except.pure]

theorem except_error_ok {ε α : Type} {e : ε} {b : α} : (Except.error e : Except ε α) = .ok b ↔ False := by simp

/-- R15, R163: a taken staged request has found room, and joined. -/
theorem stageChange_ok {r : Request} {op : ChangeOp} {fields : State → List Byte} {s : State} {t : Taken}
    (h : stageChange r op fields s = .ok t) :
    (s.stage op.cls).list.length < 16 ∧
      t = { body := u8 ((s.stage op.cls).list.length + 1) ++ fields (joinList op r.tag s), state := joinList op r.tag s } := by
  simp only [stageChange, except_bind_ok, require_ok_iff, except_pure_ok] at h
  obtain ⟨_, hroom, rfl⟩ := h
  exact ⟨hroom, rfl⟩

theorem stageChange_sound {r : Request} {op : ChangeOp} {fields : State → List Byte} {s : State} {t : Taken}
    (h : stageChange r op fields s = .ok t) (hop : Admitted (projected s) op) : t.Sound s := by
  obtain ⟨hroom, rfl⟩ := stageChange_ok h
  exact .of (.staged op r.tag hroom hop)

section
variable {r : Request} {s : State} {t : Taken}

theorem identifyEntry_sound (h : identifyEntry r s = .ok t) : t.Sound s := by
  cases h; exact .of .same

theorem statusEntry_sound (h : statusEntry r s = .ok t) : t.Sound s := by
  cases h; exact .of .same

theorem startEntry_sound (h : startEntry r s = .ok t) : t.Sound s := by
  simp only [startEntry, except_bind_ok, except_pure_ok] at h
  obtain ⟨_, _, rfl⟩ := h
  exact .of .started

theorem stopEntry_sound (h : stopEntry r s = .ok t) : t.Sound s := by
  simp only [stopEntry, except_bind_ok, except_pure_ok] at h
  obtain ⟨_, _, rfl⟩ := h
  exact ⟨.inl rfl, .inr rfl, .tornDown⟩

theorem linkStatusEntry_sound (h : linkStatusEntry r s = .ok t) : t.Sound s := by
  cases h; exact .of .counts

theorem legOpenEntry_sound (h : legOpenEntry r s = .ok t) : t.Sound s := by
  simp only [legOpenEntry, except_bind_ok, require_ok_iff, except_pure_ok] at h
  obtain ⟨_, _, l, _, slot, _, _, ⟨hclosed, _⟩, _, hslot, _, htail, rfl⟩ := h
  exact .of (.opened l slot _ _ hclosed hslot htail)

theorem legCloseEntry_sound (h : legCloseEntry r s = .ok t) : t.Sound s := by
  simp only [legCloseEntry, except_bind_ok, require_ok_iff, except_pure_ok] at h
  obtain ⟨_, _, l, _, _, _, t', ht, rfl⟩ := h
  obtain ⟨hroom, rfl⟩ := stageChange_ok ht
  exact .of (.closing l r.tag hroom)

theorem groupAddEntry_sound (h : groupAddEntry r s = .ok t) : t.Sound s := by
  simp only [groupAddEntry, except_bind_ok, require_ok_iff] at h
  obtain ⟨_, _, g, _, m, _, _, hin, _, ⟨hgroup, hsup⟩, _, hlen, h⟩ := h
  exact stageChange_sound h ⟨hin, hgroup, hsup, hlen⟩

theorem groupRemoveEntry_sound (h : groupRemoveEntry r s = .ok t) : t.Sound s := by
  simp only [groupRemoveEntry, except_bind_ok, require_ok_iff] at h
  obtain ⟨_, _, g, _, m, _, _, hgroup, h⟩ := h
  exact stageChange_sound h hgroup

theorem holdEntry_sound (h : holdEntry r s = .ok t) : t.Sound s := by
  simp only [holdEntry, except_bind_ok] at h
  obtain ⟨_, _, l, _, m, _, _, _, h⟩ := h
  exact stageChange_sound h trivial

theorem resumeEntry_sound (h : resumeEntry r s = .ok t) : t.Sound s := by
  simp only [resumeEntry, except_bind_ok] at h
  obtain ⟨_, _, l, _, _, _, _, _, h⟩ := h
  exact stageChange_sound h trivial

theorem muteEntry_sound (h : muteEntry r s = .ok t) : t.Sound s := by
  simp only [muteEntry, except_bind_ok] at h
  obtain ⟨_, _, on, _, p, _, h⟩ := h
  exact stageChange_sound h trivial

theorem superviseEntry_sound (h : superviseEntry r s = .ok t) : t.Sound s := by
  simp only [superviseEntry, except_bind_ok, require_ok_iff] at h
  obtain ⟨_, _, mode, _, sup, _, agent, _, _, hon, _, hroles, _, hgroup, h⟩ := h
  cases hrec : asSupervisor (projected s) sup <;> simp only [hrec, except_bind_ok, require_ok_iff] at h
  case none =>
    obtain ⟨_, hagent, _, hlen, h⟩ := h
    exact stageChange_sound h ⟨hon, hroles, hgroup, by rw [hrec]; exact ⟨hagent, hlen⟩⟩
  case some k =>
    obtain ⟨_, hagent, h⟩ := h
    exact stageChange_sound h ⟨hon, hroles, hgroup, by rw [hrec]; exact hagent⟩

theorem unsuperviseEntry_sound (h : unsuperviseEntry r s = .ok t) : t.Sound s := by
  simp only [unsuperviseEntry, except_bind_ok] at h
  obtain ⟨_, _, sup, _, _, _, h⟩ := h
  exact stageChange_sound h trivial

theorem positionSetEntry_sound (h : positionSetEntry r s = .ok t) : t.Sound s := by
  simp only [positionSetEntry, except_bind_ok, require_ok_iff, except_pure_ok] at h
  obtain ⟨_, _, on, _, role, _, p, _, _, hfree, _, hroom, rfl⟩ := h
  exact .of (.position p on role hfree hroom)

theorem sendGainEntry_sound (h : sendGainEntry r s = .ok t) : t.Sound s := by
  simp only [sendGainEntry, except_bind_ok] at h
  obtain ⟨_, _, m, _, _, _, h⟩ := h
  exact stageChange_sound h trivial

theorem legQueryEntry_sound (h : legQueryEntry r s = .ok t) : t.Sound s := by
  simp only [legQueryEntry, except_bind_ok, except_pure_ok] at h
  obtain ⟨_, _, rfl⟩ := h
  exact .of .same

theorem positionQueryEntry_sound (h : positionQueryEntry r s = .ok t) : t.Sound s := by
  simp only [positionQueryEntry, except_bind_ok, except_pure_ok] at h
  obtain ⟨_, _, rfl⟩ := h
  exact .of .same

theorem groupQueryEntry_sound (h : groupQueryEntry r s = .ok t) : t.Sound s := by
  simp only [groupQueryEntry, except_bind_ok, except_pure_ok] at h
  obtain ⟨_, _, rfl⟩ := h
  exact .of .same

theorem echoSetEntry_sound (h : echoSetEntry r s = .ok t) : t.Sound s := by
  simp only [echoSetEntry, except_bind_ok] at h
  obtain ⟨_, _, l, _, _, _, _, _, _, _, h⟩ := h
  exact stageChange_sound h trivial

theorem echoTailEntry_sound (h : echoTailEntry r s = .ok t) : t.Sound s := by
  simp only [echoTailEntry, except_bind_ok, require_ok_iff, except_pure_ok] at h
  obtain ⟨_, _, l, _, _, ⟨hlive, _⟩, rfl⟩ := h
  exact .of (.retailed l _ hlive)

theorem echoResetEntry_sound (h : echoResetEntry r s = .ok t) : t.Sound s := by
  simp only [echoResetEntry, except_bind_ok, require_ok_iff, except_pure_ok] at h
  obtain ⟨_, _, l, _, _, ⟨hlive, _⟩, rfl⟩ := h
  exact .of (.cleared l hlive)

theorem echoQueryEntry_sound (h : echoQueryEntry r s = .ok t) : t.Sound s := by
  simp only [echoQueryEntry, except_bind_ok, except_pure_ok] at h
  obtain ⟨_, _, rfl⟩ := h
  exact .of .same

theorem micSetEntry_sound (h : micSetEntry r s = .ok t) : t.Sound s := by
  simp only [micSetEntry, except_bind_ok] at h
  obtain ⟨_, _, _, _, p, _, h⟩ := h
  exact stageChange_sound h trivial

theorem quietMaskEntry_sound (h : quietMaskEntry r s = .ok t) : t.Sound s := by
  cases h; exact .of (.quieted _)

theorem micQueryEntry_sound (h : micQueryEntry r s = .ok t) : t.Sound s := by
  simp only [micQueryEntry, except_bind_ok, except_pure_ok] at h
  obtain ⟨_, _, rfl⟩ := h
  exact .of .same

theorem sourceSetEntry_sound (h : sourceSetEntry r s = .ok t) : t.Sound s := by
  simp only [sourceSetEntry, except_bind_ok, except_pure_ok] at h
  obtain ⟨m, _, kind, _, _, _, _, _, rfl⟩ := h
  exact .of (.source m _)

theorem sourceStartEntry_sound (h : sourceStartEntry r s = .ok t) : t.Sound s := by
  simp only [sourceStartEntry, except_bind_ok, except_pure_ok] at h
  obtain ⟨_, _, m, _, _, _, loc, _, rfl⟩ := h
  exact .of (.source m _)

theorem sourceStopEntry_sound (h : sourceStopEntry r s = .ok t) : t.Sound s := by
  simp only [sourceStopEntry, except_bind_ok, except_pure_ok] at h
  obtain ⟨_, _, m, _, rfl⟩ := h
  exact .of (.source m _)

theorem streamDataEntry_sound (h : streamDataEntry r s = .ok t) : t.Sound s := by
  simp only [streamDataEntry, except_bind_ok, except_pure_ok] at h
  obtain ⟨m, _, _, _, _, _, rfl⟩ := h
  exact .of (.source m _)

theorem sourceQueryEntry_sound (h : sourceQueryEntry r s = .ok t) : t.Sound s := by
  simp only [sourceQueryEntry, except_bind_ok, except_pure_ok] at h
  obtain ⟨_, _, rfl⟩ := h
  exact .of .same

theorem promptQueueEntry_sound (h : promptQueueEntry r s = .ok t) : t.Sound s := by
  simp only [promptQueueEntry, except_bind_ok, require_ok_iff, need_ok_iff, except_pure_ok] at h
  obtain ⟨_, _, cls, _, start, _, clip, _, p, _, _, hon, _, hroom, hd, hfree, _, _, rfl⟩ := h
  exact .of (.queued p _ hon hroom hfree)

theorem promptCancelEntry_sound (h : promptCancelEntry r s = .ok t) : t.Sound s := by
  simp only [promptCancelEntry, except_bind_ok] at h
  obtain ⟨hd, _, h⟩ := h
  split at h
  next p k hat =>
    cases h
    exact .of (.cancelled hd p k hat)
  next p pl _ hat =>
    cases h
    exact .of (.marked hd p pl hat)
  next => cases h

theorem promptDrainEntry_sound (h : promptDrainEntry r s = .ok t) : t.Sound s := by
  simp only [promptDrainEntry, except_bind_ok, except_pure_ok] at h
  obtain ⟨p, _, rfl⟩ := h
  exact .of (.drained p)

theorem classMapEntry_sound (h : classMapEntry r s = .ok t) : t.Sound s := by
  simp only [classMapEntry, except_bind_ok, except_pure_ok] at h
  obtain ⟨_, _, rfl⟩ := h
  exact .of (.levels _)

theorem promptQueryEntry_sound (h : promptQueryEntry r s = .ok t) : t.Sound s := by
  simp only [promptQueryEntry, except_bind_ok, except_pure_ok] at h
  obtain ⟨_, _, rfl⟩ := h
  exact .of .same

theorem areaSetEntry_sound (h : areaSetEntry r s = .ok t) : t.Sound s := by
  simp only [areaSetEntry, except_bind_ok, except_pure_ok] at h
  obtain ⟨_, _, no, _, enable, _, ready, _, catalogue, _, _, _, _, _, rfl⟩ := h
  exact .of (.indexed _ _)

theorem reindexEntry_sound (h : reindexEntry r s = .ok t) : t.Sound s := by
  simp only [reindexEntry, except_bind_ok, except_pure_ok] at h
  obtain ⟨_, _, rfl⟩ := h
  exact ⟨.inr rfl, .inl rfl, .scanned⟩

theorem clipDeclareEntry_sound (h : clipDeclareEntry r s = .ok t) : t.Sound s := by
  simp only [clipDeclareEntry, except_bind_ok, except_pure_ok] at h
  obtain ⟨id, _, no, _, rate, _, _, _, _, _, _, _, _, _, rfl⟩ := h
  exact .of (.indexed s.areas _)

theorem clipForgetEntry_sound (h : clipForgetEntry r s = .ok t) : t.Sound s := by
  simp only [clipForgetEntry, except_bind_ok, except_pure_ok] at h
  obtain ⟨id, _, e, _, rfl⟩ := h
  exact .of (.indexed s.areas _)

theorem clipLookupEntry_sound (h : clipLookupEntry r s = .ok t) : t.Sound s := by
  simp only [clipLookupEntry, except_bind_ok, except_pure_ok] at h
  obtain ⟨id, _, e, _, rfl⟩ := h
  exact .of .same

theorem faultReadEntry_sound (h : faultReadEntry r s = .ok t) : t.Sound s := by
  cases h; exact .of .faultRead

theorem budgetSetEntry_sound (h : budgetSetEntry r s = .ok t) : t.Sound s := by
  simp only [budgetSetEntry, except_bind_ok, require_ok_iff, except_pure_ok] at h
  obtain ⟨_, _, _, hfits, rfl⟩ := h
  refine .of (.limits _ _ ?_ ?_)
  · by_cases hsel : selected (byteAt r.body 0) 0 = true
    · have hbelow := hfits.resolve_left (by simp [hsel])
      simp only [hsel, if_true, clampTo] at hbelow ⊢
      omega
    · simp [hsel]
  · by_cases hsel : selected (byteAt r.body 0) 1 = true
    · simp only [hsel, if_true, clampTo]
      omega
    · simp [hsel]

theorem budgetQueryEntry_sound (h : budgetQueryEntry r s = .ok t) : t.Sound s := by
  cases h; exact .of .same

theorem stageModeEntry_sound (h : stageModeEntry r s = .ok t) : t.Sound s := by
  simp only [stageModeEntry, except_bind_ok, except_pure_ok] at h
  obtain ⟨c, _, rfl⟩ := h
  exact .of (.masked c _ _)

theorem applyEntry_sound (h : applyEntry r s = .ok t) : t.Sound s := by
  simp only [applyEntry, except_bind_ok, except_pure_ok] at h
  obtain ⟨_, _, rfl⟩ := h
  exact .of (.latched _)

theorem discardEntry_sound (h : discardEntry r s = .ok t) : t.Sound s := by
  simp only [discardEntry, except_bind_ok, except_pure_ok] at h
  obtain ⟨_, _, rfl⟩ := h
  exact .of (.discarded _)

theorem stageQueryEntry_sound (h : stageQueryEntry r s = .ok t) : t.Sound s := by
  simp only [stageQueryEntry, except_bind_ok, except_pure_ok] at h
  obtain ⟨_, _, rfl⟩ := h
  exact .of .same

theorem portTestEntry_sound (h : portTestEntry r s = .ok t) : t.Sound s := by
  simp only [portTestEntry, except_bind_ok, except_pure_ok] at h
  obtain ⟨port, _, dir, _, _, _, _, _, _, _, rfl⟩ := h
  exact .of (.tested port _)

theorem portTestReadEntry_sound (h : portTestReadEntry r s = .ok t) : t.Sound s := by
  simp only [portTestReadEntry, except_bind_ok, except_pure_ok] at h
  obtain ⟨_, _, rfl⟩ := h
  exact .of .same

theorem portTestStopEntry_sound (h : portTestStopEntry r s = .ok t) : t.Sound s := by
  simp only [portTestStopEntry, except_bind_ok] at h
  obtain ⟨port, _, h⟩ := h
  split at h
  · cases h; exact .of (.tested port _)
  · cases h; exact .of .same

theorem syncQueryEntry_sound (h : syncQueryEntry r s = .ok t) : t.Sound s := by
  cases h; exact .of .same

end

/-- R195: what the entry of any request row leaves of a request it takes. -/
theorem rowEntry_sound {c : Instr} {entry : Request → State → Except ResultCode Taken} {r : Request} {s : State} {t : Taken}
    (hc : rowEntry c = some entry) (h : entry r s = .ok t) : t.Sound s := by
  cases c <;> cases hc
  case identify => exact identifyEntry_sound h
  case status => exact statusEntry_sound h
  case start => exact startEntry_sound h
  case stop => exact stopEntry_sound h
  case linkStatus => exact linkStatusEntry_sound h
  case legOpen => exact legOpenEntry_sound h
  case legClose => exact legCloseEntry_sound h
  case groupAdd => exact groupAddEntry_sound h
  case groupRemove => exact groupRemoveEntry_sound h
  case hold => exact holdEntry_sound h
  case resume => exact resumeEntry_sound h
  case mute => exact muteEntry_sound h
  case supervise => exact superviseEntry_sound h
  case unsupervise => exact unsuperviseEntry_sound h
  case positionSet => exact positionSetEntry_sound h
  case sendGain => exact sendGainEntry_sound h
  case legQuery => exact legQueryEntry_sound h
  case positionQuery => exact positionQueryEntry_sound h
  case groupQuery => exact groupQueryEntry_sound h
  case echoSet => exact echoSetEntry_sound h
  case echoTail => exact echoTailEntry_sound h
  case echoReset => exact echoResetEntry_sound h
  case echoQuery => exact echoQueryEntry_sound h
  case micSet => exact micSetEntry_sound h
  case quietMask => exact quietMaskEntry_sound h
  case micQuery => exact micQueryEntry_sound h
  case sourceSet => exact sourceSetEntry_sound h
  case sourceStart => exact sourceStartEntry_sound h
  case sourceStop => exact sourceStopEntry_sound h
  case streamData => exact streamDataEntry_sound h
  case sourceQuery => exact sourceQueryEntry_sound h
  case promptQueue => exact promptQueueEntry_sound h
  case promptCancel => exact promptCancelEntry_sound h
  case promptDrain => exact promptDrainEntry_sound h
  case classMap => exact classMapEntry_sound h
  case promptQuery => exact promptQueryEntry_sound h
  case areaSet => exact areaSetEntry_sound h
  case reindex => exact reindexEntry_sound h
  case clipDeclare => exact clipDeclareEntry_sound h
  case clipForget => exact clipForgetEntry_sound h
  case clipLookup => exact clipLookupEntry_sound h
  case faultRead => exact faultReadEntry_sound h
  case budgetSet => exact budgetSetEntry_sound h
  case budgetQuery => exact budgetQueryEntry_sound h
  case stageMode => exact stageModeEntry_sound h
  case apply => exact applyEntry_sound h
  case discard => exact discardEntry_sound h
  case stageQuery => exact stageQueryEntry_sound h
  case portTest => exact portTestEntry_sound h
  case portTestRead => exact portTestReadEntry_sound h
  case portTestStop => exact portTestStopEntry_sound h
  case syncQuery => exact syncQueryEntry_sound h

end Sys2Proof.Machine
end

section
/-! PROOF. What each operation raises (R200): an operation that does the same whatever the link holds, but for the notices it
raises, and the raises of every operation of a frame start, of a prompt's ending and of a teardown. -/

namespace Sys2Proof.Machine

/-! ## Raises, whatever the link holds -/

/-- On s the operation f raises rs, in this order, whatever the link holds; nothing else of its work looks at the link. -/
def Voices (rs : List (Nat × Detail)) (f : State → State) (s : State) : Prop :=
  (f s).frame = s.frame ∧ ∀ k : Link, f (s.setLink k) = (f s).setLink (raiseAll rs (s.setLink k)).link

/-- On s the operation f raises notices that satisfy P alone. -/
def VoicesOf (P : Nat × Detail → Prop) (f : State → State) (s : State) : Prop := ∃ rs, (∀ x ∈ rs, P x) ∧ Voices rs f s

section
variable {rs xs : List (Nat × Detail)} {P Q : Nat × Detail → Prop} {f g : State → State} {s : State}

theorem Voices.link (h : Voices rs f s) : (f s).link = (raiseAll rs s).link :=
  (congrArg State.link (h.2 s.link) :)

theorem Voices.raisesOn (h : Voices rs f s) : RaisesOn f s rs := fun k => (congrArg State.link (h.2 k) :)

theorem Voices.quiet (hf : (f s).frame = s.frame) (h : ∀ k, f (s.setLink k) = (f s).setLink k) : Voices [] f s := ⟨hf, h⟩

theorem Voices.comp (hf : Voices rs f s) (hg : Voices xs g (f s)) : Voices (rs ++ xs) (fun u => g (f u)) s := by
  refine ⟨hg.1.trans hf.1, fun k => ?_⟩
  have hlink : (raiseAll xs ((f s).setLink (raiseAll rs (s.setLink k)).link)).link = (raiseAll (rs ++ xs) (s.setLink k)).link := by
    rw [raiseAll_append]
    exact raiseAll_congr xs rfl (by simpa using hf.1)
  show g (f (s.setLink k)) = _
  rw [hf.2, hg.2, hlink]

/-- An operation that on s, whatever the link holds, is another one. -/
theorem Voices.congr (hg : Voices rs g s) (h : ∀ k, f (s.setLink k) = g (s.setLink k)) : Voices rs f s := by
  have hs : f s = g s := h s.link
  refine ⟨hs ▸ hg.1, fun k => ?_⟩
  rw [h, hs, hg.2]

theorem Voices.raise (n : Nat) (d : Detail) (s : State) : Voices [(n, d)] (raise n d) s := ⟨rfl, fun _ => rfl⟩

theorem Voices.of (h : Voices rs f s) (hP : ∀ x ∈ rs, P x) : VoicesOf P f s := ⟨rs, hP, h⟩

theorem VoicesOf.quiet (hf : (f s).frame = s.frame) (h : ∀ k, f (s.setLink k) = (f s).setLink k) : VoicesOf P f s :=
  ⟨[], by simp, hf, h⟩

theorem VoicesOf.comp (hf : VoicesOf P f s) (hg : VoicesOf P g (f s)) : VoicesOf P (fun u => g (f u)) s := by
  obtain ⟨rs, hrs, hf⟩ := hf
  obtain ⟨xs, hxs, hg⟩ := hg
  exact ⟨rs ++ xs, fun x hx => (List.mem_append.1 hx).elim (hrs x) (hxs x), hf.comp hg⟩

theorem VoicesOf.congr (hg : VoicesOf P g s) (h : ∀ k, f (s.setLink k) = g (s.setLink k)) : VoicesOf P f s := by
  obtain ⟨rs, hrs, hg⟩ := hg
  exact ⟨rs, hrs, hg.congr h⟩

theorem VoicesOf.mono (hf : VoicesOf P f s) (h : ∀ x, P x → Q x) : VoicesOf Q f s := by
  obtain ⟨rs, hrs, hf⟩ := hf
  exact ⟨rs, fun x hx => h x (hrs x hx), hf⟩

theorem VoicesOf.link (h : VoicesOf P f s) : ∃ rs, (∀ x ∈ rs, P x) ∧ (f s).link = (raiseAll rs s).link := by
  obtain ⟨rs, hrs, hf⟩ := h
  exact ⟨rs, hrs, hf.link⟩

theorem VoicesOf.frame (h : VoicesOf P f s) : (f s).frame = s.frame := by
  obtain ⟨_, _, hf⟩ := h
  exact hf.1

end

theorem VoicesOf.fold {P : Nat × Detail → Prop} {α : Type} {f : State → α → State}
    (h : ∀ s a, VoicesOf P (fun u => f u a) s) (l : List α) (s : State) : VoicesOf P (fun u => l.foldl f u) s := by
  induction l generalizing s with
  | nil => exact .quiet rfl fun _ => rfl
  | cons a l ih => exact (h s a).comp (ih (f s a))

/-- Rounds that also gather outputs, which the link does not decide. -/
theorem VoicesOf.gather {P : Nat × Detail → Prop} {α β : Type} {f : State × β → α → State × β}
    (h : ∀ s x a, VoicesOf P (fun u => (f (u, x) a).1) s ∧ ∀ k, (f (s.setLink k, x) a).2 = (f (s, x) a).2) (l : List α)
    (s : State) (x : β) :
    VoicesOf P (fun u => (l.foldl f (u, x)).1) s ∧ ∀ k, (l.foldl f (s.setLink k, x)).2 = (l.foldl f (s, x)).2 := by
  induction l generalizing s x with
  | nil => exact ⟨.quiet rfl fun _ => rfl, fun _ => rfl⟩
  | cons a l ih =>
    obtain ⟨hf, hout⟩ := h s x a
    obtain ⟨hrest, hrestOut⟩ := ih (f (s, x) a).1 (f (s, x) a).2
    refine ⟨(hf.comp hrest).congr fun k => ?_, fun k => ?_⟩
    · rw [List.foldl_cons, ← hout k]
    · obtain ⟨rs, _, hf⟩ := hf
      have hstate := hf.2 k
      simp only at hstate
      rw [List.foldl_cons, List.foldl_cons, ← hrestOut, ← hout k, ← hstate]

/-- R199: a notice whose subject is one of its kind's. -/
def InRange (x : Nat × Detail) : Prop := x.1 < x.2.subjects

/-! ## The fault record (R132) -/

theorem takeFault_voices (it : FetchItem) (o : Nat) (s : State) :
    Voices (if s.fault.latched then [] else [(0, .fault it.area it.requester)]) (takeFault it o) s := by
  by_cases h : s.fault.latched = true
  · rw [if_pos h]
    refine .congr (g := fun u => { u with fault := { u.fault with later := satInc 255 u.fault.later } })
      (.quiet rfl fun _ => rfl) fun k => if_pos h
  · rw [if_neg h]
    have hlatch : Voices [] (fun u => { u with fault := {
      latched := true, area := it.area, offset := o, requester := it.requester, stamp := s.frame, later := 0 } }) s :=
      .quiet rfl fun _ => rfl
    exact (hlatch.comp (Voices.raise 0 (.fault it.area it.requester) _)).congr fun k => if_neg h

theorem takeFaults_voices (ls : List Landed) (s : State) :
    VoicesOf (fun x => x.1 = 0 ∧ x.2.kind = 0xC2) (takeFaults ls) s := by
  refine VoicesOf.fold (fun s x => ?_) ls s
  cases h : x.outcome with
  | ok w => exact .quiet rfl fun _ => rfl
  | error o =>
    refine (takeFault_voices x.item o s).of ?_
    split <;> simp [Detail.kind]

/-! ## Prompt endings (R103) -/

theorem finishPrompt_voices (p : Position) (res : PromptResult) (r : PromptRec) (s : State) :
    Voices [(p.val, .promptDone ((s.pos p).done.length + 1))] (finishPrompt p res r) s := by
  have h := (Voices.quiet (s := s) (f := fun u => u.setPos p { s.pos p with
      done := (s.pos p).done ++ [{ r with state := .done, result := some res, stamp := s.frame }] }) rfl fun _ => rfl).comp
    (Voices.raise p.val (.promptDone ((s.pos p).done.length + 1)) _)
  exact h.congr fun k => finishPrompt_eq p res r (s.setLink k)

theorem endPending_voices (p : Position) (res : PromptResult) (r : PromptRec) (s : State) :
    Voices [(p.val, .promptDone ((s.pos p).done.length + 1))] (endPending p res r) s := by
  have h := (Voices.quiet (s := s) (f := fun u => u.setPos p { s.pos p with
      queue := (s.pos p).queue.filter (fun x => x.handle != r.handle) }) rfl fun _ => rfl).comp (finishPrompt_voices p res r _)
  simp only [State.pos_setPos_same] at h
  exact h.congr fun _ => rfl

theorem endSlot_voices (p : Position) (res : PromptResult) (s : State) :
    Voices (if (s.pos p).slot.isSome then [(p.val, .promptDone ((s.pos p).done.length + 1))] else []) (endSlot p res) s := by
  cases h : (s.pos p).slot with
  | none => exact (Voices.quiet rfl fun _ => rfl).congr (f := endSlot p res) (g := id) fun k => endSlot_none p res _ h
  | some pl =>
    have hv := (Voices.quiet (s := s) (f := fun u => withdraw (.prompt p) (u.setPos p { s.pos p with slot := none })) rfl
      fun _ => rfl).comp (finishPrompt_voices p res pl.prompt _)
    have hdone : ((withdraw (.prompt p) (s.setPos p { s.pos p with slot := none })).pos p).done = (s.pos p).done :=
      (congrArg PosRec.done (State.pos_setPos_same s p { s.pos p with slot := none }) :)
    rw [hdone] at hv
    refine hv.congr fun k => ?_
    have hk : ((s.setLink k).pos p).slot = some pl := h
    simp only [endSlot, hk]
    rfl

/-- R103: the PROMPT_DONEs of n endings at a position whose done list holds d records. -/
def dones (p : Position) (d n : Nat) : List (Nat × Detail) := (List.range n).map (fun i => (p.val, .promptDone (d + i + 1)))

theorem dones_add (p : Position) (d n m : Nat) : dones p d (n + m) = dones p d n ++ dones p (d + n) m := by
  simp [dones, List.range_add, Nat.add_assoc]

theorem dones_kind {p : Position} {d n : Nat} : ∀ x ∈ dones p d n, x.1 = p.val ∧ x.2.kind = 0xC5 := by
  intro x hx
  obtain ⟨i, _, rfl⟩ := List.mem_map.1 hx
  exact ⟨rfl, rfl⟩

/-- R103: on s the operation f lengthens the done list of position p, and raises one PROMPT_DONE for each record that joins it. -/
def Ends (p : Position) (f : State → State) (s : State) : Prop :=
  ∃ n, ((f s).pos p).done.length = (s.pos p).done.length + n ∧ Voices (dones p (s.pos p).done.length n) f s

section
variable {p : Position} {f g : State → State} {s : State}

theorem Ends.quiet (hd : ((f s).pos p).done = (s.pos p).done) (hf : (f s).frame = s.frame)
    (h : ∀ k, f (s.setLink k) = (f s).setLink k) : Ends p f s := ⟨0, by rw [hd]; rfl, .quiet hf h⟩

theorem Ends.comp (hf : Ends p f s) (hg : Ends p g (f s)) : Ends p (fun u => g (f u)) s := by
  obtain ⟨n, hn, hf⟩ := hf
  obtain ⟨m, hm, hg⟩ := hg
  refine ⟨n + m, by rw [hm, hn, Nat.add_assoc], ?_⟩
  rw [dones_add, ← hn]
  exact hf.comp hg

theorem Ends.congr (hg : Ends p g s) (h : ∀ k, f (s.setLink k) = g (s.setLink k)) : Ends p f s := by
  obtain ⟨n, hn, hg⟩ := hg
  exact ⟨n, (congrArg (fun u => (u.pos p).done.length) (h s.link)).trans hn, hg.congr h⟩

/-- A choice the link has no part in. -/
theorem Ends.choice {c : State → Prop} [∀ u, Decidable (c u)] (hc : ∀ k, c (s.setLink k) ↔ c s) (hf : c s → Ends p f s)
    (hg : ¬ c s → Ends p g s) : Ends p (fun u => if c u then f u else g u) s := by
  by_cases h : c s
  · exact (hf h).congr fun k => if_pos ((hc k).2 h)
  · exact (hg h).congr fun k => if_neg (mt (hc k).1 h)

theorem Ends.voicesOf (h : Ends p f s) : VoicesOf (fun x => x.1 = p.val ∧ x.2.kind = 0xC5) f s := by
  obtain ⟨n, _, h⟩ := h
  exact h.of dones_kind

/-- The raises are one for each record by which the done list has grown. -/
theorem Ends.voices (h : Ends p f s) :
    Voices (dones p (s.pos p).done.length (((f s).pos p).done.length - (s.pos p).done.length)) f s := by
  obtain ⟨n, hn, h⟩ := h
  rwa [hn, Nat.add_sub_cancel_left]

end

theorem Ends.fold {p : Position} {α : Type} {f : State → α → State} (h : ∀ s a, Ends p (fun u => f u a) s) (l : List α)
    (s : State) : Ends p (fun u => l.foldl f u) s := by
  induction l generalizing s with
  | nil => exact .quiet rfl rfl fun _ => rfl
  | cons a l ih => exact (h s a).comp (ih (f s a))

theorem finishPrompt_done (p : Position) (res : PromptResult) (r : PromptRec) (s : State) :
    ((finishPrompt p res r s).pos p).done = (s.pos p).done ++ [{ r with state := .done, result := some res, stamp := s.frame }] := by
  rw [finishPrompt_eq]
  exact congrArg PosRec.done (State.pos_setPos_same _ _ _)

theorem finishPrompt_ends (p : Position) (res : PromptResult) (r : PromptRec) (s : State) : Ends p (finishPrompt p res r) s :=
  ⟨1, by rw [finishPrompt_done, List.length_append]; rfl, finishPrompt_voices p res r s⟩

theorem endPending_ends (p : Position) (res : PromptResult) (r : PromptRec) (s : State) : Ends p (endPending p res r) s := by
  refine ⟨1, ?_, endPending_voices p res r s⟩
  rw [endPending, finishPrompt_done, State.pos_setPos_same, List.length_append]
  rfl

theorem endSlot_ends (p : Position) (res : PromptResult) (s : State) : Ends p (endSlot p res) s := by
  have hv := endSlot_voices p res s
  cases h : (s.pos p).slot with
  | none =>
    rw [h] at hv
    exact ⟨0, by rw [endSlot_none p res s h]; rfl, hv⟩
  | some pl =>
    rw [h] at hv
    refine ⟨1, ?_, hv⟩
    have hdone : ((withdraw (.prompt p) (s.setPos p { s.pos p with slot := none })).pos p).done = (s.pos p).done :=
      (congrArg PosRec.done (State.pos_setPos_same s p { s.pos p with slot := none }) :)
    simp only [endSlot, h]
    rw [finishPrompt_done, hdone, List.length_append]
    rfl

theorem cancelAll_ends (p : Position) (s : State) : Ends p (cancelAll p) s :=
  ((endSlot_ends p .cancelled s).comp
    (Ends.fold (f := fun u r => endPending p .cancelled r u) (fun u r => endPending_ends p .cancelled r u)
      (s.pos p).queue _)).congr fun _ => rfl

/-! ## The teardown (R209) -/

theorem stopSources_link (s : State) (k : Link) : stopSources (s.setLink k) = (stopSources s).setLink k := by
  have h : VoicesOf (fun _ => False) stopSources s :=
    VoicesOf.fold (f := fun u m => stopSource m u) (fun u m => .quiet rfl fun _ => rfl) _ s
  obtain ⟨rs, hrs, hv⟩ := h
  have hnone : rs = [] := List.eq_nil_iff_forall_not_mem.2 hrs
  rw [hv.2, hnone]
  rfl

theorem stopSources_frame (s : State) : (stopSources s).frame = s.frame :=
  foldl_keeps (g := State.frame) (f := fun u m => stopSource m u) (fun _ _ => rfl) _ s

theorem cancelPrompts_voices (s : State) : VoicesOf (fun x => x.1 < 16 ∧ x.2.kind = 0xC5) cancelPrompts s :=
  VoicesOf.fold (f := fun u p => cancelAll p u) (fun u p => (cancelAll_ends p u).voicesOf.mono fun x hx => ⟨by omega, hx.2⟩) _ s

/-- R209: the tables of the teardown, once the sources have stopped and the prompts have ended. -/
def clearTables (s : State) : State :=
  { s with
    part := .standby
    legs := vmap (fun _ => blankLeg) s.legs
    positions := vmap tearPosition s.positions
    groups := vmap (fun _ => []) s.groups
    supervision := []
    routing := tearStage s.routing, levels := tearStage s.levels, echo := tearStage s.echo
    work := { s.work with commitment := Config.mixReserve, list := [] } }

theorem tearDown_eq (s : State) : tearDown s = clearTables (cancelPrompts (stopSources s)) := by
  simp only [tearDown, clearTables]

theorem clearTables_frame (s : State) : (clearTables s).frame = s.frame := rfl

theorem clearTables_setLink (s : State) (k : Link) : clearTables (s.setLink k) = (clearTables s).setLink k := rfl

theorem tearDown_voices (s : State) : VoicesOf (fun x => x.1 < 16 ∧ x.2.kind = 0xC5) tearDown s := by
  have hstop : VoicesOf (fun x => x.1 < 16 ∧ x.2.kind = 0xC5) stopSources s :=
    .quiet (stopSources_frame s) (stopSources_link s)
  have htables : VoicesOf (fun x => x.1 < 16 ∧ x.2.kind = 0xC5) clearTables (cancelPrompts (stopSources s)) :=
    .quiet (clearTables_frame _) fun _ => clearTables_setLink _ _
  exact ((hstop.comp (cancelPrompts_voices _)).comp htables).congr fun _ => tearDown_eq _

/-! ## The staged changes (R166 to R169) -/

/-- The application with its state's link replaced. -/
def Applied.setLink (a : Applied) (k : Link) : Applied := { a with state := a.state.setLink k }

theorem applyOp_link (op : ChangeOp) (s : State) : (applyOp op s).link = s.link := (congrArg State.link (applyOp_tables op s).1 :)

theorem applyChange_setLink (a : Applied) (c : Change) (k : Link) :
    applyChange (a.setLink k) c = (applyChange a c).setLink k := by
  obtain ⟨tag, arrival, op⟩ := c
  have hop : applyOp op (a.setLink k).state = (applyOp op a.state).setLink k := applyOp_setLink op a.state k
  simp only [applyChange, hop]
  cases op <;> try rfl
  case hold l m =>
    have hstate : ((a.setLink k).state.leg l).state = (a.state.leg l).state := rfl
    simp only [hstate]
    split <;> rfl

theorem applyChanges_setLink (cs : List Change) (a : Applied) (k : Link) :
    cs.foldl applyChange (a.setLink k) = (cs.foldl applyChange a).setLink k := by
  induction cs generalizing a with
  | nil => rfl
  | cons c cs ih => rw [List.foldl_cons, applyChange_setLink, ih, List.foldl_cons]

theorem applyClass_setLink (a : Applied) (c : ChangeClass) (k : Link) :
    applyClass (a.setLink k) c = (applyClass a c).setLink k := by
  have hstage : (a.setLink k).state.stage c = a.state.stage c := State.stage_setLink a.state k c
  have hstate : (a.setLink k).state.setStage c { a.state.stage c with list := [], latch := false } =
      (a.state.setStage c { a.state.stage c with list := [], latch := false }).setLink k := by cases c <;> rfl
  simp only [applyClass, hstage, hstate]
  exact applyChanges_setLink _ { a with state := a.state.setStage c { a.state.stage c with list := [], latch := false } } k

theorem applyInOrder_setLink (cs : List ChangeClass) (a : Applied) (done : List (ChangeClass × List Change)) (k : Link) :
    applyInOrder cs (a.setLink k, done) = ((applyInOrder cs (a, done)).1.setLink k, (applyInOrder cs (a, done)).2) := by
  induction cs generalizing a done with
  | nil => rfl
  | cons c cs ih =>
    have hstage : (a.setLink k).state.stage c = a.state.stage c := State.stage_setLink a.state k c
    simp only [applyInOrder, applyClass_setLink, hstage]
    exact ih _ _

/-- R169: the APPLIED of a class that applied these changes and lost so many. -/
def appliedRaises (c : ChangeClass) (applied : List Change) (dropped : Nat) : List (Nat × Detail) :=
  if applied.isEmpty ∧ dropped = 0 then []
  else [(c.code, .applied applied.length dropped (applied.getLast?.map (·.tag)))]

theorem raiseApplied_voices (c : ChangeClass) (applied : List Change) (dropped : Nat) (s : State) :
    Voices (appliedRaises c applied dropped) (raiseApplied c applied dropped) s := by
  by_cases h : applied.isEmpty ∧ dropped = 0
  · rw [appliedRaises, if_pos h]
    exact (Voices.quiet (f := id) rfl fun _ => rfl).congr fun k => if_pos h
  · rw [appliedRaises, if_neg h]
    exact (Voices.raise _ _ s).congr fun k => if_neg h

/-- R166: the changes in the order the part takes the classes, from s, with what each class applied. -/
def applying (s : State) : Applied × List (ChangeClass × List Change) :=
  applyInOrder (applyOrder s) ({ state := s, levelsDropped := 0, echoDropped := 0, fresh := [] }, [])

theorem applying_setLink (s : State) (k : Link) : applying (s.setLink k) = ((applying s).1.setLink k, (applying s).2) := by
  have horder : applyOrder (s.setLink k) = applyOrder s := rfl
  rw [applying, horder]
  exact applyInOrder_setLink _ { state := s, levelsDropped := 0, echoDropped := 0, fresh := [] } [] k

theorem applying_frame (s : State) : (applying s).1.state.frame = s.frame :=
  (congrArg State.frame (applyInOrder_tables (applyOrder s) ({ state := s, levelsDropped := 0, echoDropped := 0, fresh := [] }, [])).1 :)

theorem applying_link (s : State) : (applying s).1.state.link = s.link :=
  (congrArg State.link (applyInOrder_tables (applyOrder s) ({ state := s, levelsDropped := 0, echoDropped := 0, fresh := [] }, [])).1 :)

/-- R169: the APPLIEDs of a frame start, in class order. -/
def stageRaises (s : State) : List (Nat × Detail) :=
  appliedRaises .routing (appliedOf .routing (applying s).2) 0 ++
    appliedRaises .levels (appliedOf .levels (applying s).2) (applying s).1.levelsDropped ++
    appliedRaises .echo (appliedOf .echo (applying s).2) (applying s).1.echoDropped

theorem stageApplication_voices (s : State) : Voices (stageRaises s) (fun u => (stageApplication u).1) s := by
  have htables : Voices [] (fun u => clearLatches (applying u).1.state) s := by
    refine .quiet (applying_frame s) fun k => ?_
    rw [applying_setLink]
    rfl
  have h := ((htables.comp (raiseApplied_voices .routing (appliedOf .routing (applying s).2) 0 _)).comp
    (raiseApplied_voices .levels (appliedOf .levels (applying s).2) (applying s).1.levelsDropped _)).comp
    (raiseApplied_voices .echo (appliedOf .echo (applying s).2) (applying s).1.echoDropped _)
  refine h.congr fun k => ?_
  have heq : applyInOrder (applyOrder (s.setLink k)) ({ state := s.setLink k, levelsDropped := 0, echoDropped := 0, fresh := [] }, []) =
      ((applying s).1.setLink k, (applying s).2) := applying_setLink s k
  simp only [stageApplication, heq, applying_setLink]
  rfl

theorem stageApplication_fresh (s : State) (k : Link) : (stageApplication (s.setLink k)).2 = (stageApplication s).2 :=
  (congrArg (fun x => x.1.fresh) (applying_setLink s k) :)

theorem appliedRaises_kind {c : ChangeClass} {applied : List Change} {dropped : Nat} :
    ∀ x ∈ appliedRaises c applied dropped, x.1 < 3 ∧ x.2.kind = 0xC4 := by
  intro x hx
  unfold appliedRaises at hx
  split at hx
  · simp at hx
  · obtain rfl := List.mem_singleton.1 hx
    cases c <;> simp [Detail.kind, ChangeClass.code]

theorem stageRaises_kind (s : State) : ∀ x ∈ stageRaises s, x.1 < 3 ∧ x.2.kind = 0xC4 := by
  intro x hx
  simp only [stageRaises, List.mem_append] at hx
  rcases hx with (hx | hx) | hx <;> exact appliedRaises_kind x hx

/-! ## The opening part (R155, R157) -/

/-- R157: the ADAPT_STARVED of a leg passed by, where its debt reaches 250 while it is armed. -/
def debtRaises (l : Leg) (r : LegRec) : List (Nat × Detail) :=
  if (r.work.armed && decide (250 ≤ satInc 65535 r.work.debt)) = true then
    [(l.val, .adaptStarved (satInc 65535 r.work.debt) r.tail)]
  else []

/-- R157: the record of an eligible leg passed by. -/
def owed (r : LegRec) : LegRec :=
  { r with work := { r.work with
    debt := satInc 65535 r.work.debt
    armed := r.work.armed && !(r.work.armed && decide (250 ≤ satInc 65535 r.work.debt)) } }

theorem settleDebt_eq (l : Leg) (s : State) :
    settleDebt l s = raiseAll (debtRaises l (s.leg l)) (s.setLeg l (owed (s.leg l))) := by
  simp only [settleDebt, debtRaises, owed]
  split <;> rfl

theorem settleDebt_voices (l : Leg) (s : State) : Voices (debtRaises l (s.leg l)) (settleDebt l) s := by
  refine ⟨?_, fun k => ?_⟩
  · rw [settleDebt_eq, raiseAll_frame]
    rfl
  · rw [settleDebt_eq, settleDebt_eq, raiseAll_eq, raiseAll_eq (debtRaises l (s.leg l))]
    exact congrArg (State.setLink _) (raiseAll_congr _ rfl rfl)

theorem debtRaises_kind {l : Leg} {r : LegRec} : ∀ x ∈ debtRaises l r, x.1 = l.val ∧ x.2.kind = 0xC8 := by
  intro x hx
  unfold debtRaises at hx
  split at hx
  · obtain rfl := List.mem_singleton.1 hx
    exact ⟨rfl, rfl⟩
  · simp at hx

/-- R155: the grants of the opening part, before the debts of the legs passed by. -/
def settleGrants (o : Opening) (s : State) : State :=
  let s := s.work.list.foldl (fun s l => clearGrant l s) s
  let s := o.granted.foldl (fun s l => grantLeg l s) s
  let s := s.setWork { s.work with list := s.work.list.filter (fun l => !o.granted.contains l) ++ o.granted }
  { s with fetch := o.fetch, reads := s.reads ++ o.served.map (openRead s) }

theorem settleOpening_split (o : Opening) (s : State) :
    settleOpening o s = o.todo.foldl (fun s l => settleDebt l s) (settleGrants o s) := rfl

theorem settleGrants_quiet (o : Opening) (s : State) : Voices [] (settleGrants o) s := by
  have hfalse : VoicesOf (fun _ => False) (settleGrants o) s := by
    have h1 : VoicesOf (fun _ => False) (fun u => s.work.list.foldl (fun s l => clearGrant l s) u) s :=
      VoicesOf.fold (f := fun u l => clearGrant l u) (fun u l => .quiet rfl fun _ => rfl) _ s
    have h2 := h1.comp (VoicesOf.fold (f := fun u l => grantLeg l u) (fun u l => .quiet rfl fun _ => rfl) o.granted _)
    exact (h2.comp (g := fun u => { u.setWork
      { u.work with list := u.work.list.filter (fun l => !o.granted.contains l) ++ o.granted } with
        fetch := o.fetch, reads := u.reads ++ o.served.map (openRead u) }) (.quiet rfl fun _ => rfl)).congr fun k => rfl
  obtain ⟨rs, hrs, hv⟩ := hfalse
  rwa [List.eq_nil_iff_forall_not_mem.2 hrs] at hv

theorem settleOpening_voices (o : Opening) (s : State) :
    VoicesOf (fun x => x.1 < 24 ∧ x.2.kind = 0xC8) (settleOpening o) s := by
  have hgrants : VoicesOf (fun x => x.1 < 24 ∧ x.2.kind = 0xC8) (settleGrants o) s := (settleGrants_quiet o s).of (by simp)
  exact hgrants.comp (VoicesOf.fold (f := fun u l => settleDebt l u)
    (fun u l => (settleDebt_voices l u).of fun x hx => ⟨(debtRaises_kind x hx).1 ▸ l.isLt, (debtRaises_kind x hx).2⟩) _ _)

/-! ## The cancellers (R49) -/

theorem divergenceResetOf_voices (l : Leg) (s : State) :
    Voices [(l.val, .divergenceReset (satInc 65535 (s.leg l).ec.divergenceResets))] (divergenceResetOf l) s :=
  ⟨rfl, fun _ => rfl⟩

theorem testDivergence_voices (l : Leg) (s : State) :
    Voices (if 16 ≤ (s.leg l).ec.divergence then [(l.val, .divergenceReset (satInc 65535 (s.leg l).ec.divergenceResets))] else [])
      (testDivergence l) s := by
  by_cases h : 16 ≤ (s.leg l).ec.divergence
  · rw [if_pos h]
    exact (divergenceResetOf_voices l s).congr fun k => if_pos h
  · rw [if_neg h]
    exact (Voices.quiet (f := id) rfl fun _ => rfl).congr fun k => if_neg h

theorem echoLeg_voices (e : FrameEnd) (outs : List (List Sample)) (l : Leg) (s : State) :
    VoicesOf (fun x => x.1 = l.val ∧ x.2.kind = 0xC9) (fun u => (echoLeg e (u, outs) l).1) s ∧
      ∀ k, (echoLeg e (s.setLink k, outs) l).2 = (echoLeg e (s, outs) l).2 := by
  have hin : ∀ (n : NetSlot) (k : Link), netInbound e n (s.setLink k) = netInbound e n s := fun n k => by cases e <;> rfl
  refine ⟨?_, fun k => by rw [echoLeg_out, echoLeg_out]; simp only [echoOut, hin, State.leg_setLink]⟩
  by_cases h : (s.leg l).state = .closed ∨ (s.leg l).slot = none
  · refine VoicesOf.congr (g := id) (.quiet rfl fun _ => rfl) fun k => ?_
    rcases h with h | h
    · simp [echoLeg, h]
    · cases hstate : (s.leg l).state <;> simp [echoLeg, h, hstate]
  · obtain ⟨hstate, hslot⟩ := not_or.1 h
    obtain ⟨n, hn⟩ := Option.ne_none_iff_exists'.1 hslot
    have hset : Voices [] (fun u => u.setLeg l (echoFrame (s.leg l) (netInbound e n s)).1) s := .quiet rfl fun _ => rfl
    have hstep := hset.comp (testDivergence_voices l _)
    refine VoicesOf.congr (hstep.of ?_) fun k => ?_
    · rw [List.nil_append]
      split <;> simp [Detail.kind]
    · have hk : ((s.setLink k).leg l).slot = some n := hn
      have hks : ((s.setLink k).leg l).state = (s.leg l).state := rfl
      cases hst : (s.leg l).state
      · exact absurd hst hstate
      all_goals
        simp only [echoLeg, hk, hks, hst, hin]
        rfl

theorem echoStep_voices (e : FrameEnd) (s : State) :
    VoicesOf (fun x => x.1 < 24 ∧ x.2.kind = 0xC9) (fun u => (echoStep e u).1) s ∧
      ∀ k, (echoStep e (s.setLink k)).2 = (echoStep e s).2 :=
  VoicesOf.gather (fun s outs l => ⟨(echoLeg_voices e outs l s).1.mono fun x hx => ⟨by omega, hx.2⟩, (echoLeg_voices e outs l s).2⟩)
    _ s []

/-! ## The microphones and the ramps -/

theorem micStep_quiet (s : State) :
    VoicesOf (fun _ => False) (fun u => (micStep u).1) s ∧ ∀ k, (micStep (s.setLink k)).2 = (micStep s).2 := by
  refine VoicesOf.gather (fun s outs p => ⟨?_, fun k => ?_⟩) _ s []
  · by_cases h : (s.pos p).enabled = true
    · refine VoicesOf.congr (g := fun u => u.setPos p { s.pos p with
        mic := (micFrame (s.pos p).mic (headInbound p s)).1, available := micAvailable s p }) (.quiet rfl fun _ => rfl) fun k => ?_
      have hk : ((s.setLink k).pos p).enabled = true := h
      simp only [micLeg]
      rw [if_pos hk]
      rfl
    · refine VoicesOf.congr (g := fun u => u.setPos p { s.pos p with available := false }) (.quiet rfl fun _ => rfl) fun k => ?_
      have hk : ¬ ((s.setLink k).pos p).enabled = true := h
      simp only [micLeg]
      rw [if_neg hk]
      rfl
  · by_cases h : (s.pos p).enabled = true
    · have hk : ((s.setLink k).pos p).enabled = true := h
      simp only [micLeg]
      rw [if_pos h, if_pos hk]
      rfl
    · have hk : ¬ ((s.setLink k).pos p).enabled = true := h
      simp only [micLeg]
      rw [if_neg h, if_neg hk]

theorem rampStep_quiet (before : State) (fresh : List Leg) (s : State) :
    VoicesOf (fun _ => False) (rampStep before fresh) s := by
  refine VoicesOf.fold (f := raiseRamp before fresh) (fun u l => ?_) _ s
  by_cases h : (u.leg l).state = .held ∧ (before.leg l).state = .held ∧ l ∉ fresh
  · exact VoicesOf.congr (g := fun v => v.setLeg l { u.leg l with ramp := min 32768 ((u.leg l).ramp + 2048) })
      (.quiet rfl fun _ => rfl) fun k => if_pos h
  · exact VoicesOf.congr (g := id) (.quiet rfl fun _ => rfl) fun k => if_neg h

end Sys2Proof.Machine
end

section
/-! PROOF. The raises of the sources, the scan, the players and a whole frame start (R84, R105, R135, R200). -/

namespace Sys2Proof.Machine

/-! ## Writing back what stands -/

theorem State.setSrc_self (s : State) (m : Source) : s.setSrc m (s.src m) = s := by simp [State.setSrc, State.src]

theorem State.setPos_self (s : State) (p : Position) : s.setPos p (s.pos p) = s := by simp [State.setPos, State.pos]

theorem State.setLeg_self (s : State) (l : Leg) : s.setLeg l (s.leg l) = s := by simp [State.setLeg, State.leg]

theorem State.setSrc_setSrc (s : State) (m : Source) (a b : SourceRec) : (s.setSrc m a).setSrc m b = s.setSrc m b := by
  simp [State.setSrc]

theorem State.setLeg_setLeg (s : State) (l : Leg) (a b : LegRec) : (s.setLeg l a).setLeg l b = s.setLeg l b := by
  simp [State.setLeg]

/-! ## The six steps of a source as a function of its record (R84) -/

/-- R89: the record a source's landing leaves, and whether a failure has landed. -/
def landedSource (ls : List Landed) (m : Source) (r : SourceRec) : SourceRec × Bool :=
  if r.kind = .clip ∧ r.state ≠ .stopped ∧ (r.half0.isWaiting || r.half1.isWaiting) = true then
    match landingFor (.source m) ls with
    | none => (r, false)
    | some (.ok words) =>
      ({ r with half0 := r.half0.land (samplesIn words), half1 := r.half1.land (samplesIn words), retrying := false }, false)
    | some (.error _) =>
      ({ r with half0 := r.half0.fail, half1 := r.half1.fail, retryDue := false, retrying := true, state := .starved }, true)
  else (r, false)

/-- R94, R95: the record the pending command leaves. -/
def obeyedSource (r : SourceRec) : SourceRec :=
  match r.cmd with
  | .none => r
  | .start loc => startedSource r loc
  | .stop => stoppedSource r

/-- R86: whether a stream source's fill stands below its armed low mark. -/
def isLow (r : SourceRec) : Bool :=
  decide (r.kind = .stream ∧ r.state ≠ .stopped ∧ r.ring.length < r.lowMark ∧ r.lowArmed = true)

/-- R88: the record a clip source's step 6 leaves, with the item it places. -/
def placedSource (m : Source) (r : SourceRec) : SourceRec × List FetchItem :=
  match r.kind, r.state, r.loc with
  | .clip, .stopped, _ => (r, [])
  | .clip, _, some loc =>
    if (r.half0.isWaiting || r.half1.isWaiting) = true then (r, [])
    else if (r.half0.isFailed || r.half1.isFailed) = true then
      if r.retryDue then
        let b := (if r.half0.isFailed then r.half0.block else r.half1.block).getD 0
        let again := fun (h : Half) => if h.isFailed then Half.waiting b else h
        ({ r with half0 := again r.half0, half1 := again r.half1, retryDue := false }, [blockItem (.source m) loc b])
      else ({ r with retryDue := true }, [])
    else if r.half0.isEmpty ∧ r.half1.block ≠ some r.next then
      ({ r with half0 := .waiting r.next, next := wrapBlock loc.length r.next }, [blockItem (.source m) loc r.next])
    else if r.half1.isEmpty ∧ r.half0.block ≠ some r.next then
      ({ r with half1 := .waiting r.next, next := wrapBlock loc.length r.next }, [blockItem (.source m) loc r.next])
    else (r, [])
  | _, _, _ => (r, [])

/-- R84: what the production step makes of a source's record: the record, the raw samples and the cause where it is STARVED. -/
def madeSource (ls : List Landed) (m : Source) (r : SourceRec) : SourceRec × List Sample × Option StarveCause :=
  produce (enterSource (obeyedSource (landedSource ls m r).1))

/-- R84: the record the six steps leave, with the item placed. -/
def steppedSource (ls : List Landed) (m : Source) (r : SourceRec) : SourceRec × List FetchItem :=
  let d := (madeSource ls m r).1
  placedSource m { d with lowArmed := d.lowArmed && !isLow d }

/-- R85, R90: the SOURCE_STARVED of a source that its production leaves STARVED. -/
def starvedRaise (m : Source) (starved : Option StarveCause) : List (Nat × Detail) :=
  match starved with
  | some cause => [(m.val, .sourceStarved cause)]
  | none => []

/-- R84, R200: what a source raises at a frame start. -/
def sourceRaises (ls : List Landed) (m : Source) (r : SourceRec) : List (Nat × Detail) :=
  (if (landedSource ls m r).2 then [(m.val, .sourceStarved .fault)] else []) ++
    starvedRaise m (madeSource ls m r).2.2 ++
    (if isLow (madeSource ls m r).1 then [(m.val, .streamLow (madeSource ls m r).1.ring.length)] else [])

/-- R95: the state in which a source whose STOP is pending has given up its fetch item. -/
def givenUp (m : Source) (r : SourceRec) (s : State) : State := if r.cmd = .stop then withdraw (.source m) s else s

theorem landSource_eq (ls : List Landed) (m : Source) (s : State) :
    landSource ls m s = raiseAll (if (landedSource ls m (s.src m)).2 then [(m.val, .sourceStarved .fault)] else [])
      (s.setSrc m (landedSource ls m (s.src m)).1) := by
  simp only [landSource, landedSource]
  split
  · cases landingFor (.source m) ls with
    | none => exact (State.setSrc_self s m).symm
    | some x => cases x <;> rfl
  · exact (State.setSrc_self s m).symm

theorem landedSource_cmd (ls : List Landed) (m : Source) (r : SourceRec) : (landedSource ls m r).1.cmd = r.cmd := by
  simp only [landedSource]
  split
  · cases landingFor (.source m) ls with
    | none => rfl
    | some x => cases x <;> rfl
  · rfl

theorem commandSource_eq (m : Source) (s : State) :
    commandSource m s = (givenUp m (s.src m) s).setSrc m (obeyedSource (s.src m)) := by
  cases h : (s.src m).cmd <;> simp only [commandSource, givenUp, obeyedSource, h]
  · exact (State.setSrc_self s m).symm
  · rfl
  · rfl

theorem testLow_eq (m : Source) (s : State) :
    testLow m s = raiseAll (if isLow (s.src m) then [(m.val, .streamLow (s.src m).ring.length)] else [])
      (s.setSrc m { s.src m with lowArmed := (s.src m).lowArmed && !isLow (s.src m) }) := by
  by_cases h : (s.src m).kind = .stream ∧ (s.src m).state ≠ .stopped ∧ (s.src m).ring.length < (s.src m).lowMark ∧
      (s.src m).lowArmed = true
  · simp only [testLow, isLow, if_pos h, decide_eq_true h, Bool.not_true, Bool.and_false]
    rfl
  · simp only [testLow, isLow, if_neg h, decide_eq_false h, Bool.not_false, Bool.and_true]
    exact (State.setSrc_self s m).symm

/-- The state with source m's record and the items its step 6 places. -/
def putPlaced (m : Source) (x : SourceRec × List FetchItem) (s : State) : State :=
  { s.setSrc m x.1 with fetch := s.fetch ++ x.2 }

theorem putPlaced_none (m : Source) (r : SourceRec) (s : State) : putPlaced m (r, []) s = s.setSrc m r := by
  rw [putPlaced, List.append_nil]
  rfl

theorem placeClip_eq (m : Source) (s : State) : placeClip m s = putPlaced m (placedSource m (s.src m)) s := by
  have hsame : s = putPlaced m (s.src m, []) s := by rw [putPlaced_none, State.setSrc_self]
  unfold placeClip placedSource
  generalize s.src m = r at hsame ⊢
  cases hkind : r.kind
  case stream => simpa only [hkind] using hsame
  case tone => simpa only [hkind] using hsame
  case clip =>
    cases hloc : r.loc with
    | none => cases hstate : r.state <;> simpa only [hkind, hstate, hloc] using hsame
    | some loc =>
      cases hstate : r.state
      case stopped => simpa only [hkind, hstate, hloc] using hsame
      all_goals
        dsimp only
        by_cases hw : (r.half0.isWaiting || r.half1.isWaiting) = true
        · simpa only [hkind, hstate, hloc, if_pos hw] using hsame
        · by_cases hf : (r.half0.isFailed || r.half1.isFailed) = true
          · by_cases hd : r.retryDue = true
            · simp only [hkind, hstate, hloc, if_neg hw, if_pos hf, if_pos hd]
              rfl
            · simp only [hkind, hstate, hloc, if_neg hw, if_pos hf, if_neg hd]
              exact (putPlaced_none m _ s).symm
          · by_cases h0 : r.half0.isEmpty ∧ r.half1.block ≠ some r.next
            · simp only [hkind, hstate, hloc, if_neg hw, if_neg hf, if_pos h0]
              rfl
            · by_cases h1 : r.half1.isEmpty ∧ r.half0.block ≠ some r.next
              · simp only [hkind, hstate, hloc, if_neg hw, if_neg hf, if_neg h0, if_pos h1]
                rfl
              · simpa only [hkind, hstate, hloc, if_neg hw, if_neg hf, if_neg h0, if_neg h1] using hsame

/-- Raises, and work that neither reads nor writes the link, in either order. -/
theorem raiseAll_commute {g : State → State} (hl : ∀ u, (g u).link = u.link) (hf : ∀ u, (g u).frame = u.frame)
    (h : ∀ u k, g (u.setLink k) = (g u).setLink k) (rs : List (Nat × Detail)) (s : State) :
    g (raiseAll rs s) = raiseAll rs (g s) := by
  rw [raiseAll_eq, raiseAll_eq rs (g s), h, raiseAll_congr rs (hl s) (hf s)]

theorem raiseAll_src (rs : List (Nat × Detail)) (s : State) (m : Source) : (raiseAll rs s).src m = s.src m := by
  rw [raiseAll_eq]
  rfl

theorem givenUp_link (m : Source) (r : SourceRec) (s : State) : (givenUp m r s).link = s.link := by
  unfold givenUp
  split <;> rfl

theorem givenUp_frame (m : Source) (r : SourceRec) (s : State) : (givenUp m r s).frame = s.frame := by
  unfold givenUp
  split <;> rfl

theorem givenUp_setLink (m : Source) (r : SourceRec) (s : State) (k : Link) :
    givenUp m r (s.setLink k) = (givenUp m r s).setLink k := by
  unfold givenUp
  split <;> rfl

theorem givenUp_setSrc (m : Source) (r x : SourceRec) (s : State) :
    givenUp m r (s.setSrc m x) = (givenUp m r s).setSrc m x := by
  unfold givenUp
  split <;> rfl

theorem givenUp_raiseAll (m : Source) (r : SourceRec) (rs : List (Nat × Detail)) (s : State) :
    givenUp m r (raiseAll rs s) = raiseAll rs (givenUp m r s) :=
  raiseAll_commute (givenUp_link m r) (givenUp_frame m r) (givenUp_setLink m r) rs s

theorem setSrc_raiseAll (m : Source) (r : SourceRec) (rs : List (Nat × Detail)) (s : State) :
    (raiseAll rs s).setSrc m r = raiseAll rs (s.setSrc m r) :=
  raiseAll_commute (g := fun u => u.setSrc m r) (fun _ => rfl) (fun _ => rfl) (fun _ _ => rfl) rs s

theorem putPlaced_raiseAll (m : Source) (x : SourceRec × List FetchItem) (rs : List (Nat × Detail)) (s : State) :
    putPlaced m x (raiseAll rs s) = raiseAll rs (putPlaced m x s) :=
  raiseAll_commute (g := putPlaced m x) (fun _ => rfl) (fun _ => rfl) (fun _ _ => rfl) rs s

theorem putPlaced_setSrc (m : Source) (x : SourceRec × List FetchItem) (r : SourceRec) (s : State) :
    putPlaced m x (s.setSrc m r) = putPlaced m x s := by
  unfold putPlaced
  rw [State.setSrc_setSrc]
  rfl

/-- R84: a source's frame start in one equation. -/
theorem sourceFrame_eq (ls : List Landed) (m : Source) (s : State) :
    sourceFrame ls m s =
      (raiseAll (sourceRaises ls m (s.src m)) (putPlaced m (steppedSource ls m (s.src m)) (givenUp m (s.src m) s)),
       (madeSource ls m (s.src m)).2.1.map (levelled (madeSource ls m (s.src m)).1.level)) := by
  have hland : (landSource ls m s).src m = (landedSource ls m (s.src m)).1 := by
    rw [landSource_eq, raiseAll_src, State.src_setSrc_same]
  have hcmd : commandSource m (landSource ls m s) =
      (givenUp m (s.src m) (landSource ls m s)).setSrc m (obeyedSource (landedSource ls m (s.src m)).1) := by
    rw [commandSource_eq, hland]
    simp only [givenUp, landedSource_cmd]
  have hmade : produce (enterSource (obeyedSource (landedSource ls m (s.src m)).1)) = madeSource ls m (s.src m) := rfl
  have hstarved : ∀ u : State, (match (madeSource ls m (s.src m)).2.2 with
      | some c => raise m.val (.sourceStarved c) u
      | none => u) = raiseAll (starvedRaise m (madeSource ls m (s.src m)).2.2) u := fun u => by
    cases (madeSource ls m (s.src m)).2.2 <;> rfl
  simp only [sourceFrame, hcmd, State.src_setSrc_same, State.setSrc_setSrc, hmade]
  refine Prod.ext ?_ rfl
  refine (congrArg (fun u => placeClip m (testLow m u)) (hstarved _)).trans ?_
  rw [testLow_eq, placeClip_eq]
  simp only [raiseAll_src, State.src_setSrc_same, landSource_eq, givenUp_raiseAll, setSrc_raiseAll, putPlaced_raiseAll,
    ← raiseAll_append, State.setSrc_setSrc, givenUp_setSrc, putPlaced_setSrc]
  rfl

/-! ## What the sources raise (R84) -/

theorem Voices.raiseAll (rs : List (Nat × Detail)) (s : State) : Voices rs (raiseAll rs) s := by
  refine ⟨raiseAll_frame rs s, fun k => ?_⟩
  rw [raiseAll_eq, raiseAll_eq rs s]
  rfl

theorem sourceFrame_voices (ls : List Landed) (m : Source) (s : State) :
    Voices (sourceRaises ls m (s.src m)) (fun u => (sourceFrame ls m u).1) s := by
  have hquiet : Voices [] (fun u => putPlaced m (steppedSource ls m (s.src m)) (givenUp m (s.src m) u)) s :=
    .quiet (givenUp_frame m _ s) fun k => by simp only [givenUp_setLink]; rfl
  exact (hquiet.comp (Voices.raiseAll _ _)).congr fun k => congrArg Prod.fst (sourceFrame_eq ls m (s.setLink k))

theorem starvedRaise_kind {m : Source} {c : Option StarveCause} :
    ∀ x ∈ starvedRaise m c, x.1 = m.val ∧ (x.2.kind = 0xC6 ∨ x.2.kind = 0xC7) := by
  intro x hx
  cases c with
  | none => cases hx
  | some c =>
    obtain rfl := List.mem_singleton.1 hx
    exact ⟨rfl, .inl rfl⟩

theorem sourceRaises_kind {ls : List Landed} {m : Source} {r : SourceRec} :
    ∀ x ∈ sourceRaises ls m r, x.1 = m.val ∧ (x.2.kind = 0xC6 ∨ x.2.kind = 0xC7) := by
  intro x hx
  simp only [sourceRaises, List.mem_append] at hx
  rcases hx with (hx | hx) | hx
  · split at hx
    · obtain rfl := List.mem_singleton.1 hx
      exact ⟨rfl, .inl rfl⟩
    · cases hx
  · exact starvedRaise_kind x hx
  · split at hx
    · obtain rfl := List.mem_singleton.1 hx
      exact ⟨rfl, .inr rfl⟩
    · cases hx

/-! ## What the scan raises (R137) -/

theorem endScan_voices (s : State) : Voices [(0, .reindexDone s.scan.counts)] endScan s :=
  ((Voices.quiet (f := fun u => { u with scan := { s.scan with running := false, outstanding := false } }) rfl fun _ => rfl).comp
    (Voices.raise 0 (.reindexDone s.scan.counts) _)).congr fun _ => rfl

/-- R137: the REINDEX_DONE of a scan that ends. -/
def scanRaises (s t : State) : List (Nat × Detail) :=
  if s.scan.running = true ∧ t.scan.running = false then [(0, .reindexDone t.scan.counts)] else []

theorem scanNextArea_voices (s : State) (h : s.scan.running = true) :
    Voices (scanRaises s (scanNextArea s).1) (fun u => (scanNextArea u).1) s := by
  cases hn : nextArea s.areas (s.scan.area.val + 1) with
  | some a =>
    have hstay : scanRaises s (scanNextArea s).1 = [] := by simp [scanRaises, scanNextArea, hn, h]
    rw [hstay]
    refine (Voices.quiet (f := fun u => { u with scan := { s.scan with area := a, chunk := 0, outstanding := true } }) rfl
      fun _ => rfl).congr fun k => ?_
    have hk : nextArea (s.setLink k).areas ((s.setLink k).scan.area.val + 1) = some a := hn
    simp only [scanNextArea, hk]
    rfl
  | none =>
    have hend : scanRaises s (scanNextArea s).1 = [(0, .reindexDone s.scan.counts)] := by
      simp [scanRaises, scanNextArea, hn, h, endScan, raise_eq]
    rw [hend]
    refine (endScan_voices s).congr fun k => ?_
    have hk : nextArea (s.setLink k).areas ((s.setLink k).scan.area.val + 1) = none := hn
    simp only [scanNextArea, hk]

theorem scanRaises_none {s t : State} (h : s.scan.running = t.scan.running) : scanRaises s t = [] := by
  unfold scanRaises
  rw [if_neg]
  rintro ⟨h1, h2⟩
  rw [h, h2] at h1
  cases h1

theorem landScan_voices (ls : List Landed) (s : State) :
    Voices (scanRaises s (landScan ls s).1) (fun u => (landScan ls u).1) s := by
  have hstay : ∀ {t : State}, s.scan.running = t.scan.running → t.frame = s.frame →
      (∀ k, (landScan ls (s.setLink k)).1 = t.setLink k) → (landScan ls s).1 = t →
      Voices (scanRaises s (landScan ls s).1) (fun u => (landScan ls u).1) s := by
    intro t hrun hframe hk hs
    subst hs
    rw [scanRaises_none hrun]
    exact .quiet hframe hk
  have hnext : ∀ mark : State → State, (mark s).frame = s.frame → (∀ k, mark (s.setLink k) = (mark s).setLink k) →
      s.scan.running = true → (mark s).scan.running = true →
      (∀ k, (landScan ls (s.setLink k)).1 = (scanNextArea (mark (s.setLink k))).1) →
      Voices (scanRaises s (landScan ls s).1) (fun u => (landScan ls u).1) s := by
    intro mark hframe hmark hrun hmarked heq
    have hs : scanRaises s (landScan ls s).1 = [] ++ scanRaises (mark s) (scanNextArea (mark s)).1 := by
      have hland : (landScan ls s).1 = (scanNextArea (mark s)).1 := heq s.link
      rw [hland, List.nil_append, scanRaises, scanRaises, hrun, hmarked]
    rw [hs]
    exact ((Voices.quiet hframe hmark).comp (scanNextArea_voices (mark s) hmarked)).congr heq
  by_cases hrun : s.scan.running = true
  case neg =>
    have hidle : s.scan.running = false := Bool.eq_false_iff.2 hrun
    refine hstay rfl rfl (fun k => ?_) ?_
    · have hk : (s.setLink k).scan.running = false := hidle
      simp only [landScan, hk, if_true]
    · simp only [landScan, hidle, if_true]
  case pos =>
    by_cases hout : s.scan.outstanding = true
    case neg =>
      have hnone : s.scan.outstanding = false := Bool.eq_false_iff.2 hout
      have heq : ∀ k, (landScan ls (s.setLink k)).1 = endScan (s.setLink k) := fun k => by
        simp [landScan, hrun, hnone]
      have hend : scanRaises s (landScan ls s).1 = [(0, .reindexDone s.scan.counts)] := by
        simp [landScan, hrun, hnone, scanRaises, endScan, raise_eq]
      rw [hend]
      exact (endScan_voices s).congr heq
    case pos =>
      cases hland : landingFor .scan ls with
      | none =>
        exact hstay rfl rfl (fun k => by simp [landScan, hrun, hout, hland]) (by simp [landScan, hrun, hout, hland])
      | some x =>
        cases x with
        | error o =>
          exact hnext (fun u => { u with scan := { s.scan with
              counts := { s.scan.counts with aborted := s.scan.counts.aborted + 1 }, outstanding := false } })
            rfl (fun _ => rfl) hrun hrun fun k => by simp [landScan, hrun, hout, hland]
        | ok words =>
          by_cases hlast : (judgeChunk s.scan.area (s.area s.scan.area) 16 words (s.index, s.scan.counts)).2 = true ∨
              15 ≤ s.scan.chunk
          · refine hnext (fun u => { u with
                index := (judgeChunk s.scan.area (s.area s.scan.area) 16 words (s.index, s.scan.counts)).1.1
                scan := { s.scan with
                  counts := (judgeChunk s.scan.area (s.area s.scan.area) 16 words (s.index, s.scan.counts)).1.2
                  outstanding := false } }) rfl (fun _ => rfl) hrun hrun fun k => ?_
            simp [landScan, hrun, hout, hland, hlast]
          · exact hstay (t := { s with
                index := (judgeChunk s.scan.area (s.area s.scan.area) 16 words (s.index, s.scan.counts)).1.1
                scan := { s.scan with
                  counts := (judgeChunk s.scan.area (s.area s.scan.area) 16 words (s.index, s.scan.counts)).1.2
                  chunk := s.scan.chunk + 1, outstanding := true } }) rfl rfl
              (fun k => by
                simp [landScan, hrun, hout, hland, hlast]
                rfl)
              (by simp [landScan, hrun, hout, hland, hlast])

/-! ## The fetch of a prompt in the slot (R110) -/

/-- R110: the slot's contents when a prompt has considered fetching, with the item it places. -/
def fetched (p : Position) (pl : Playing) : Playing × List FetchItem :=
  match pl.next with
  | none => (pl, [])
  | some (b, k) =>
    if (pl.half0.isWaiting || pl.half1.isWaiting) = true then (pl, [])
    else if pl.half0.isEmpty = true then
      ({ pl with half0 := .waiting b, next := nextFetch pl.loc.length pl.prompt.repeats b k },
        [blockItem (.prompt p) pl.loc b])
    else if pl.half1.isEmpty = true then
      ({ pl with half1 := .waiting b, next := nextFetch pl.loc.length pl.prompt.repeats b k },
        [blockItem (.prompt p) pl.loc b])
    else (pl, [])

/-- The state with these contents of position p's slot, and items placed. -/
def putSlot (p : Position) (x : Option Playing) (items : List FetchItem) (s : State) : State :=
  { s.setPos p { s.pos p with slot := x } with fetch := s.fetch ++ items }

theorem putSlot_none (p : Position) (x : Option Playing) (s : State) :
    putSlot p x [] s = s.setPos p { s.pos p with slot := x } := by
  rw [putSlot, List.append_nil]
  rfl

theorem placePrompt_empty {p : Position} {s : State} (h : (s.pos p).slot = none) : placePrompt p s = s := by
  simp only [placePrompt, h]

theorem placePrompt_eq {p : Position} {s : State} {pl : Playing} (h : (s.pos p).slot = some pl) :
    placePrompt p s = putSlot p (some (fetched p pl).1) (fetched p pl).2 s := by
  have hsame : s = putSlot p (some pl) [] s := by
    rw [putSlot_none]
    have hpos : ({ s.pos p with slot := some pl } : PosRec) = s.pos p := by rw [← h]
    rw [hpos, State.setPos_self]
  cases hn : pl.next with
  | none => simpa only [placePrompt, fetched, h, hn] using hsame
  | some bk =>
    by_cases hw : (pl.half0.isWaiting || pl.half1.isWaiting) = true
    · simpa only [placePrompt, fetched, h, hn, if_pos hw] using hsame
    · by_cases h0 : pl.half0.isEmpty = true
      · simp only [placePrompt, fetched, h, hn, if_neg hw, if_pos h0]
        rfl
      · by_cases h1 : pl.half1.isEmpty = true
        · simp only [placePrompt, fetched, h, hn, if_neg hw, if_neg h0, if_pos h1]
          rfl
        · simpa only [placePrompt, fetched, h, hn, if_neg hw, if_neg h0, if_neg h1] using hsame

/-! ## What a player raises (R105) -/

theorem Ends.set {p : Position} {s : State} (r : PosRec) (h : r.done = (s.pos p).done) : Ends p (fun u => u.setPos p r) s :=
  .quiet ((congrArg PosRec.done (State.pos_setPos_same s p r)).trans h) rfl fun _ => rfl

theorem expireStep_ends (p : Position) (s : State) : Ends p (expireStep p) s :=
  ((Ends.set { s.pos p with queue := (s.pos p).queue.map waited } rfl).comp
    (Ends.fold (f := fun u r => endPending p .expired r u) (fun u r => endPending_ends p .expired r u)
      (((s.pos p).queue.map waited).filter expires) _)).congr fun _ => rfl

theorem placePrompt_ends (p : Position) (s : State) : Ends p (placePrompt p) s := by
  cases h : (s.pos p).slot with
  | none => exact (Ends.quiet (f := id) rfl rfl fun _ => rfl).congr fun k => placePrompt_empty h
  | some pl =>
    have hput : Ends p (putSlot p (some (fetched p pl).1) (fetched p pl).2) s :=
      .quiet (congrArg PosRec.done (State.pos_setPos_same s p _) :) rfl fun _ => rfl
    exact hput.congr fun k => placePrompt_eq h

theorem playSlot_ends (p : Position) (pl : Playing) (s : State) : Ends p (fun u => (playSlot p pl u).1) s := by
  by_cases hplay : pl.prompt.state = .playing
  · have hset : Ends p (fun u => u.setPos p { s.pos p with slot := some (promptPlay pl).pl }) s := .set _ rfl
    by_cases hend : (promptPlay pl).ended = true
    · exact (hset.comp (endSlot_ends p .complete _)).congr fun k => by
        simp only [playSlot, if_pos hplay, if_pos hend]
        rfl
    · exact (hset.comp (placePrompt_ends p _)).congr fun k => by
        simp only [playSlot, if_pos hplay, if_neg hend]
        rfl
  · exact ((Ends.set { s.pos p with slot := some pl } rfl).comp (placePrompt_ends p _)).congr fun k => by
      simp only [playSlot, if_neg hplay]
      rfl

theorem slotStep_ends (ls : List Landed) (p : Position) (s : State) : Ends p (fun u => (slotStep ls p u).1) s := by
  cases hslot : (s.pos p).slot with
  | none => exact (Ends.quiet (f := id) rfl rfl fun _ => rfl).congr fun k => by simp [slotStep, hslot]
  | some pl =>
    by_cases hcancel : pl.prompt.cancel = true
    · exact (endSlot_ends p .cancelled s).congr fun k => by simp [slotStep, hslot, hcancel]
    · cases hland : landingFor (.prompt p) ls with
      | none => exact (playSlot_ends p pl s).congr fun k => by simp [slotStep, hslot, hcancel, hland]
      | some x =>
        cases x with
        | error o => exact (endSlot_ends p .clipFault s).congr fun k => by simp [slotStep, hslot, hcancel, hland]
        | ok words => exact (playSlot_ends p (landPrompt words pl) s).congr fun k => by simp [slotStep, hslot, hcancel, hland]

theorem primePrompt_ends (p : Position) (r : PromptRec) (loc : Location) (s : State) : Ends p (primePrompt p r loc) s :=
  ((Ends.set { s.pos p with
      queue := (s.pos p).queue.filter (fun x => x.handle != r.handle)
      slot := some { prompt := { r with state := .priming }, loc := loc, half0 := .empty, half1 := .empty, index := 0,
                     phase := .first, next := some (0, 1) } } rfl).comp (placePrompt_ends p _)).congr fun _ => rfl

theorem startHolds_setLink (s : State) (k : Link) (p : Position) (r : PromptRec) :
    startHolds (s.setLink k) p r = startHolds s p r := rfl

theorem selectHead_ends (ix : Vector (List IndexEntry) 128) (p : Position) (n : Nat) (s : State) :
    Ends p (selectHead ix p n) s := by
  have hstay : (∀ k, selectHead ix p n (s.setLink k) = id (s.setLink k)) → Ends p (selectHead ix p n) s :=
    fun h => (Ends.quiet (f := id) rfl rfl fun _ => rfl).congr h
  induction n generalizing s with
  | zero => exact hstay fun _ => rfl
  | succ n ih =>
    cases hq : (s.pos p).queue with
    | nil => exact hstay fun k => by simp [selectHead, hq]
    | cons r rs =>
      by_cases hstart : startHolds s p r = true
      · cases hclip : lookupClip ix r.clip with
        | some e => exact (primePrompt_ends p r e.loc s).congr fun k => by simp [selectHead, hq, startHolds_setLink, hstart, hclip]
        | none =>
          refine ((endPending_ends p .notFound r s).comp (ih _ fun h => ?_)).congr fun k => by
            simp [selectHead, hq, startHolds_setLink, hstart, hclip]
          exact (Ends.quiet (f := id) rfl rfl fun _ => rfl).congr h
      · exact hstay fun k => by simp [selectHead, hq, startHolds_setLink, hstart]

theorem preempts_setLink (s : State) (k : Link) (p : Position) : preempts (s.setLink k) p = preempts s p := rfl

theorem selectStep_ends (ix : Vector (List IndexEntry) 128) (p : Position) (s : State) : Ends p (selectStep ix p) s := by
  have hcut : Ends p (fun u => if preempts u p = true then endSlot p .preempted u else id u) s :=
    .choice (fun k => by rw [preempts_setLink]) (fun _ => endSlot_ends p .preempted s) fun _ => .quiet rfl rfl fun _ => rfl
  have hhead : ∀ u, Ends p (fun v => if (v.pos p).slot.isSome = true then id v else selectHead ix p 8 v) u := fun u =>
    .choice (fun _ => Iff.rfl) (fun _ => .quiet rfl rfl fun _ => rfl) fun _ => selectHead_ends ix p 8 u
  exact (hcut.comp (hhead _)).congr fun _ => rfl

theorem duckStep_ends (p : Position) (s : State) : Ends p (duckStep p) s :=
  (Ends.set { s.pos p with duck := moveDuck (duckTarget s p) (s.pos p).duck } rfl).congr fun _ => rfl

theorem playerFrame_ends (ix : Vector (List IndexEntry) 128) (ls : List Landed) (p : Position) (s : State) :
    Ends p (fun u => (playerFrame ix ls p u).1) s := by
  by_cases hon : (s.pos p).enabled = true
  · exact (((expireStep_ends p s).comp (slotStep_ends ls p _)).comp ((selectStep_ends ix p _).comp (duckStep_ends p _))).congr
      fun k => by simp [playerFrame, hon]
  · exact (Ends.quiet (f := id) rfl rfl fun _ => rfl).congr fun k => by simp [playerFrame, hon]

/-! ## The blocks one after the other -/

/-- Rounds over distinct blocks, each raising what its block decides as it stood at the start. -/
theorem Voices.each {α β : Type} {f : State × β → α → State × β} {rs : α → List (Nat × Detail)} {seen : α → State → Prop}
    (hvoice : ∀ a u x, seen a u → Voices (rs a) (fun v => (f (v, x) a).1) u)
    (hout : ∀ a u x k, seen a u → (f (u.setLink k, x) a).2 = (f (u, x) a).2)
    (hkeep : ∀ a b u x, a ≠ b → seen a u → seen b u → seen b (f (u, x) a).1) (l : List α) (hl : l.Nodup) :
    ∀ (s : State) (x : β), (∀ a ∈ l, seen a s) →
      Voices (l.flatMap rs) (fun v => (l.foldl f (v, x)).1) s ∧ ∀ k, (l.foldl f (s.setLink k, x)).2 = (l.foldl f (s, x)).2 := by
  induction l with
  | nil => exact fun s x _ => ⟨.quiet rfl fun _ => rfl, fun _ => rfl⟩
  | cons a l ih =>
    intro s x hseen
    obtain ⟨ha, hl⟩ := List.nodup_cons.1 hl
    have hs := hseen a List.mem_cons_self
    have hv := hvoice a s x hs
    obtain ⟨hrest, hrestOut⟩ := ih hl (f (s, x) a).1 (f (s, x) a).2 fun b hb =>
      hkeep a b s x (fun h => ha (h ▸ hb)) hs (hseen b (List.mem_cons_of_mem a hb))
    refine ⟨?_, fun k => ?_⟩
    · rw [List.flatMap_cons]
      refine (hv.comp hrest).congr fun k => ?_
      rw [List.foldl_cons, ← hout a s x k hs]
    · have hstate := hv.2 k
      simp only at hstate
      rw [List.foldl_cons, List.foldl_cons, ← hrestOut, ← hout a s x k hs, ← hstate]

/-- R84: one source's turn, its frame kept at the end of the frames so far. -/
def sourceRound (ls : List Landed) (a : State × List (List Sample)) (m : Source) : State × List (List Sample) :=
  ((sourceFrame ls m a.1).1, a.2 ++ [(sourceFrame ls m a.1).2])

theorem sourceStep_rounds (ls : List Landed) (s : State) :
    sourceStep ls s = (List.finRange 4).foldl (sourceRound ls) (s, []) := by
  unfold sourceStep
  exact congrArg (fun f => List.foldl f (s, []) (List.finRange 4)) (rfl : _ = sourceRound ls)

theorem sourceRound_state (ls : List Landed) (a : State × List (List Sample)) (m : Source) :
    (sourceRound ls a m).1 = (sourceFrame ls m a.1).1 := by rw [sourceRound]

theorem sourceRound_frames (ls : List Landed) (a : State × List (List Sample)) (m : Source) :
    (sourceRound ls a m).2 = a.2 ++ [(sourceFrame ls m a.1).2] := by rw [sourceRound]

/-- R84: the sources in their order. -/
theorem sourceStep_voices (ls : List Landed) (s : State) :
    Voices ((List.finRange 4).flatMap fun m => sourceRaises ls m (s.src m)) (fun u => (sourceStep ls u).1) s := by
  have h := Voices.each (f := sourceRound ls) (rs := fun m => sourceRaises ls m (s.src m))
    (seen := fun m u => u.src m = s.src m)
    (by
      intro m u x h
      simp only [sourceRound_state, ← h]
      exact sourceFrame_voices ls m u)
    (by
      intro m u x k _
      rw [sourceRound_frames, sourceRound_frames, (sourceFrame_congr ls m (State.src_setLink u k m)).2])
    (by
      intro m n u x hne _ hn
      rw [sourceRound_state, (sourceFrame_step ls m u).2.1 n (Ne.symm hne), hn])
    (List.finRange 4) (List.nodup_finRange 4) s [] fun _ _ => rfl
  refine h.1.congr fun k => ?_
  rw [sourceStep_rounds]

/-- R103, R105: what the player of position p raises at a frame start that finds it in s. -/
def playerRaises (ix : Vector (List IndexEntry) 128) (ls : List Landed) (s : State) (p : Position) : List (Nat × Detail) :=
  dones p (s.pos p).done.length (((playerFrame ix ls p s).1.pos p).done.length - (s.pos p).done.length)

theorem playerFrame_voices (ix : Vector (List IndexEntry) 128) (ls : List Landed) (p : Position) {s u : State}
    (h : SeenAlike p u s) : Voices (playerRaises ix ls s p) (fun v => (playerFrame ix ls p v).1) u := by
  have hv := (playerFrame_ends ix ls p u).voices
  rw [(h.player ix ls).1, h.1] at hv
  exact hv

theorem seenAlike_setLink (p : Position) (s : State) (k : Link) : SeenAlike p (s.setLink k) s :=
  ⟨rfl, rfl, rfl, rfl, rfl, rfl, rfl, fun _ => ⟨rfl, rfl, rfl⟩⟩

/-- R135: the index that position p's selection reads, as the part takes it. -/
def indexSeen (before after : Vector (List IndexEntry) 128) (s : State) (p : Position) : Vector (List IndexEntry) 128 :=
  if Config.selectsAfterScan s.draws p.val then after else before

/-- R105: one player's turn, what it hands to the mixer kept behind what the others have. -/
def playerRound (ixs : Position → Vector (List IndexEntry) 128) (ls : List Landed)
    (a : State × List (Option (List Sample × Nat))) (p : Position) : State × List (Option (List Sample × Nat)) :=
  ((playerFrame (ixs p) ls p a.1).1, a.2 ++ [(playerFrame (ixs p) ls p a.1).2])

theorem playerStep_rounds (ls : List Landed) (before after : Vector (List IndexEntry) 128) (s : State) :
    playerStep ls before after s = (List.finRange 16).foldl (playerRound (indexSeen before after s) ls) (s, []) := by
  unfold playerStep
  exact congrArg (fun f => List.foldl f (s, []) (List.finRange 16)) (rfl : _ = playerRound (indexSeen before after s) ls)

theorem playerRound_state (ixs : Position → Vector (List IndexEntry) 128) (ls : List Landed)
    (a : State × List (Option (List Sample × Nat))) (p : Position) :
    (playerRound ixs ls a p).1 = (playerFrame (ixs p) ls p a.1).1 := by rw [playerRound]

theorem playerRound_frames (ixs : Position → Vector (List IndexEntry) 128) (ls : List Landed)
    (a : State × List (Option (List Sample × Nat))) (p : Position) :
    (playerRound ixs ls a p).2 = a.2 ++ [(playerFrame (ixs p) ls p a.1).2] := by rw [playerRound]

/-- R105: the players in their order. -/
theorem playerStep_voices (ls : List Landed) (before after : Vector (List IndexEntry) 128) (s : State) :
    Voices ((List.finRange 16).flatMap fun p => playerRaises (indexSeen before after s p) ls s p)
      (fun u => (playerStep ls before after u).1) s := by
  have h := Voices.each (f := playerRound (indexSeen before after s) ls)
    (rs := fun p => playerRaises (indexSeen before after s p) ls s p)
    (seen := fun p u => SeenAlike p u s)
    (by
      intro p u x h
      simp only [playerRound_state]
      exact playerFrame_voices _ ls p h)
    (by
      intro p u x k _
      rw [playerRound_frames, playerRound_frames, ((seenAlike_setLink p u k).player _ ls).2])
    (by
      intro p q u x hne _ hq
      rw [playerRound_state]
      exact ((playerFrame_step _ ls p u).others (Ne.symm hne)).trans hq)
    (List.finRange 16) (List.nodup_finRange 16) s [] fun p _ => .refl p s
  refine h.1.congr fun k => ?_
  rw [playerStep_rounds]
  rfl

/-- R49: what the canceller of a leg of record r raises. -/
def echoRaises (e : FrameEnd) (src : State) (l : Leg) (r : LegRec) : List (Nat × Detail) :=
  match r.state, r.slot with
  | .closed, _ => []
  | _, none => []
  | _, some k =>
    if 16 ≤ (echoFrame r (netInbound e k src)).1.ec.divergence then
      [(l.val, .divergenceReset (satInc 65535 (echoFrame r (netInbound e k src)).1.ec.divergenceResets))]
    else []


theorem netInbound_setLink (e : FrameEnd) (k : NetSlot) (s : State) (x : Link) :
    netInbound e k (s.setLink x) = netInbound e k s := by cases e <;> rfl

theorem echoLeg_raises (e : FrameEnd) (outs : List (List Sample)) (l : Leg) (s : State) :
    Voices (echoRaises e s l (s.leg l)) (fun u => (echoLeg e (u, outs) l).1) s := by
  have hstay : (∀ k, (echoLeg e (s.setLink k, outs) l).1 = id (s.setLink k)) →
      Voices [] (fun u => (echoLeg e (u, outs) l).1) s := fun h => (Voices.quiet (f := id) rfl fun _ => rfl).congr h
  cases hslot : (s.leg l).slot with
  | none =>
    have hnone : echoRaises e s l (s.leg l) = [] := by cases hstate : (s.leg l).state <;> simp [echoRaises, hstate, hslot]
    rw [hnone]
    exact hstay fun k => by cases hstate : (s.leg l).state <;> simp [echoLeg, hstate, hslot]
  | some n =>
    have hset : Voices [] (fun u => u.setLeg l (echoFrame (s.leg l) (netInbound e n s)).1) s := .quiet rfl fun _ => rfl
    have hstep := hset.comp (testDivergence_voices l _)
    rw [List.nil_append, State.leg_setLeg_same] at hstep
    cases hstate : (s.leg l).state
    case closed =>
      have hnone : echoRaises e s l (s.leg l) = [] := by simp [echoRaises, hstate]
      rw [hnone]
      exact hstay fun k => by simp [echoLeg, hstate]
    all_goals
      have hsome : echoRaises e s l (s.leg l) = if 16 ≤ (echoFrame (s.leg l) (netInbound e n s)).1.ec.divergence then
          [(l.val, .divergenceReset (satInc 65535 (echoFrame (s.leg l) (netInbound e n s)).1.ec.divergenceResets))]
        else [] := by simp [echoRaises, hstate, hslot]
      rw [hsome]
      exact hstep.congr fun k => by
        have hk : ((s.setLink k).leg l).slot = some n := hslot
        have hks : ((s.setLink k).leg l).state = (s.leg l).state := rfl
        simp only [echoLeg, hk, hks, hstate, netInbound_setLink]
        rfl

/-- R40: the cancellers in their order. -/
theorem echoStep_raised (e : FrameEnd) (s : State) :
    Voices ((List.finRange 24).flatMap fun l => echoRaises e s l (s.leg l)) (fun u => (echoStep e u).1) s :=
  (Voices.each (f := echoLeg e) (rs := fun l => echoRaises e s l (s.leg l))
    (seen := fun l u => u.leg l = s.leg l ∧ u.ports = s.ports)
    (fun l u outs h => by
      have hr : echoRaises e s l (s.leg l) = echoRaises e u l (u.leg l) := by
        rw [h.1]
        simp only [echoRaises, netInbound_ports h.2]
      rw [hr]
      exact echoLeg_raises e outs l u)
    (fun l u outs k _ => (echoLeg_voices e outs l u).2 k)
    (fun l j u outs hne hl hj => by
      refine ⟨?_, (congrArg State.ports (echoLeg_hide e (u, outs) l) : ).trans hj.2⟩
      rw [echoLeg_leg, if_neg (Ne.symm hne)]
      exact hj.1)
    (List.finRange 24) (List.nodup_finRange 24) s [] fun _ _ => ⟨rfl, rfl⟩).1.congr fun _ => by simp only [echoStep]

end Sys2Proof.Machine
end

section
/-! PROOF. The execution of a row on any state, and the obligations of the link's checks, the reset sources and the step. -/

namespace Sys2Proof.Machine

/-! ## A row on any state (R195) -/

/-- R195, R196: a row leaves the state, answers the request it is asked for with a refusal alone, or takes it. -/
inductive RowDone (k : Byte) (s : State) : State → Prop
  | idle : RowDone k s s
  | refused (r : Request) (rest : List Request) (c : ResultCode) (hdue : HeadDue k r rest s) :
      RowDone k s (answered r rest c [] s)
  | taken (r : Request) (rest : List Request) (t : Taken) (hdue : HeadDue k r rest s) (ht : t.Sound (dropRequest s)) :
      RowDone k s (raiseAll t.raises (pushReply r t.result t.body t.state))

theorem exec_row_done {c : Instr} {k : Byte} (h : rowKind c = some k) (s : State) :
    ∃ t, exec c s = .next t ∧ RowDone k s t := by
  obtain ⟨entry, hentry, hexec⟩ := exec_row h
  refine ⟨_, hexec s, ?_⟩
  rcases executeHead_cases k entry s with hidle | ⟨r, rest, hdue, heq⟩
  · rw [hidle]
    exact .idle
  · rw [heq]
    cases hans : answer entry r (dropRequest s) with
    | error c =>
      rw [settleAnswer_error hdue.2.1]
      exact .refused r rest c hdue
    | ok t => exact .taken r rest t hdue (rowEntry_sound hentry (answer_ok hans))

/-- A row whose request is at the head. -/
theorem exec_row_due {c : Instr} {k : Byte} {s : State} {r : Request} {rest : List Request} (h : rowKind c = some k)
    (hdue : HeadDue k r rest s) :
    (∃ code, exec c s = .next (answered r rest code [] s)) ∨
      ∃ t : Taken, t.Sound (dropRequest s) ∧ exec c s = .next (raiseAll t.raises (pushReply r t.result t.body t.state)) := by
  obtain ⟨entry, hentry, hexec⟩ := exec_row h
  rw [hexec, executeHead_due hdue]
  cases hans : answer entry r (dropRequest s) with
  | error c => exact .inl ⟨c, by rw [settleAnswer_error hdue.2.1]⟩
  | ok t => exact .inr ⟨t, rowEntry_sound hentry (answer_ok hans), rfl⟩

/-! ## What a taken request leaves of the link -/

/-- From s to u the frame counter stands, and the link has taken raises of notices in their ranges alone. -/
def Told (s u : State) : Prop := u.frame = s.frame ∧ ∃ rs, (∀ x ∈ rs, InRange x) ∧ u.link = (raiseAll rs s).link

theorem Told.none {s u : State} (hf : u.frame = s.frame) (hl : u.link = s.link) : Told s u := ⟨hf, [], by simp, hl⟩

theorem Told.trans {s t u : State} (h : Told s t) (h' : Told t u) : Told s u := by
  obtain ⟨hf, rs, hrs, hl⟩ := h
  obtain ⟨hf', xs, hxs, hl'⟩ := h'
  refine ⟨hf'.trans hf, rs ++ xs, fun x hx => (List.mem_append.1 hx).elim (hrs x) (hxs x), ?_⟩
  rw [hl', raiseAll_append]
  exact raiseAll_congr xs hl (by rw [hf, raiseAll_frame])

theorem Told.of {P : Nat × Detail → Prop} {f : State → State} {s : State} (h : VoicesOf P f s) (hP : ∀ x, P x → InRange x) :
    Told s (f s) := by
  obtain ⟨rs, hrs, hl⟩ := h.link
  exact ⟨h.frame, rs, fun x hx => hP x (hrs x hx), hl⟩

theorem Told.raise (s : State) {k : Nat} {d : Detail} (h : k < d.subjects) : Told s (raise k d s) :=
  ⟨rfl, [(k, d)], by simpa [InRange] using h, rfl⟩

theorem Told.raiseAll {rs : List (Nat × Detail)} (s : State) (h : ∀ x ∈ rs, InRange x) : Told s (raiseAll rs s) :=
  ⟨raiseAll_frame rs s, rs, h, rfl⟩

/-- R199: the number of subjects of the notice kind of this code. -/
def kindSubjects (k : Nat) : Nat :=
  if k ≤ 0xC3 then 1 else if k = 0xC4 then 3 else if k = 0xC5 then 16 else if k ≤ 0xC7 then 4 else if k ≤ 0xC9 then 24 else 2

theorem subjects_kind (d : Detail) : d.subjects = kindSubjects d.kind := by cases d <;> rfl

theorem inRange_of_kind {x : Nat × Detail} {k n : Nat} (hk : kindSubjects k = n) (h : x.1 < n ∧ x.2.kind = k) : InRange x := by
  rw [InRange, subjects_kind, h.2, hk]
  exact h.1

/-- R199: a notice of PROMPT_DONE names a position. -/
theorem inRange_promptDone {x : Nat × Detail} (h : x.1 < 16 ∧ x.2.kind = 0xC5) : InRange x :=
  inRange_of_kind (k := 0xC5) rfl h

theorem cancelAll_told (p : Position) (s : State) : Told s (cancelAll p s) :=
  .of (cancelAll_ends p s).voicesOf fun _ hx => inRange_promptDone ⟨hx.1 ▸ p.isLt, hx.2⟩

theorem positionPut_told (p : Position) (on : Bool) (role : Role) (s : State) : Told s (positionPut p on role s) := by
  unfold positionPut
  split
  · exact .none rfl rfl
  · split
    · exact .none rfl rfl
    · exact (cancelAll_told p s).trans (.none rfl rfl)

theorem discardClass_link (c : ChangeClass) (s : State) :
    (discardClass c s).frame = s.frame ∧ (discardClass c s).link = s.link := by
  have hstep : ∀ (u : State) (x : Change), (fun v : State => (v.frame, v.link)) (match x.op with
      | .legClose l => u.setLeg l { u.leg l with closing := false }
      | _ => u) = (u.frame, u.link) := fun u x => by cases x.op <;> rfl
  have hclear := foldl_keeps (g := fun v : State => (v.frame, v.link)) hstep (s.stage c).list s
  have h1 : (clearClosing (s.stage c).list s).frame = s.frame := (congrArg Prod.fst hclear :)
  have h2 : (clearClosing (s.stage c).list s).link = s.link := (congrArg Prod.snd hclear :)
  exact ⟨by rw [discardClass, State.setStage_frame, h1], by rw [discardClass, State.setStage_link, h2]⟩

theorem discardAll_told (cs : List ChangeClass) (s : State) : Told s (cs.foldl (fun s c => discardClass c s) s) := by
  induction cs generalizing s with
  | nil => exact .none rfl rfl
  | cons c cs ih => exact (Told.none (discardClass_link c s).1 (discardClass_link c s).2).trans (ih _)

theorem latchAll_told (cs : List ChangeClass) (s : State) :
    Told s (cs.foldl (fun s c => s.setStage c (latchIfPending (s.stage c))) s) := by
  induction cs generalizing s with
  | nil => exact .none rfl rfl
  | cons c cs ih => exact (Told.none (State.setStage_frame s c _) (State.setStage_link s c _)).trans (ih _)

/-- Of the link a taken request moves only the notices, by raises of notices in their ranges; or its error counts go to 0. -/
theorem Served.told {s u : State} (h : Served s u) :
    Told s u ∨ (u.link = { s.link with badCheck := 0, badLength := 0, short := 0, overrun := 0 }) := by
  cases h
  case counts => exact .inr rfl
  all_goals left
  case tornDown => exact .of (tearDown_voices s) fun _ => inRange_promptDone
  case staged op tag hroom hop => exact .none (State.setStage_frame _ _ _) (State.setStage_link _ _ _)
  case closing l tag hroom => exact .none rfl rfl
  case position p on role hfree hroom => exact positionPut_told p on role s
  case cancelled h p k hat =>
    exact .of ((endPending_voices p .cancelled k s).of (P := fun x => x.1 < 16 ∧ x.2.kind = 0xC5) (by simp [Detail.kind]))
      fun _ => inRange_promptDone
  case scanned => rw [startScan_eq]; exact .none rfl rfl
  case masked c next line => exact .none (State.setStage_frame _ _ _) (State.setStage_link _ _ _)
  case latched cs => exact latchAll_told cs s
  case discarded cs => exact discardAll_told cs s
  case tested port t =>
    have hkeep : (keepActing port s).frame = s.frame ∧ (keepActing port s).link = s.link := by
      unfold keepActing
      split
      · cases port <;> exact ⟨rfl, rfl⟩
      · exact ⟨rfl, rfl⟩
    exact .none ((State.setTest_frame _ port t).trans hkeep.1) ((State.setTest_link _ port t).trans hkeep.2)
  all_goals exact .none rfl rfl

/-! ## What an event leaves of the link -/

/-- R200: from s to u the link has taken raises of notices in their ranges, stamped as the event stamps them, and the notices
stand in some order. -/
def Heard (s u : State) : Prop :=
  ∃ v t : State, v.link = s.link ∧ Told v t ∧ u.link = { t.link with notices := u.link.notices } ∧
    u.link.notices.Perm t.link.notices

theorem Heard.of {s v t : State} (hv : v.link = s.link) (h : Told v t) : Heard s t := ⟨v, t, hv, h, rfl, .refl _⟩

theorem Told.heard {s t : State} (h : Told s t) : Heard s t := .of rfl h

theorem Heard.same {s t : State} (h : t.link = s.link) : Heard s t := .of h ⟨rfl, [], by simp, rfl⟩

theorem Heard.then {s t u : State} (h : Heard s t) (hu : u.link = t.link) : Heard s u := by
  obtain ⟨v, w, hv, hw, hl, hp⟩ := h
  exact ⟨v, w, hv, hw, by rw [hu]; exact hl, by rw [hu]; exact hp⟩

theorem Heard.orderNew {s t : State} (h : Told s t) (old : Nat) : Heard s (orderNew old t) :=
  ⟨s, t, rfl, h, rfl, orderNew_perm old t⟩

/-! ## The marks, the sync and a sample period (R176 to R183) -/

theorem runTest_told (p : Port) (sent : Bool) (received : Option Sample) (s : State) : Told s (runTest p sent received s) := by
  unfold runTest
  split
  · exact .none rfl rfl
  · dsimp only
    have hset : ∀ t : PortTest, Told s (s.setTest p t) := fun t => .none (State.setTest_frame s p t) (State.setTest_link s p t)
    split
    · exact hset _
    · exact (hset _).trans (.raise _ (by cases p <;> simp [Port.code, Detail.subjects]))

/-- R13, R176, R177: the period in progress carried, before its tests act. -/
def sampled (net : Vector Word16 32) (head : Vector Word16 16) (s : State) : State :=
  ({ s with
    legs := vmap (recordPeriod (netSent s)) s.legs
    ports := { s.ports with
      ntx := netSent s, htx := some (headSent s),
      netRx := s.ports.netRx ++ [netTaken net s], headRx := s.ports.headRx ++ [headTaken head s] } } : State).setClock
    { s.clock with carried := true }

/-- R185, R186: both ports' tests in a period of s. -/
def tested (net : Vector Word16 32) (head : Vector Word16 16) (s u : State) : State :=
  runTest .headset true (if s.clock.mark = .flywheel then none else some (receivedOn head s.ports.headTest))
    (runTest .network (s.clock.mark != .internal)
      (if s.clock.mark = .pulse then some (receivedOn net s.ports.netTest) else none) u)

theorem carryPeriod_eq (net : Vector Word16 32) (head : Vector Word16 16) (s : State) :
    carryPeriod net head s = { orderNew s.link.notices.length
      (((tested net head s (sampled net head s)).setHeld .network none).setHeld .headset none) with draws := s.draws + 1 } := rfl

theorem tested_told (net : Vector Word16 32) (head : Vector Word16 16) (s u : State) : Told u (tested net head s u) :=
  (runTest_told .network _ _ u).trans (runTest_told .headset _ _ _)

theorem carryPeriod_heard (net : Vector Word16 32) (head : Vector Word16 16) (s : State) : Heard s (carryPeriod net head s) := by
  have htest : Told s (tested net head s (sampled net head s)) :=
    (Told.none (s := s) (u := sampled net head s) rfl rfl).trans (tested_told net head s _)
  have hheld := htest.trans
    (Told.none (u := ((tested net head s (sampled net head s)).setHeld .network none).setHeld .headset none) rfl rfl)
  rw [carryPeriod_eq]
  exact (Heard.orderNew hheld _).then rfl

theorem markPeriod_heard (kind : MarkKind) (s : State) : Heard s (markPeriod kind s) := by
  unfold markPeriod
  split
  · exact .same rfl
  · dsimp only
    refine Heard.then (t := if s.clock.carried then s else carryPeriod (Vector.replicate 32 0) (Vector.replicate 16 0) s) ?_ rfl
    split
    · exact .same rfl
    · exact carryPeriod_heard _ _ s

theorem raiseSync_told (s : State) : Told s (raiseSync s) := .raise s (by simp [Detail.subjects])

theorem takePulse_heard (since : Nat) (s : State) : Heard s (takePulse since s) := by
  unfold takePulse
  split
  · split
    · exact markPeriod_heard _ s
    · exact .same rfl
  · unfold seekPulse
    split
    · exact .of (v := { s with
        sync := { s.sync with state := .locked, seeking := 0, slips := satInc 65535 s.sync.slips }
        clock := { s.clock with prolonged := true } }) rfl (raiseSync_told _)
    · exact .same rfl
  · exact .same rfl

/-! ## A frame start (R179) -/

theorem rampStep_told (before : State) (fresh : List Leg) (s : State) : Told s (rampStep before fresh s) := by
  have h := rampStep_only before fresh s
  generalize rampStep before fresh s = t at h ⊢
  exact .none (congrArg State.frame h :) (congrArg State.link h :)

theorem micStep_told (s : State) : Told s (micStep s).1 := by
  have h := micStep_only s
  generalize (micStep s).1 = t at h ⊢
  exact .none (congrArg State.frame h :) (congrArg State.link h :)

theorem stageApplication_told (s : State) : Told s (stageApplication s).1 :=
  (Told.of ((stageApplication_voices s).of (stageRaises_kind s)) fun _ => inRange_of_kind rfl :)

theorem settleOpening_told (o : Opening) (s : State) : Told s (settleOpening o s) :=
  (Told.of (settleOpening_voices o s) fun _ => inRange_of_kind rfl :)

theorem echoStep_told (e : FrameEnd) (s : State) : Told s (echoStep e s).1 :=
  (Told.of (echoStep_voices e s).1 fun _ => inRange_of_kind rfl :)

theorem sourceStep_told (ls : List Landed) (s : State) : Told s (sourceStep ls s).1 := by
  refine (Told.of ((sourceStep_voices ls s).of (P := InRange) fun x hx => ?_) fun _ h => h :)
  obtain ⟨m, _, hm⟩ := List.mem_flatMap.1 hx
  obtain ⟨hsubject, hkind | hkind⟩ := sourceRaises_kind x hm
  · exact inRange_of_kind rfl ⟨hsubject ▸ m.isLt, hkind⟩
  · exact inRange_of_kind rfl ⟨hsubject ▸ m.isLt, hkind⟩

theorem landScan_told (ls : List Landed) (s : State) : Told s (landScan ls s).1 := by
  refine (Told.of ((landScan_voices ls s).of (P := InRange) fun x hx => ?_) fun _ h => h :)
  unfold scanRaises at hx
  split at hx
  · obtain rfl := List.mem_singleton.1 hx
    exact Nat.one_pos
  · cases hx

theorem playerStep_told (ls : List Landed) (before after : Vector (List IndexEntry) 128) (s : State) :
    Told s (playerStep ls before after s).1 := by
  refine (Told.of ((playerStep_voices ls before after s).of (P := InRange) fun x hx => ?_) fun _ h => h :)
  obtain ⟨p, _, hp⟩ := List.mem_flatMap.1 hx
  exact inRange_promptDone ⟨(dones_kind x hp).1 ▸ p.isLt, (dones_kind x hp).2⟩

theorem placeScan_link (it : Option FetchItem) (s : State) : (placeScan it s).frame = s.frame ∧ (placeScan it s).link = s.link := by
  cases it <;> exact ⟨rfl, rfl⟩

theorem audioFrame_told (e : FrameEnd) (ls : List Landed) (o : Opening) (spare : Nat) (s : State) :
    Told s (audioFrame e ls o spare s) := by
  have hmusic := ((echoStep_told e s).trans (micStep_told _)).trans (sourceStep_told ls (micStep (echoStep e s).1).1)
  have hscan := hmusic.trans (landScan_told ls _)
  unfold audioFrame
  dsimp only
  generalize sourceStep ls (micStep (echoStep e s).1).1 = music at hscan ⊢
  have hprompt := hscan.trans (playerStep_told ls music.1.index (landScan ls music.1).1.index _)
  generalize playerStep ls music.1.index (landScan ls music.1).1.index (landScan ls music.1).1 = prompt at hprompt ⊢
  have hplace := hprompt.trans (.none (placeScan_link (landScan ls music.1).2 _).1 (placeScan_link _ _).2)
  generalize placeScan (landScan ls music.1).2 prompt.1 = u at hplace ⊢
  exact hplace.trans (.none rfl rfl)

theorem runningFrame_told (e : FrameEnd) (ls : List Landed) (s : State) : Told s (runningFrame e ls s) :=
  (((stageApplication_told s).trans (settleOpening_told _ _)).trans (rampStep_told _ _ _)).trans (audioFrame_told e ls _ _ _)

theorem standbyFrame_told (ls : List Landed) (s : State) : Told s (standbyFrame ls s) :=
  ((settleOpening_told _ s).trans (landScan_told ls _)).trans (.none (placeScan_link _ _).1 (placeScan_link _ _).2)

theorem landReads_told (s : State) : Told s (landReads s).1 := by
  have hreads : Told s { s with reads := [] } := .none rfl rfl
  have hfaults := Told.of (takeFaults_voices (s.reads.map Read.land) { s with reads := [] })
    fun x h => inRange_of_kind rfl ⟨h.1 ▸ Nat.one_pos, h.2⟩
  exact hreads.trans hfaults

theorem takeFrame_heard (e : FrameEnd) (quiet : Bool) (s : State) : Heard s (takeFrame e quiet s) := by
  have hland : Told (openFrame e quiet s) (landReads (openFrame e quiet s)).1 := landReads_told _
  have hframe : Told (openFrame e quiet s) (if s.part = .running then
      runningFrame e (landReads (openFrame e quiet s)).2 (landReads (openFrame e quiet s)).1
      else standbyFrame (landReads (openFrame e quiet s)).2 (landReads (openFrame e quiet s)).1) := by
    split
    · exact hland.trans (runningFrame_told e _ _)
    · exact hland.trans (standbyFrame_told _ _)
  have hclose := hframe.trans (Told.none (u := closeFrame _) rfl rfl)
  obtain ⟨v, t, hv, ht, hl, hp⟩ := Heard.orderNew hclose s.link.notices.length
  exact Heard.then ⟨v, t, hv, ht, hl, hp⟩ rfl

end Sys2Proof.Machine
end

section
/-! PROOF. The commands that are no requests, one case for each kind of effect; and the rule by which every step keeps an invariant. -/

namespace Sys2Proof.Machine

/-- From s to t a command that is no request row has taken its effect: one case for each kind of effect. -/
inductive Event (s : State) : State → Prop
  | idle : Event s s
  | heldBy (cause : ResetCause) (draws : Nat) :
      Event s ({ s with hold := some cause, draws := draws }.setLink { s.link with reading := none })
  | reset (pins : Straps) (cause : ResetCause) : Event s (resetPart pins cause s)
  | phase (fault : Bool) (hpart : s.part = .selftest) : Event s (endPhase fault s)
  | wrote (bytes : List Byte) : Event s (takeTransfer bytes (closeRead s))
  | readStarts : Event s (startRead (closeRead s))
  | readEnds (clocked : Nat) : Event s (endRead clocked s)
  | refused (r : Request) (rest : List Request) (c : ResultCode) (hdue : HeadDue r.kind r rest s) :
      Event s (answered r rest c [] s)
  | edge : Event s { s with routing := edgeOn s.routing, levels := edgeOn s.levels, echo := edgeOn s.echo }
  | pulse (since : Nat) : Event s (takePulse since s)
  | relocked : Event s (relockSync s)
  | lost : Event s (loseSync s)
  | marked (kind : MarkKind) : Event s (markPeriod kind s)
  | carried (net : Vector Word16 32) (head : Vector Word16 16) : Event s (carryPeriod net head s)
  | readsMoved (f : Read → Read) : Event s { s with reads := onCurrentRead f s.reads }
  | frame (e : FrameEnd) (quiet : Bool) (hruns : s.clockRuns = true) (hdue : s.clock.due = some e) : Event s (takeFrame e quiet s)
  | starved (l : Leg) : Event s (settleDebt l s)
  | dtExpired (l : Leg) : Event s (s.setLeg l { s.leg l with ec := { (s.leg l).ec with hangover := stepHangover false 1 } })
  | callerExpired (l : Leg) : Event s (s.setLeg l { s.leg l with ec := { (s.leg l).ec with
      callerHangover := countDown 1, callerActive := false } })
  | diverged (l : Leg) (hlive : (s.leg l).live = true) : Event s (divergenceResetOf l s)
  | vadExpired (p : Position) : Event s (s.setPos p { s.pos p with mic := { (s.pos p).mic with
      vadHangover := stepVadHangover false 1, vad := false } })
  | wrapped (m : Source) : Event s (s.setSrc m (stepCadence (s.src m)))
  | expired (h : Handle) (p : Position) (r : PromptRec) (hat : pendingAt s h = some (p, r)) :
      Event s (endPending p .expired (waited r) s)

/-- A command with a condition under which it is due. -/
theorem Event.choice {s t : State} {c : Prop} [Decidable c] (h : c → Event s t) : Event s (if c then t else s) := by
  split
  · exact h ‹_›
  · exact .idle

/-- R195: a refused request at the head, or none. -/
theorem Event.head {k : Byte} {entry : Request → State → Except ResultCode Taken} {s : State}
    (h : ∀ r u t, answer entry r u ≠ .ok t) : Event s (executeHead k entry s) := by
  rcases executeHead_cases k entry s with hidle | ⟨r, rest, hdue, heq⟩
  · rw [hidle]
    exact .idle
  · rw [heq]
    cases hans : answer entry r (dropRequest s) with
    | error c =>
      rw [settleAnswer_error hdue.2.1]
      exact .refused r rest c ⟨hdue.1, hdue.2.1, rfl, hdue.2.2.2⟩
    | ok t => exact absurd hans (h r _ t)

/-- Every command that is no request row. -/
theorem exec_event {c : Instr} (h : rowKind c = none) (s : State) : ∃ t, exec c s = .next t ∧ Event s t := by
  cases c <;> cases h <;> refine ⟨_, rfl, ?_⟩
  case powerOn => exact .heldBy .powerOn s.draws
  case resetnAssert => exact .heldBy _ _
  case resetRelease pins =>
    cases hh : s.hold with
    | none => exact .idle
    | some cause => exact .reset pins cause
  case selftestPhaseEnd fault => exact .choice fun h => .phase fault h.2
  case writeTransfer bytes => exact .choice fun _ => .wrote bytes
  case readTransfer => exact .choice fun _ => .readStarts
  case readTransferEnd clocked => exact .choice fun _ => .readEnds clocked
  case badRequest =>
    cases hr : s.link.requests with
    | nil => exact .idle
    | cons r rest => exact .choice fun _ => .head fun r u t ht => by have := answer_ok ht; cases this
  case reset pins =>
    cases hr : s.link.requests with
    | nil => exact .idle
    | cons r rest =>
      dsimp only
      split
      · exact .reset pins .request
      · exact .head fun r u t ht => by have := answer_ok ht; cases this
  case applyEdge => exact .choice fun _ => .edge
  case nsyncPulse since => exact .choice fun _ => .pulse since
  case syncRelock => exact .choice fun _ => .relocked
  case syncLoss => exact .choice fun _ => .lost
  case flywheelPeriod => exact .choice fun _ => .marked .flywheel
  case internalMark => exact .choice fun _ => .marked .internal
  case samplePeriod net head => exact .choice fun _ => .carried net head
  case fetchRead words => exact .choice fun _ => .readsMoved (takeWords words)
  case wordReadTimeout => exact .choice fun _ => .readsMoved timeoutWord
  case frameStart quiet =>
    by_cases hruns : s.clockRuns = true
    · rw [if_pos hruns]
      cases hdue : s.clock.due with
      | none => exact .idle
      | some e => exact .frame e quiet hruns hdue
    · rw [if_neg hruns]
      exact .idle
  case adaptStarved l => exact .choice fun _ => .starved l
  case dtHangoverExpiry l => exact .choice fun h => h.2.2 ▸ .dtExpired l
  case callerHangoverExpiry l => exact .choice fun h => h.2.2 ▸ .callerExpired l
  case divergenceReset l => exact .choice fun h => .diverged l h.2.1
  case vadHangoverExpiry p => exact .choice fun h => h.2.2 ▸ .vadExpired p
  case toneCadenceWrap m => exact .choice fun _ => .wrapped m
  case promptExpire hd =>
    cases hat : pendingAt s hd with
    | none => exact .idle
    | some x => exact .choice fun _ => .expired hd x.1 x.2 hat

/-! ## Invariants -/

/-- Every step keeps what the request rows and the other commands keep, where the waiting commands have no part in it. -/
theorem step_keeps {Inv : State → Prop} (hpend : ∀ s q, Inv s → Inv (s.setPending q))
    (hrow : ∀ k s t, Inv s → RowDone k s t → Inv t) (hevent : ∀ s t, Inv s → Event s t → Inv t) :
    ∀ s t, Inv s → step s = .next t → Inv t := by
  intro s t hs hstep
  unfold step at hstep
  cases hq : s.pending with
  | nil =>
    rw [hq] at hstep
    cases hstep
    exact hs
  | cons c q =>
    rw [hq] at hstep
    have hs' := hpend s q hs
    cases hk : rowKind c with
    | none =>
      obtain ⟨u, hu, hev⟩ := exec_event hk (s.setPending q)
      cases hu.symm.trans hstep
      exact hevent _ _ hs' hev
    | some k =>
      obtain ⟨u, hu, hrowd⟩ := exec_row_done hk (s.setPending q)
      cases hu.symm.trans hstep
      exact hrow k _ _ hs' hrowd

/-- An invariant that the link has no part in. -/
theorem step_keeps_tables {Inv : State → Prop} (hpend : ∀ s q, Inv s → Inv (s.setPending q))
    (hlink : ∀ s k, Inv s → Inv (s.setLink k)) (hserved : ∀ s t, Inv s → Served s t → Inv t)
    (hevent : ∀ s t, Inv s → Event s t → Inv t) : ∀ s t, Inv s → step s = .next t → Inv t := by
  refine step_keeps hpend (fun k s t hs h => ?_) hevent
  cases h with
  | idle => exact hs
  | refused r rest c hdue => exact hlink s _ hs
  | taken r rest t hdue ht =>
    rw [raiseAll_eq]
    exact hlink _ _ (hlink _ _ (hserved _ _ (hlink s _ hs) ht.served))

end Sys2Proof.Machine
end

section
/-! PROOF. The step, the reset sources, the link's checks, and the bounds of the link's queues and notices (R191 to R207). -/

namespace Sys2Proof.Machine

/-! ## The step and the reset sources -/

/-- Settles O1: the two arms of step. -/
theorem stepRunsTheFrontCommand : Obligations.StepRunsTheFrontCommand := by
  unfold Obligations.StepRunsTheFrontCommand
  refine ⟨fun c q s h => ?_, fun s h => ?_⟩
  · simp only [step, h]
  · simp only [step, h]

/-- Settles O8: what POWER_ON and RESETN_ASSERT leave, by the cause that held before. -/
theorem resetSourcesHoldThePart : Obligations.ResetSourcesHoldThePart := by
  unfold Obligations.ResetSourcesHoldThePart
  refine fun s => ⟨⟨_, rfl, rfl, rfl, rfl⟩, ⟨_, rfl, rfl, rfl, fun hpin => ?_, ?_⟩⟩
  · simp [hpin]
  · cases (decide (s.hold = some ResetCause.powerOn) && Config.powerOnOutlastsPin s.draws) <;> simp

/-- R191: no command but a reset source and the release is due in a held part. -/
theorem exec_held {c : Instr} {s : State} (hhold : s.hold ≠ none) (hpower : c ≠ .powerOn) (hpin : c ≠ .resetnAssert)
    (hrelease : ∀ pins, c ≠ .resetRelease pins) : exec c s = .next s := by
  have hrow : ∀ k entry, executeHead k entry s = s := fun k entry => executeHead_not_due (.inl hhold)
  have hclock : s.clockRuns = false := by
    cases h : s.hold with
    | none => exact absurd h hhold
    | some x => simp [State.clockRuns, h]
  rcases hk : rowKind c with _ | k
  case some =>
    obtain ⟨entry, _, hexec⟩ := exec_row hk
    rw [hexec, hrow]
  case none =>
    cases c <;> cases hk
    case powerOn.refl => exact absurd rfl hpower
    case resetnAssert.refl => exact absurd rfl hpin
    case resetRelease.refl pins => exact absurd rfl (hrelease pins)
    case badRequest.refl =>
      show Host.Outcome.next _ = _
      cases hr : s.link.requests with
      | nil => rfl
      | cons r rest => simp [hrow]
    case reset.refl pins =>
      show Host.Outcome.next _ = _
      cases hr : s.link.requests with
      | nil => rfl
      | cons r rest => simp [hrow, hhold]
    case promptExpire.refl hd =>
      show Host.Outcome.next _ = _
      cases hat : pendingAt s hd with
      | none => rfl
      | some x => simp [hhold]
    all_goals
      show Host.Outcome.next _ = _
      simp [hhold, hclock, periodDue]

/-- Settles O9, by the condition under which each command is due. -/
theorem heldPartIgnoresCommands : Obligations.HeldPartIgnoresCommands := by
  unfold Obligations.HeldPartIgnoresCommands
  exact fun c s hhold hpower hpin hrelease => exec_held hhold hpower hpin hrelease

/-! ## The link's checks (R195, R196) -/

/-- Settles O16: the checks of answer, in their order, before any entry. -/
theorem linkChecksComeFirst : Obligations.LinkChecksComeFirst := by
  unfold Obligations.LinkChecksComeFirst
  refine ⟨fun s r rest hdue hfits => ?_, fun c k s hk => ?_⟩
  · show Host.Outcome.next _ = _
    simp only [hdue.2.1, hfits, if_true]
    rw [executeHead_due hdue, answer_unknown hfits, settleAnswer_error hdue.2.1]
  · obtain ⟨entry, _, hexec⟩ := exec_row hk
    refine ⟨fun hfull => ?_, fun r rest hdue => ⟨fun hfits => ?_, fun hfits hkind hserving => ?_⟩⟩
    · rw [hexec, executeHead_not_due (.inr (.inl hfull))]
    · rw [← hdue.2.2.1] at hfits
      rw [hexec, executeHead_due hdue, answer_badLength hfits, settleAnswer_error hdue.2.1]
    · rw [← hdue.2.2.1] at hfits hkind
      rw [hexec, executeHead_due hdue, answer_wrongState (s := dropRequest s) hfits hserving hkind, settleAnswer_error hdue.2.1]

/-- Raises leave the two queues of requests and replies and the error counts. -/
theorem raiseAll_queues (rs : List (Nat × Detail)) (s : State) :
    (raiseAll rs s).link.requests = s.link.requests ∧ (raiseAll rs s).link.replies = s.link.replies ∧
      (raiseAll rs s).link.badCheck = s.link.badCheck ∧ (raiseAll rs s).link.badLength = s.link.badLength ∧
      (raiseAll rs s).link.short = s.link.short ∧ (raiseAll rs s).link.overrun = s.link.overrun := by
  have h := (raiseAll_link rs s).1 [] none
  exact ⟨(congrArg Link.requests h :), (congrArg Link.replies h :), (congrArg Link.badCheck h :), (congrArg Link.badLength h :),
    (congrArg Link.short h :), (congrArg Link.overrun h :)⟩

/-- A taken request leaves the requests behind it and the replies before its own. -/
theorem Served.queues {s u : State} (h : Served s u) : u.link.requests = s.link.requests ∧ u.link.replies = s.link.replies := by
  rcases h.told with ⟨_, rs, _, hl⟩ | hl
  · obtain ⟨hreq, hrep, _⟩ := raiseAll_queues rs s
    exact ⟨by rw [hl, hreq], by rw [hl, hrep]⟩
  · rw [hl]
    exact ⟨rfl, rfl⟩

/-- Settles O17: a row answers its request with a refusal alone, or takes it with one reply of OK or ACCEPTED. -/
theorem refusedRequestChangesNothing : Obligations.RefusedRequestChangesNothing := by
  unfold Obligations.RefusedRequestChangesNothing
  intro c k s r rest hk hdue
  rcases exec_row_due hk hdue with ⟨code, hexec⟩ | ⟨t, ht, hexec⟩
  · exact ⟨_, _, hexec, rfl, rfl, rfl, rfl, fun _ _ => ⟨rfl, rfl⟩⟩
  · obtain ⟨hreq, hrep⟩ := ht.served.queues
    obtain ⟨hreq', hrep', _⟩ := raiseAll_queues t.raises (pushReply r t.result t.body t.state)
    have hrest : (dropRequest s).link.requests = rest := by simp [hdue.2.1]
    refine ⟨_, { kind := r.kind + 0x80#8, tag := r.tag, result := t.result, body := t.body }, hexec, ?_, ?_, rfl, rfl,
      fun hok hacc => ?_⟩
    · rw [hreq', pushReply_eq]
      exact hreq.trans hrest
    · rw [hrep', pushReply_eq]
      exact congrArg (· ++ _) hrep
    · rcases ht.result with h | h
      · exact absurd h hok
      · exact absurd h hacc

/-! ## A row whose entry takes or refuses the request -/

section
variable {c : Instr} {k : Byte} {r : Request} {rest : List Request} {s u : State} {body : List Byte}
  {entry : Request → State → Except ResultCode Taken}

/-- R195: a due request that fits and that the part state allows is answered as its entry decides on the queue's rest. -/
theorem row_accepted_rest (hexec : ∀ s, exec c s = .next (executeHead k entry s)) (hdue : HeadDue k r rest s)
    (hfit : bodyFits k.toNat r.body = some true) (hs : Serving s ∨ takenAlways k = true) (hu : u.link = s.link)
    (he : entry r (s.setLink { s.link with requests := rest }) =
      .ok { body := body, state := u.setLink { s.link with requests := rest } }) :
    exec c s = .next (answered r rest .ok body u) := by
  have ⟨_, hqueue, hkind, _⟩ := hdue
  rw [← hkind] at hfit hs
  have hrest : dropRequest s = s.setLink { s.link with requests := rest } := by rw [dropRequest_eq, hqueue]; rfl
  rw [hexec, executeHead_due hdue, answer_taken (s := dropRequest s) hfit hs, hrest, he, settleAnswer_ok _ _ _ rfl]
  simp [answered, State.setLink, hu]

/-- R195: the same where the entry takes no notice of the link. -/
theorem row_accepted (hexec : ∀ s, exec c s = .next (executeHead k entry s)) (hdue : HeadDue k r rest s)
    (hfit : bodyFits k.toNat r.body = some true) (hs : Serving s ∨ takenAlways k = true) (hu : u.link = s.link)
    (he : ∀ x : Link, entry r (s.setLink x) = .ok { body := body, state := u.setLink x }) :
    exec c s = .next (answered r rest .ok body u) := row_accepted_rest hexec hdue hfit hs hu (he _)

theorem row_refused {code : ResultCode} (hexec : ∀ s, exec c s = .next (executeHead k entry s)) (hdue : HeadDue k r rest s)
    (hfit : bodyFits k.toNat r.body = some true) (hs : Serving s ∨ takenAlways k = true)
    (he : ∀ x : Link, entry r (s.setLink x) = .error code) : exec c s = .next (answered r rest code [] s) := by
  have ⟨_, hqueue, hkind, _⟩ := hdue
  rw [← hkind] at hfit hs
  have herror : entry r (dropRequest s) = .error code := by rw [dropRequest_eq, he]
  rw [hexec, executeHead_due hdue, answer_taken (s := dropRequest s) hfit hs, herror, settleAnswer_error hqueue]

end

/-! ## IDENTIFY and STATUS (R206, R207) -/

/-- Settles O18: the entries only read the state, and the link's check on the part state lets both kinds through. -/
theorem identifyAndStatusReport : Obligations.IdentifyAndStatusReport := by
  unfold Obligations.IdentifyAndStatusReport
  refine fun s r rest hbody => ⟨fun hdue => ?_, fun hdue => ?_⟩
  · exact row_accepted (entry := identifyEntry) (fun _ => rfl) hdue (by rw [hbody]; rfl) (.inr rfl) rfl fun _ => rfl
  · exact row_accepted_rest (entry := statusEntry) (fun _ => rfl) hdue (by rw [hbody]; rfl) (.inr rfl) rfl rfl

/-! ## The notice queue (R199, R200) -/

/-- R200: the kind and subject of an entry. -/
def Notice.key (n : Notice) : Nat × Nat := (n.detail.kind, n.subject)

/-- R199: a notice whose count and subject are in their ranges. -/
def Notice.inBounds (n : Notice) : Prop := 1 ≤ n.count ∧ n.count ≤ 255 ∧ n.subject < n.detail.subjects

/-- R199, R200: the notices of a queue are distinct, each in its bounds. -/
def DistinctIn (ns : List Notice) : Prop := (ns.map Notice.key).Nodup ∧ ∀ n ∈ ns, n.inBounds

theorem noticesDistinct_iff (s : State) : NoticesDistinct s ↔ DistinctIn s.link.notices := by
  have hkey : ∀ a b : Notice, ¬ (a.detail.kind = b.detail.kind ∧ a.subject = b.subject) ↔ a.key ≠ b.key := fun a b => by
    simp [Notice.key]
  unfold NoticesDistinct DistinctIn
  rw [List.Nodup, List.pairwise_map]
  simp only [hkey]
  rfl

theorem DistinctIn.perm {ns ms : List Notice} (h : DistinctIn ns) (hp : ms.Perm ns) : DistinctIn ms :=
  ⟨(hp.map Notice.key).nodup_iff.2 h.1, fun n hn => h.2 n (hp.mem_iff.1 hn)⟩

theorem DistinctIn.tail {n : Notice} {ns : List Notice} (h : DistinctIn (n :: ns)) : DistinctIn ns :=
  ⟨(List.nodup_cons.1 h.1).2, fun m hm => h.2 m (List.mem_cons_of_mem n hm)⟩

/-- R200: a raise adds the key of its entry where none stands, and changes no other. -/
theorem raiseIn_key (stamp : Stamp) (k : Nat) (d : Detail) (ns : List Notice) :
    (raiseIn stamp k d ns).map Notice.key =
      if (d.kind, k) ∈ ns.map Notice.key then ns.map Notice.key else ns.map Notice.key ++ [(d.kind, k)] := by
  induction ns with
  | nil => rfl
  | cons n ns ih =>
    by_cases h : n.isFor k d = true
    · obtain ⟨hkind, hsubject⟩ : n.detail.kind = d.kind ∧ n.subject = k := by simpa [Notice.isFor] using h
      have hmem : (d.kind, k) ∈ (n :: ns).map Notice.key := by simp [Notice.key, hkind, hsubject]
      rw [if_pos hmem]
      simp [raiseIn, h, Notice.key, hkind]
    · have hne : (d.kind, k) ≠ n.key := fun heq => h (by
        obtain ⟨hkind, hsubject⟩ := Prod.mk.inj heq
        simp [Notice.isFor, hkind, hsubject])
      simp only [raiseIn, h, List.map_cons, List.mem_cons, hne, false_or]
      simp only [Bool.false_eq_true, if_false, List.map_cons, ih]
      split <;> rfl

theorem raiseIn_inBounds {stamp : Stamp} {k : Nat} {d : Detail} (hk : k < d.subjects) {ns : List Notice}
    (h : ∀ n ∈ ns, n.inBounds) : ∀ n ∈ raiseIn stamp k d ns, n.inBounds := by
  induction ns with
  | nil =>
    intro n hn
    obtain rfl := List.mem_singleton.1 hn
    exact ⟨le_refl 1, Nat.le_add_left 1 254, hk⟩
  | cons m ms ih =>
    obtain ⟨hm, hms⟩ := List.forall_mem_cons.1 h
    intro n hn
    by_cases hfor : m.isFor k d = true
    · obtain ⟨hkind, hsubject⟩ : m.detail.kind = d.kind ∧ m.subject = k := by simpa [Notice.isFor] using hfor
      simp only [raiseIn, hfor, if_true, List.mem_cons] at hn
      rcases hn with rfl | hn
      · obtain ⟨hlow, hhigh, hsub⟩ := hm
        refine ⟨?_, ?_, ?_⟩ <;> simp only [satInc]
        · split <;> omega
        · split <;> omega
        · rw [hsubject]; exact hk
      · exact hms n hn
    · rw [raiseIn, if_neg hfor, List.mem_cons] at hn
      rcases hn with rfl | hn
      · exact hm
      · exact ih hms n hn

theorem DistinctIn.raiseIn {ns : List Notice} (h : DistinctIn ns) (stamp : Stamp) {k : Nat} {d : Detail} (hk : k < d.subjects) :
    DistinctIn (raiseIn stamp k d ns) := by
  refine ⟨?_, raiseIn_inBounds hk h.2⟩
  rw [raiseIn_key]
  split
  · exact h.1
  · next hnew => exact List.Nodup.append h.1 (List.nodup_singleton _) (by simpa using hnew)

theorem DistinctIn.raiseAll {rs : List (Nat × Detail)} (hrs : ∀ x ∈ rs, InRange x) {s : State} (h : DistinctIn s.link.notices) :
    DistinctIn (raiseAll rs s).link.notices := by
  induction rs generalizing s with
  | nil => exact h
  | cons x rs ih =>
    obtain ⟨hx, hrs⟩ := List.forall_mem_cons.1 hrs
    exact ih hrs (DistinctIn.raiseIn h s.frame hx)

theorem DistinctIn.told {s t : State} (h : DistinctIn s.link.notices) (ht : Told s t) : DistinctIn t.link.notices := by
  obtain ⟨_, rs, hrs, hl⟩ := ht
  rw [hl]
  exact h.raiseAll hrs

theorem DistinctIn.heard {s t : State} (h : DistinctIn s.link.notices) (ht : Heard s t) : DistinctIn t.link.notices := by
  obtain ⟨v, w, hv, hw, _, hp⟩ := ht
  rw [← hv] at h
  exact (h.told hw).perm hp

theorem DistinctIn.served {s t : State} (h : DistinctIn s.link.notices) (ht : Served s t) : DistinctIn t.link.notices := by
  rcases ht.told with ht | hl
  · exact h.told ht
  · rw [hl]
    exact h

/-- R201: the notice read whole leaves the queue, or stays with the raises taken since. -/
theorem DistinctIn.noticeRead {ns : List Notice} (h : DistinctIn ns) (raises : Nat) : DistinctIn (noticeRead raises ns) := by
  cases ns with
  | nil => exact h
  | cons n ns =>
    by_cases hr : raises = 0
    · simpa only [Machine.noticeRead, if_pos hr] using h.tail
    · simp only [Machine.noticeRead, if_neg hr]
      refine ⟨h.1, List.forall_mem_cons.2 ⟨?_, h.tail.2⟩⟩
      obtain ⟨_, _, hsub⟩ := h.2 n List.mem_cons_self
      exact ⟨by show 1 ≤ min 255 raises; omega, by show min 255 raises ≤ 255; omega, hsub⟩

theorem DistinctIn.endRead {s : State} (h : DistinctIn s.link.notices) (clocked : Nat) :
    DistinctIn (endRead clocked s).link.notices := by
  unfold Machine.endRead
  split
  · exact h
  · dsimp only
    split
    · exact h
    · split <;> exact h
    · split
      · exact h.noticeRead _
      · exact h

theorem DistinctIn.takeTransfer {s : State} (h : DistinctIn s.link.notices) (bytes : List Byte) :
    DistinctIn (takeTransfer bytes s).link.notices := by
  unfold Machine.takeTransfer
  split
  · exact h
  · next lead rest =>
    split
    · unfold takeWrite
      split
      · exact h
      · exact h
      · exact h
      · unfold offerRequest
        split
        · exact h
        · split <;> exact h
    · split
      · exact DistinctIn.endRead (s := startRead s) h rest.length
      · exact h

/-- R203: the notices right after a reset: none, or PART_STATE. -/
theorem resetPart_notices (pins : Straps) (cause : ResetCause) (s : State) :
    (resetPart pins cause s).link.notices = if pins.test then [] else
      [{ subject := 0, count := 1, stamp := 0, detail := .partState .standby 0 (.reset cause) }] := by
  unfold resetPart
  dsimp only
  split
  · rfl
  · unfold enterStandby
    dsimp only
    split
    · rw [startScan_eq]
      rfl
    · rfl

theorem enterStandby_told (s : State) : Told s (enterStandby s) := by
  have hraise : Told s (raise 0 (.partState .standby 0 (.reset s.cause)) { s with part := .standby, progress := 0 }) :=
    (Told.none (s := s) (u := { s with part := .standby, progress := 0 }) rfl rfl).trans (.raise _ Nat.one_pos)
  unfold enterStandby
  dsimp only
  split
  · rw [startScan_eq]
    exact hraise.trans (.none rfl rfl)
  · exact hraise.trans (.none rfl rfl)

theorem endPhase_told (fault : Bool) (s : State) : Told s (endPhase fault s) := by
  unfold endPhase
  split
  · exact (Told.none (s := s) (u := { s with part := .failed }) rfl rfl).trans (.raise _ Nat.one_pos)
  · split
    · exact .none rfl rfl
    · exact enterStandby_told s

/-- The effects on the link of the commands that are no requests and no transfers. -/
inductive Quiets (s : State) : State → Prop
  | heard {t : State} (h : Heard s t) : Quiets s t
  | reset (pins : Straps) (cause : ResetCause) : Quiets s (resetPart pins cause s)
  | wrote (bytes : List Byte) : Quiets s (takeTransfer bytes (closeRead s))
  | readStarts : Quiets s (startRead (closeRead s))
  | readEnds (clocked : Nat) : Quiets s (endRead clocked s)
  | refused (r : Request) (rest : List Request) (c : ResultCode) (hdue : HeadDue r.kind r rest s) :
      Quiets s (answered r rest c [] s)
  | unread {t : State} (h : t.link = { s.link with reading := none }) : Quiets s t

theorem Event.quiets {s t : State} (h : Event s t) : Quiets s t := by
  cases h
  case idle => exact .heard (.same rfl)
  case heldBy cause draws => exact .unread rfl
  case reset pins cause => exact .reset pins cause
  case phase fault hpart => exact .heard (endPhase_told fault s).heard
  case wrote bytes => exact .wrote bytes
  case readStarts => exact .readStarts
  case readEnds clocked => exact .readEnds clocked
  case refused r rest c hdue => exact .refused r rest c hdue
  case pulse since => exact .heard (takePulse_heard since s)
  case relocked => exact .heard (.of (v := { s with
      sync := { s.sync with state := .locked, seeking := 0, slips := satInc 65535 s.sync.slips }
      clock := { s.clock with prolonged := true } }) rfl (raiseSync_told _))
  case lost => exact .heard (.of (v := { s with sync :=
      { s.sync with state := .lost, seeking := 0, losses := satInc 65535 s.sync.losses } }) rfl (raiseSync_told _))
  case marked kind => exact .heard (markPeriod_heard kind s)
  case carried net head => exact .heard (carryPeriod_heard net head s)
  case frame e quiet hruns hdue => exact .heard (takeFrame_heard e quiet s)
  case starved l =>
    exact .heard (Told.of ((settleDebt_voices l s).of debtRaises_kind)
      fun x hx => inRange_of_kind (n := 24) rfl ⟨hx.1 ▸ l.isLt, hx.2⟩).heard
  case diverged l hlive =>
    exact .heard (Told.of ((divergenceResetOf_voices l s).of (P := InRange) (by simp [InRange, Detail.subjects])) fun _ h => h).heard
  case expired h p r hat =>
    exact .heard (Told.of ((endPending_voices p .expired (waited r) s).of (P := fun x => x.1 < 16 ∧ x.2.kind = 0xC5)
      (by simp [Detail.kind])) fun _ => inRange_promptDone).heard
  all_goals exact .heard (.same rfl)

theorem DistinctIn.quiets {s t : State} (h : DistinctIn s.link.notices) (ht : Quiets s t) : DistinctIn t.link.notices := by
  cases ht with
  | heard ht => exact h.heard ht
  | reset pins cause =>
    rw [resetPart_notices]
    split
    · exact ⟨List.nodup_nil, by simp⟩
    · exact ⟨List.nodup_singleton _, by simp [Notice.inBounds, Detail.subjects]⟩
  | wrote bytes => exact (h.endRead 0).takeTransfer bytes
  | readStarts => exact h.endRead 0
  | readEnds clocked => exact h.endRead clocked
  | refused r rest c hdue => exact h
  | unread hl =>
    rw [hl]
    exact h

/-- R195: the raises behind a taken request are in their ranges. -/
theorem Taken.Sound.inRange {s : State} {t : Taken} (h : t.Sound s) : ∀ x ∈ t.raises, InRange x := by
  intro x hx
  rcases h.raises with hr | hr
  · rw [hr] at hx
    cases hx
  · rw [hr] at hx
    obtain rfl := List.mem_singleton.1 hx
    exact Nat.one_pos

theorem DistinctIn.row {k : Byte} {s t : State} (h : DistinctIn s.link.notices) (ht : RowDone k s t) :
    DistinctIn t.link.notices := by
  cases ht with
  | idle => exact h
  | refused r rest c hdue => exact h
  | taken r rest u hdue hu =>
    have hstate : DistinctIn u.state.link.notices := DistinctIn.served (s := dropRequest s) h hu.served
    exact DistinctIn.raiseAll hu.inRange (s := pushReply r u.result u.body u.state) hstate

/-- R199, R200: the keys a queue can hold. -/
def allKeys : List (Nat × Nat) := (List.range 11).flatMap (fun i => (List.range (kindSubjects (0xC0 + i))).map (fun j => (0xC0 + i, j)))

theorem key_mem_allKeys {n : Notice} (h : n.inBounds) : n.key ∈ allKeys := by
  obtain ⟨_, _, hsub⟩ := h
  rw [subjects_kind] at hsub
  have hkind : 0xC0 ≤ n.detail.kind ∧ n.detail.kind < 0xCB := by cases n.detail <;> simp [Detail.kind]
  refine List.mem_flatMap.2 ⟨n.detail.kind - 0xC0, List.mem_range.2 (by omega), List.mem_map.2 ⟨n.subject, ?_, ?_⟩⟩
  · rw [Nat.add_sub_cancel' hkind.1]
    exact List.mem_range.2 hsub
  · rw [Nat.add_sub_cancel' hkind.1]
    rfl

/-- R200: distinct keys in their ranges are at most 81. -/
theorem DistinctIn.length_le {ns : List Notice} (h : DistinctIn ns) : ns.length ≤ 81 := by
  have hsub : ns.map Notice.key ⊆ allKeys := fun x hx => by
    obtain ⟨n, hn, rfl⟩ := List.mem_map.1 hx
    exact key_mem_allKeys (h.2 n hn)
  have hlen := (List.subperm_of_subset h.1 hsub).length_le
  rw [List.length_map] at hlen
  exact hlen.trans (by decide)

/-- Settles O4: a raise keeps the queue's keys distinct, and every command moves the notices by raises, reorderings and reads. -/
theorem noticesStayDistinct : Obligations.NoticesStayDistinct := by
  unfold Obligations.NoticesStayDistinct
  refine ⟨step_keeps (fun s q h => h) (fun k s t h ht => ?_) (fun s t h ht => ?_), fun s h => ?_⟩
  · rw [noticesDistinct_iff] at h ⊢
    exact h.row ht
  · rw [noticesDistinct_iff] at h ⊢
    exact h.quiets ht.quiets
  · rw [noticesDistinct_iff] at h
    exact h.length_le

/-! ## The bounds of the queues and counts (R193, R194, R195) -/

/-- R193, R194: the bounds of a link. -/
def Link.bounded (k : Link) : Prop :=
  k.requests.length ≤ 4 ∧ k.replies.length ≤ 8 ∧ k.badCheck ≤ 65535 ∧ k.badLength ≤ 65535 ∧ k.short ≤ 65535 ∧
    k.overrun ≤ 65535

theorem satInc_le (top n : Nat) : satInc top n ≤ top := by
  unfold satInc
  split <;> omega

theorem Link.bounded.congr {k x : Link} (h : k.bounded) (hq : x.requests = k.requests ∧ x.replies = k.replies ∧
    x.badCheck = k.badCheck ∧ x.badLength = k.badLength ∧ x.short = k.short ∧ x.overrun = k.overrun) : x.bounded := by
  obtain ⟨h1, h2, h3, h4, h5, h6⟩ := hq
  unfold Link.bounded
  rw [h1, h2, h3, h4, h5, h6]
  exact h

theorem Link.bounded.raised {s : State} (h : s.link.bounded) (rs : List (Nat × Detail)) : (raiseAll rs s).link.bounded :=
  h.congr (raiseAll_queues rs s)

theorem Link.bounded.heard {s t : State} (h : s.link.bounded) (ht : Heard s t) : t.link.bounded := by
  obtain ⟨v, w, hv, ⟨_, rs, _, hw⟩, hl, _⟩ := ht
  rw [← hv] at h
  have hw' : w.link.bounded := by
    rw [hw]
    exact h.raised rs
  rw [hl]
  exact hw'

theorem Link.bounded.served {s t : State} (h : s.link.bounded) (ht : Served s t) : t.link.bounded := by
  rcases ht.told with ⟨_, rs, _, hl⟩ | hl
  · rw [hl]
    exact h.raised rs
  · obtain ⟨hreq, hrep, _⟩ := h
    rw [hl]
    exact ⟨hreq, hrep, Nat.zero_le _, Nat.zero_le _, Nat.zero_le _, Nat.zero_le _⟩

theorem Link.bounded.countShort {s : State} (h : s.link.bounded) : (countShort s).link.bounded := by
  obtain ⟨hreq, hrep, hcheck, hlength, hshort, hover⟩ := h
  exact ⟨hreq, hrep, hcheck, hlength, satInc_le _ _, hover⟩

theorem Link.bounded.endRead {s : State} (h : s.link.bounded) (clocked : Nat) : (endRead clocked s).link.bounded := by
  have hread : (s.setLink { s.link with reading := none }).link.bounded := h
  unfold Machine.endRead
  split
  · exact h
  · dsimp only
    split
    · exact h
    · split
      · obtain ⟨hreq, hrep, hcounts⟩ := h
        exact ⟨hreq, (List.length_tail (l := s.link.replies)).trans_le ((Nat.sub_le _ _).trans hrep), hcounts⟩
      · exact hread.countShort
    · split
      · exact h
      · exact hread.countShort

theorem Link.bounded.pushReply {s : State} (h : s.link.bounded) (r : Request) (c : ResultCode) (b : List Byte)
    (hroom : s.link.replies.length < 8) : (pushReply r c b s).link.bounded := by
  obtain ⟨hreq, hrep, hcounts⟩ := h
  exact ⟨hreq, by simpa using hroom, hcounts⟩

theorem Link.bounded.takeTransfer {s : State} (h : s.link.bounded) (bytes : List Byte) :
    (takeTransfer bytes s).link.bounded := by
  have ⟨hreq, hrep, hcheck, hlength, hshort, hover⟩ := h
  unfold Machine.takeTransfer
  split
  · exact h
  · next lead rest =>
    split
    · unfold takeWrite
      split
      · exact h.countShort
      · exact ⟨hreq, hrep, hcheck, satInc_le _ _, hshort, hover⟩
      · exact ⟨hreq, hrep, satInc_le _ _, hlength, hshort, hover⟩
      · unfold offerRequest
        split
        · next hroom => exact ⟨by simpa using hroom, hrep, hcheck, hlength, hshort, hover⟩
        · split
          · next hroom => exact h.pushReply _ _ _ hroom
          · exact ⟨hreq, hrep, hcheck, hlength, hshort, satInc_le _ _⟩
    · split
      · exact Link.bounded.endRead (s := startRead s) h rest.length
      · exact h

theorem Link.bounded.answered {k : Byte} {s : State} (h : s.link.bounded) {r : Request} {rest : List Request}
    (hdue : HeadDue k r rest s) (c : ResultCode) (b : List Byte) : (answered r rest c b s).link.bounded := by
  obtain ⟨hreq, hrep, hcounts⟩ := h
  obtain ⟨_, hqueue, _, hroom⟩ := hdue
  rw [hqueue, List.length_cons] at hreq
  exact ⟨Nat.le_of_succ_le hreq, by simpa [Machine.answered] using hroom, hcounts⟩

/-- R203: the link right after a reset holds no request, no reply and no error. -/
theorem resetPart_link (pins : Straps) (cause : ResetCause) (s : State) :
    (resetPart pins cause s).link = { blankLink with notices := (resetPart pins cause s).link.notices } := by
  unfold resetPart
  dsimp only
  split
  · rfl
  · unfold enterStandby
    dsimp only
    split
    · rw [startScan_eq]
      rfl
    · rfl

theorem Link.bounded.quiets {s t : State} (h : s.link.bounded) (ht : Quiets s t) : t.link.bounded := by
  cases ht with
  | heard ht => exact h.heard ht
  | reset pins cause =>
    rw [resetPart_link]
    exact ⟨Nat.zero_le _, Nat.zero_le _, Nat.zero_le _, Nat.zero_le _, Nat.zero_le _, Nat.zero_le _⟩
  | wrote bytes => exact (h.endRead 0).takeTransfer bytes
  | readStarts => exact h.endRead 0
  | readEnds clocked => exact h.endRead clocked
  | refused r rest c hdue => exact h.answered hdue c []
  | unread hl =>
    rw [hl]
    exact h

theorem Link.bounded.row {k : Byte} {s t : State} (h : s.link.bounded) (ht : RowDone k s t) : t.link.bounded := by
  cases ht with
  | idle => exact h
  | refused r rest c hdue => exact h.answered hdue c []
  | taken r rest u hdue hu =>
    obtain ⟨_, hqueue, _, hroom⟩ := hdue
    have hdrop : (dropRequest s).link.bounded := by
      obtain ⟨hreq, hcounts⟩ := h
      refine ⟨?_, hcounts⟩
      rw [hqueue, List.length_cons] at hreq
      simp only [dropRequest_eq, State.setLink_link, hqueue, List.tail_cons]
      omega
    have hreplies : u.state.link.replies = s.link.replies := hu.served.queues.2
    exact ((hdrop.served hu.served).pushReply r u.result u.body (hreplies ▸ hroom)).raised _

/-- Settles O3: each command adds to a queue only where it has room, and the counts saturate. -/
theorem linkStaysBounded : Obligations.LinkStaysBounded := by
  unfold Obligations.LinkStaysBounded
  exact step_keeps (Inv := LinkBounded) (fun s q h => h) (fun k s t h ht => Link.bounded.row (s := s) h ht)
    (fun s t h ht => Link.bounded.quiets (s := s) h ht.quiets)

end Sys2Proof.Machine
end

section
/-! PROOF. Reset, self-test and the transfers of the control link (R191 to R205, R211). -/

namespace Sys2Proof.Machine

/-! ## Reset (R203, R211) -/

/-- R203: a reset looks at the waiting commands and the draws alone. -/
theorem resetPart_congr {s t : State} (pins : Straps) (cause : ResetCause) (hp : s.pending = t.pending)
    (hd : s.draws = t.draws) : resetPart pins cause s = resetPart pins cause t := by
  simp only [resetPart, hp, hd]

theorem resetPart_test (pins : Straps) (cause : ResetCause) (s : State) (h : pins.test = true) :
    resetPart pins cause s =
      { blankState pins cause with pending := s.pending, draws := s.draws, part := .selftest, progress := 1 } := by
  simp [resetPart, h]

/-- R203, R205: the reset of a part that is to enter STANDBY. -/
theorem resetPart_standby (pins : Straps) (cause : ResetCause) (s : State) (h : pins.test = false) :
    resetPart pins cause s = enterStandby { blankState pins cause with pending := s.pending, draws := s.draws } := by
  simp [resetPart, h]

/-- R205: the part in STANDBY with PART_STATE raised and the frame clock started. -/
def standing (s : State) : State :=
  { s with
    part := .standby, progress := 0, clock := startClock
    link := (raise 0 (.partState .standby 0 (.reset s.cause)) s).link }

theorem enterStandby_eq (s : State) :
    enterStandby s = if s.straps.scan then startScan (standing s) else standing s := rfl

theorem enterStandby_idle {s : State} (h : s.straps.scan = false) : enterStandby s = standing s := by
  simp [enterStandby_eq, h]

theorem enterStandby_scan {s : State} (h : s.straps.scan = true) : enterStandby s = startScan (standing s) := by
  simp [enterStandby_eq, h]

/-- R211: a RESET request with an empty body. -/
theorem exec_reset_empty {s : State} {r : Request} {rest : List Request} (pins : Straps) (hhold : s.hold = none)
    (hqueue : s.link.requests = r :: rest) (hkind : r.kind = 0x05#8) (hbody : r.body = []) :
    exec (.reset pins) s = .next (resetPart pins .request s) := by
  show Host.Outcome.next _ = _
  simp only [hqueue]
  rw [if_pos ⟨hhold, hkind, hbody⟩]

theorem resetPart_cause (pins : Straps) (cause : ResetCause) (s : State) : (resetPart pins cause s).cause = cause := by
  cases h : pins.test
  · rw [resetPart_standby pins cause s h, enterStandby_eq]
    split
    · rw [startScan_eq]
      rfl
    · rfl
  · rw [resetPart_test pins cause s h]
    rfl

/-- Settles O11: the two forms of the request, by its body. -/
theorem resetRequestResetsAtOnce : Obligations.ResetRequestResetsAtOnce := by
  unfold Obligations.ResetRequestResetsAtOnce
  refine ⟨fun s r rest pins hhold hqueue hkind hbody => ?_, fun s r rest pins hdue hbody => ?_⟩
  · have hrelease : exec (.resetRelease pins) { s with hold := some .request } =
        .next (resetPart pins .request { s with hold := some .request }) := rfl
    have hsame := resetPart_congr (s := { s with hold := some .request }) (t := s) pins .request rfl rfl
    refine ⟨_, exec_reset_empty pins hhold hqueue hkind hbody, by rw [hrelease, hsame], resetPart_cause pins .request s, ?_, ?_⟩
    · rw [resetPart_link]
      rfl
    · rw [resetPart_link]
      rfl
  · have hfits : bodyFits r.kind.toNat r.body = some false := by
      rw [hdue.2.2.1]
      cases hb : r.body with
      | nil => exact absurd hb hbody
      | cons b bs => rfl
    have hexec : exec (.reset pins) s = .next (executeHead 0x05#8 resetEntry s) := by
      show Host.Outcome.next _ = _
      simp only [hdue.2.1]
      rw [if_neg fun h => hbody h.2.2]
    rw [hexec, executeHead_due hdue, answer_badLength hfits, settleAnswer_error hdue.2.1]

theorem indexCount_eq (ix : Vector (List IndexEntry) 128) : indexCount ix = (ix.toList.map List.length).sum := by
  have h : ∀ (l : List (List IndexEntry)) (n : Nat), l.foldl (fun n b => n + b.length) n = n + (l.map List.length).sum := by
    intro l
    induction l with
    | nil => simp
    | cons b l ih => intro n; rw [List.foldl_cons, ih, List.map_cons, List.sum_cons, Nat.add_assoc]
  rw [indexCount, h, Nat.zero_add]

theorem keepEntries_empty (keep : IndexEntry → Bool) :
    keepEntries keep (Vector.replicate 128 []) = Vector.replicate 128 [] := by
  ext1 i hi
  have h : (keepEntries keep (Vector.replicate 128 []))[(⟨i, hi⟩ : Fin 128)] = [] := by
    rw [keepEntries, vmap_get]
    simp
  rw [Vector.getElem_replicate]
  exact h

theorem indexCount_empty : indexCount (Vector.replicate 128 []) = 0 := by
  rw [indexCount_eq]
  simp

/-- R203, R205: a reset leaves the blank state but for the part state, PART_STATE and the scan, as the straps have them. -/
theorem resetPart_blank (pins : Straps) (cause : ResetCause) (s : State) :
    ∃ (part : PartState) (progress : Nat) (ns : List Notice) (scan : Scan) (fetch : List FetchItem),
      resetPart pins cause s = { blankState pins cause with
        pending := s.pending, draws := s.draws, part := part, progress := progress
        link := { blankLink with notices := ns }, scan := scan, fetch := fetch } ∧
      (scan.area = 0 ∧ scan.chunk = 0 ∧ scan.counts = blankCounts ∧ scan.outstanding = scan.running) ∧
      (if pins.test then part = .selftest ∧ progress = 1 ∧ ns = [] ∧ scan.running = false ∧ fetch = []
      else part = .standby ∧ progress = 0 ∧
        ns = [{ subject := 0, count := 1, stamp := 0, detail := .partState .standby 0 (.reset cause) }] ∧
        scan.running = pins.scan ∧ fetch = if pins.scan then [chunkItem 0 0] else []) := by
  cases htest : pins.test
  · cases hscan : pins.scan
    · refine ⟨.standby, 0, [{ subject := 0, count := 1, stamp := 0, detail := .partState .standby 0 (.reset cause) }], blankScan,
        [], ?_, ⟨rfl, rfl, rfl, rfl⟩, ⟨rfl, rfl, rfl, rfl, rfl⟩⟩
      rw [resetPart_standby pins cause s htest, enterStandby_idle (by exact hscan)]
      rfl
    · refine ⟨.standby, 0, [{ subject := 0, count := 1, stamp := 0, detail := .partState .standby 0 (.reset cause) }],
        { running := true, area := 0, chunk := 0, outstanding := true, counts := blankCounts }, [chunkItem 0 0], ?_,
        ⟨rfl, rfl, rfl, rfl⟩, ⟨rfl, rfl, rfl, rfl, rfl⟩⟩
      have hindex : keepEntries (fun e => e.origin != Origin.catalogue) (blankState pins cause).index =
          (blankState pins cause).index := keepEntries_empty _
      rw [resetPart_standby pins cause s htest, enterStandby_scan (by exact hscan), startScan_eq]
      show ({ standing _ with
        index := keepEntries (fun e => e.origin != Origin.catalogue) (blankState pins cause).index
        scan := _, fetch := _ } : State) = _
      rw [hindex]
      rfl
  · exact ⟨.selftest, 1, [], blankScan, [], resetPart_test pins cause s htest, ⟨rfl, rfl, rfl, rfl⟩, ⟨rfl, rfl, rfl, rfl, rfl⟩⟩

theorem blankArea_at (a : AreaNo) :
    (#v[blankArea true, blankArea false, blankArea false, blankArea false] : Vector Area 4)[a] = blankArea (a == 0) := by
  revert a
  decide

/-- Settles O10: the values of blankState, with the part state and the scan by the two straps. -/
theorem releaseRestoresEveryBlock : Obligations.ReleaseRestoresEveryBlock := by
  unfold Obligations.ReleaseRestoresEveryBlock
  intro s pins cause hhold
  have hexec : exec (.resetRelease pins) s = .next (resetPart pins cause s) := by
    show Host.Outcome.next _ = _
    simp only [hhold]
  obtain ⟨part, progress, ns, scan, fetch, ht, ⟨harea, hchunk, hcounts, hout⟩, hstraps⟩ := resetPart_blank pins cause s
  rw [ht] at hexec
  refine ⟨_, hexec, rfl, rfl, rfl, rfl, rfl, rfl, rfl, rfl, rfl, rfl, rfl, rfl, rfl, rfl, rfl, ?_, ?_, ?_, rfl, rfl, rfl, ?_, rfl,
    rfl, blankArea_at, indexCount_empty, rfl, rfl, rfl, ?_, harea, hchunk, hcounts, hout, hstraps⟩
  · exact fun l => by simp [State.leg, blankState]
  · exact fun p => by simp [State.pos, blankState]
  · exact fun g => by simp [State.members, blankState]
  · exact fun m => by simp [State.src, blankState]
  · exact fun c => by cases c <;> rfl

/-! ## Self-test (R204, R205) -/

/-- Settles O12: the branches of endPhase; STANDBY is entered as after a reset. -/
theorem selfTestRunsItsPhases : Obligations.SelfTestRunsItsPhases := by
  unfold Obligations.SelfTestRunsItsPhases
  intro s hhold hpart
  have hexec : ∀ fault, exec (.selftestPhaseEnd fault) s = .next (endPhase fault s) := fun fault => by
    show Host.Outcome.next _ = _
    rw [if_pos ⟨hhold, hpart⟩]
  refine ⟨fun hprogress => ?_, fun hprogress => ?_, fun hempty => ?_, ?_⟩
  · rw [hexec]
    simp [endPhase, hprogress]
  · have hend : endPhase false s = enterStandby s := by simp [endPhase, hprogress]
    refine ⟨_, hexec false, ?_⟩
    rw [hend]
    cases hscan : s.straps.scan
    · rw [enterStandby_idle hscan]
      exact ⟨rfl, rfl, rfl, rfl, fun _ => ⟨rfl, rfl, rfl⟩, nofun, rfl⟩
    · rw [enterStandby_scan hscan, startScan_eq]
      refine ⟨rfl, rfl, rfl, rfl, nofun, fun _ => ⟨rfl, fun a ha => ?_, fun hnone => ?_⟩, rfl⟩
      · have hnext : nextArea (standing s).areas 0 = some a := ha
        simp only [hnext]
        exact ⟨rfl, rfl⟩
      · have hnext : nextArea (standing s).areas 0 = none := hnone
        simp only [hnext]
        exact ⟨rfl, rfl⟩
  · obtain ⟨hnotices, hreading⟩ := hempty
    simp [raise_eq, hnotices, hreading, raiseIn]
  · rw [hexec]
    rfl

/-! ## Write transfers (R191 to R194) -/

theorem closeRead_idle {s : State} (h : s.link.reading = none) : closeRead s = s := by simp only [closeRead, endRead, h]

theorem exec_writeTransfer {s : State} (bytes : List Byte) (hhold : s.hold = none) :
    exec (.writeTransfer bytes) s = .next (takeTransfer bytes (closeRead s)) := by
  show Host.Outcome.next _ = _
  rw [if_pos hhold]

/-- R193, R194: a write transfer that finds no read in progress. -/
theorem exec_write {s : State} (rest : List Byte) (hhold : s.hold = none) (hread : s.link.reading = none) :
    exec (.writeTransfer (0xA5#8 :: rest)) s = .next (takeWrite rest s) := by
  rw [exec_writeTransfer _ hhold, closeRead_idle hread]
  rfl

theorem crcBytes_length (bs : List Byte) : (crcBytes bs).length = 2 := rfl

theorem toNat_lengthByte {n : Nat} (h : n < 256) : (BitVec.ofNat 8 n).toNat = n := by
  rw [BitVec.toNat_ofNat]
  exact Nat.mod_eq_of_lt h

/-- R192, R193: a length byte in range with all its bytes behind it: core, check, and what follows. -/
theorem parseWrite_full {len : Byte} {core check extra : List Byte} (hlen : len.toNat = core.length + 2)
    (hlow : 2 ≤ core.length) (hhigh : core.length ≤ 250) (hcheck : check.length = 2) :
    parseWrite (len :: (core ++ (check ++ extra))) =
      if crcBytes (len :: core) = check then
        .whole { kind := core.getD 0 0, tag := core.getD 1 0, body := core.drop 2 }
      else .badCheck := by
  have hrange : ¬ (len.toNat < 4 ∨ 252 < len.toNat) := by omega
  have hlong : ¬ (core ++ (check ++ extra)).length < len.toNat := by simp; omega
  have hcore : len.toNat - 2 = core.length := by omega
  simp only [parseWrite, if_neg hrange, if_neg hlong, hcore, List.take_left, List.drop_left]
  rw [← hcheck, List.take_left]

/-- R192: a whole frame is read back, whatever follows it. -/
theorem parseWrite_frame (kind tag : Byte) (body extra : List Byte) (h : body.length ≤ 248) :
    parseWrite ((frameBytes 0xA5#8 kind tag body).tail ++ extra) = .whole { kind := kind, tag := tag, body := body } := by
  have hlen : (BitVec.ofNat 8 (body.length + 4)).toNat = (kind :: tag :: body).length + 2 := by
    rw [toNat_lengthByte (by omega)]
    rfl
  have hparse := parseWrite_full (extra := extra) (check := crcBytes (BitVec.ofNat 8 (body.length + 4) :: kind :: tag :: body))
    hlen (by simp) (by simp; omega) (crcBytes_length _)
  rw [if_pos rfl] at hparse
  have hbytes : (frameBytes 0xA5#8 kind tag body).tail ++ extra = BitVec.ofNat 8 (body.length + 4) ::
      ((kind :: tag :: body) ++ (crcBytes (BitVec.ofNat 8 (body.length + 4) :: kind :: tag :: body) ++ extra)) := by
    simp [frameBytes]
  rw [hbytes, hparse]
  rfl

/-- Settles O13: the frame is read back whole, and offered to the queue. -/
theorem wholeFrameIsOffered : Obligations.WholeFrameIsOffered := by
  unfold Obligations.WholeFrameIsOffered
  intro s r extra hhold hread hbody
  have hframe : frameBytes 0xA5#8 r.kind r.tag r.body ++ extra =
      0xA5#8 :: ((frameBytes 0xA5#8 r.kind r.tag r.body).tail ++ extra) := rfl
  rw [hframe, exec_write _ hhold hread]
  simp only [takeWrite, parseWrite_frame r.kind r.tag r.body extra hbody, offerRequest]
  rfl

/-- Settles O14: the three ways in which parseWrite finds a frame broken, and a first byte that selects no transfer. -/
theorem brokenFrameIsCounted : Obligations.BrokenFrameIsCounted := by
  unfold Obligations.BrokenFrameIsCounted
  intro s hhold hread
  refine ⟨?_, fun len rest hlen => ?_, fun len rest hlow hhigh hshort => ?_, fun core hi lo extra hlow hhigh hcheck => ?_,
    fun lead rest hwrite hreadLead => ?_⟩
  · rw [exec_write _ hhold hread]
    rfl
  · rw [exec_write _ hhold hread]
    simp only [takeWrite, parseWrite, if_pos hlen]
    rfl
  · have hrange : ¬ (len.toNat < 4 ∨ 252 < len.toNat) := by omega
    rw [exec_write _ hhold hread]
    simp only [takeWrite, parseWrite, if_neg hrange, if_pos hshort]
    rfl
  · have hlen : (BitVec.ofNat 8 (core.length + 2)).toNat = core.length + 2 := toNat_lengthByte (by omega)
    have hparse := parseWrite_full (check := [hi, lo]) (extra := extra) hlen hlow hhigh rfl
    rw [if_neg (by exact hcheck)] at hparse
    have hbytes : BitVec.ofNat 8 (core.length + 2) :: core ++ hi :: lo :: extra =
        BitVec.ofNat 8 (core.length + 2) :: (core ++ ([hi, lo] ++ extra)) := rfl
    rw [List.cons_append, hbytes, exec_write _ hhold hread]
    simp only [takeWrite, hparse]
    rfl
  · rw [exec_writeTransfer _ hhold, closeRead_idle hread]
    simp only [takeTransfer, if_neg hwrite, if_neg hreadLead]

/-! ## Read transfers (R191, R197, R198, R201) -/

theorem exec_readTransfer {s : State} (hhold : s.hold = none) :
    exec .readTransfer s = .next (startRead (closeRead s)) := by
  show Host.Outcome.next _ = _
  rw [if_pos hhold]

theorem exec_readTransferEnd {s : State} (clocked : Nat) (hhold : s.hold = none) :
    exec (.readTransferEnd clocked) s = .next (endRead clocked s) := by
  show Host.Outcome.next _ = _
  rw [if_pos hhold]

theorem startRead_hold (s : State) : (startRead s).hold = s.hold := rfl

theorem endRead_hold (clocked : Nat) (s : State) : (endRead clocked s).hold = s.hold := by
  unfold endRead
  split
  · rfl
  · dsimp only
    split
    · rfl
    · split <;> rfl
    · split <;> rfl

theorem endRead_reading (clocked : Nat) (s : State) : (endRead clocked s).link.reading = none := by
  unfold endRead
  split
  · next h => exact h
  · dsimp only
    split
    · rfl
    · split <;> rfl
    · split <;> rfl

/-- R191: the lead 0x5A is a read transfer that clocks the bytes after it. -/
theorem exec_writeTransfer_read {s : State} (rest : List Byte) (hhold : s.hold = none) :
    exec (.writeTransfer (0x5A#8 :: rest)) s = .next (endRead rest.length (startRead (closeRead s))) := by
  rw [exec_writeTransfer _ hhold]
  rfl

/-- Settles O15: the branches of startRead and endRead, and what the transfers make of them. -/
theorem readTransfersSendAndEnd : Obligations.ReadTransfersSendAndEnd := by
  unfold Obligations.ReadTransfersSendAndEnd
  refine ⟨fun s hhold => ⟨fun hread x xs hreplies => ?_, fun hread n ns hreplies hnotices => ?_,
    fun hread hreplies hnotices => ?_, fun x clocked hread => ⟨fun hwhat hcut => ?_, fun hwhat hwhole => ?_,
      fun hwhat hwhole hraises => ?_, fun n ns hnotices hwhat hwhole hraises => ?_, fun hwhat => ?_⟩⟩,
    fun s k => ⟨fun x hhold hread => ?_, fun h => ?_⟩, fun s rest hhold => ?_, fun s lead rest hlead => ?_,
    fun s x bytes hhold hread => ?_, fun s => ?_⟩
  · rw [exec_readTransfer hhold, closeRead_idle hread]
    simp only [startRead, hreplies]
  · rw [exec_readTransfer hhold, closeRead_idle hread]
    simp only [startRead, hreplies, hnotices]
  · rw [exec_readTransfer hhold, closeRead_idle hread]
    simp only [startRead, hreplies, hnotices]
    rfl
  · rw [exec_readTransferEnd clocked hhold]
    have hlong : ¬ x.bytes.length ≤ clocked := Nat.not_le.2 hcut
    cases hkind : x.what
    · simp only [endRead, hread, hkind, if_neg hlong]
      rfl
    · simp only [endRead, hread, hkind, if_neg hlong]
      rfl
    · exact absurd hkind hwhat
  · rw [exec_readTransferEnd clocked hhold]
    simp only [endRead, hread, hwhat, if_pos hwhole]
    rfl
  · rw [exec_readTransferEnd clocked hhold]
    simp only [endRead, hread, hwhat, if_pos hwhole, hraises]
    cases hnotices : s.link.notices <;> simp [noticeRead, State.setLink]
  · rw [exec_readTransferEnd clocked hhold]
    have hne : x.raises ≠ 0 := Nat.ne_of_gt hraises
    simp [endRead, hread, hwhat, hwhole, noticeRead, hnotices, hne, State.setLink]
  · rw [exec_readTransferEnd clocked hhold]
    simp only [endRead, hread, hwhat]
  · simp only [State.ldo, hhold, hread]
    rfl
  · cases hhold : s.hold with
    | some c => simp only [State.ldo, hhold]
    | none =>
      have hread := h.resolve_left (not_not.2 hhold)
      simp only [State.ldo, hhold, hread]
  · refine ⟨_, _, exec_readTransfer hhold, exec_readTransferEnd _ ?_, exec_writeTransfer_read rest hhold, rfl⟩
    exact (startRead_hold _).trans ((endRead_hold 0 s).trans hhold)
  · simp only [transferOut, if_neg hlead]
    rfl
  · have hclosed : (endRead 0 s).hold = none := (endRead_hold 0 s).trans hhold
    refine ⟨_, exec_readTransferEnd 0 hhold, endRead_reading 0 s, ?_, ?_⟩
    · rw [exec_readTransfer hhold, exec_readTransfer hclosed, closeRead_idle (endRead_reading 0 s)]
      rfl
    · rw [exec_writeTransfer bytes hhold, exec_writeTransfer bytes hclosed, closeRead_idle (endRead_reading 0 s)]
      rfl
  · cases hhold : s.hold <;> cases hreplies : s.link.replies <;> cases hnotices : s.link.notices <;>
      simp [State.attn, hhold, hreplies, hnotices]

end Sys2Proof.Machine
end

section
/-! PROOF. The fields of a request's body read one behind another (R213), and the requests of the connection tables that only join
a pending list: LEG_CLOSE and the ROUTING requests (R17 to R26, R78, R80), SUPERVISE (R24), and SEND_GAIN (R29). -/

namespace Sys2Proof.Machine

/-! ## Fields one behind another (R213) -/

theorem byteAt_u8_append_succ (n : Nat) (b : List Byte) (i : Nat) : byteAt (u8 n ++ b) (i + 1) = byteAt b i := rfl

theorem byteAt_u16_append_succ (n : Nat) (b : List Byte) (i : Nat) : byteAt (u16 n ++ b) (i + 2) = byteAt b i := rfl

theorem byteAt_u32_append_succ (n : Nat) (b : List Byte) (i : Nat) : byteAt (u32 n ++ b) (i + 4) = byteAt b i := rfl

theorem wordAt_u8_append_succ (n : Nat) (b : List Byte) (i : Nat) : wordAt (u8 n ++ b) (i + 1) = wordAt b i := rfl

theorem wordAt_u16_append_succ (n : Nat) (b : List Byte) (i : Nat) : wordAt (u16 n ++ b) (i + 2) = wordAt b i := rfl

theorem wordAt_u16 {n : Nat} (hn : n < 65536) : wordAt (u16 n) 0 = n := by
  simpa using wordAt_u16_append_zero hn []

theorem objectAt_ok {n : Nat} {b : List Byte} {i : Nat} {k : Fin n} (h : byteAt b i = k.val) : objectAt n b i = .ok k := by
  simp [objectAt, h, object]

theorem byteAt_flag_append_zero (on : Bool) (b : List Byte) : byteAt (flag on ++ b) 0 = if on then 1 else 0 := by
  cases on <;> rfl

theorem byteAt_flag_append_succ (on : Bool) (b : List Byte) (i : Nat) : byteAt (flag on ++ b) (i + 1) = byteAt b i := rfl

theorem byteAt_flag (on : Bool) : byteAt (flag on) 0 = if on then 1 else 0 := by cases on <;> rfl

theorem onOff_flag (on : Bool) : onOff (if on then 1 else 0) = some on := by cases on <;> rfl

@[simp] theorem u8_length (n : Nat) : (u8 n).length = 1 := rfl
@[simp] theorem u16_length (n : Nat) : (u16 n).length = 2 := rfl
@[simp] theorem u32_length (n : Nat) : (u32 n).length = 4 := rfl
@[simp] theorem flag_length (on : Bool) : (flag on).length = 1 := rfl
@[simp] theorem i16_length (x : Int) : (i16 x).length = 2 := rfl

theorem memberAt_leg {s : State} {b : List Byte} {i : Nat} {l : Leg} (hkind : byteAt b i = 0) (hnum : byteAt b (i + 1) = l.val) :
    memberAt s b i = .ok (.leg l) := by
  simp only [memberAt, hkind, objectAt_ok hnum]
  rfl

theorem memberAt_pos {s : State} {b : List Byte} {i : Nat} {p : Position} (hkind : byteAt b i = 1)
    (hnum : byteAt b (i + 1) = p.val) (hp : p.val < activeCount s.straps) : memberAt s b i = .ok (.pos p) := by
  simp only [memberAt, hkind, hnum, activePosition_ok hp]
  rfl

/-! ## Joining a list (R15, R163) -/

theorem stagedRouting_eq (r : Request) (rest : List Request) (op : ChangeOp) (fields : List Byte) (s : State)
    (h : op.cls = .routing) :
    stagedRouting r rest op fields s =
      answered r rest .ok (u8 (s.routing.list.length + 1) ++ fields) (joinList op r.tag s) := by
  rw [joinList, h]
  rfl

theorem stageChange_joins {r : Request} {op : ChangeOp} {fields : State → List Byte} {s : State} (x : Link)
    (hroom : (s.stage op.cls).list.length < 16) (hfields : ∀ u : State, fields (u.setLink x) = fields u) :
    stageChange r op fields (s.setLink x) =
      .ok { body := u8 ((s.stage op.cls).list.length + 1) ++ fields (joinList op r.tag s),
            state := (joinList op r.tag s).setLink x } := by
  rw [stageChange_room (by simpa using hroom), ← hfields (joinList op r.tag s)]
  cases h : op.cls <;> simp only [joinList, h] <;> rfl

theorem joinList_link (op : ChangeOp) (tag : Byte) (s : State) : (joinList op tag s).link = s.link := by
  cases h : op.cls <;> simp only [joinList, h] <;> rfl

section
variable {c : Instr} {k : Byte} {r : Request} {rest : List Request} {s : State} {op : ChangeOp} {fields : State → List Byte}
  {entry : Request → State → Except ResultCode Taken}

/-- R163: a request row whose checks have passed, so that its entry is the staging of a change. -/
theorem row_staged (hexec : ∀ s, exec c s = .next (executeHead k entry s)) (hdue : HeadDue k r rest s)
    (hfit : bodyFits k.toNat r.body = some true) (hpart : s.part = .running) (hroom : (s.stage op.cls).list.length < 16)
    (hfields : ∀ (u : State) (x : Link), fields (u.setLink x) = fields u)
    (he : ∀ x : Link, entry r (s.setLink x) = stageChange r op fields (s.setLink x)) :
    exec c s = .next (answered r rest .ok (u8 ((s.stage op.cls).list.length + 1) ++ fields (joinList op r.tag s))
      (joinList op r.tag s)) :=
  row_accepted hexec hdue hfit (.inl (.inr hpart)) (joinList_link op r.tag s)
    fun x => (he x).trans (stageChange_joins x hroom fun u => hfields u x)

/-- R163: the same for a ROUTING change whose reply carries fixed fields. -/
theorem row_stagedRouting {more : List Byte} (hexec : ∀ s, exec c s = .next (executeHead k entry s)) (hdue : HeadDue k r rest s)
    (hfit : bodyFits k.toNat r.body = some true) (hpart : s.part = .running) (hcls : op.cls = .routing)
    (hroom : s.routing.list.length < 16)
    (he : ∀ x : Link, entry r (s.setLink x) = stageChange r op (fun _ => more) (s.setLink x)) :
    exec c s = .next (stagedRouting r rest op more s) := by
  rw [stagedRouting_eq r rest op more s hcls,
    row_staged hexec hdue hfit hpart (by rw [hcls]; exact hroom) (fun _ _ => rfl) he, hcls]
  rfl

end

/-! ## LEG_CLOSE (R17) -/

theorem live_of_ne_closed {r : LegRec} (h : r.state ≠ .closed) : r.live = true := by simpa [LegRec.live] using h

/-- Settles O24: the projected state and the room in the ROUTING list decide between the three outcomes. -/
theorem legCloseJoinsAndMarks : Obligations.LegCloseJoinsAndMarks := by
  unfold Obligations.LegCloseJoinsAndMarks
  intro s r rest l hdue hpart hbody
  have hleg : objectAt 24 r.body 0 = .ok l := hbody ▸ objectAt_u8 (by decide) l
  have hfit : bodyFits (0x11#8).toNat r.body = some true := by rw [hbody]; rfl
  refine ⟨fun hclosed => ?_, fun hlive hfull => ?_, fun hlive hroom => ?_⟩
  · refine row_refused (entry := legCloseEntry) (fun _ => rfl) hdue hfit (.inl (.inr hpart)) fun x => ?_
    simp [legCloseEntry, whenRunning, hpart, hleg, require, hclosed, bind, Except.bind]
  · refine row_refused (entry := legCloseEntry) (fun _ => rfl) hdue hfit (.inl (.inr hpart)) fun x => ?_
    have hstage : stageChange r (.legClose l) (fun _ => []) (s.setLink x) = .error .full := stageChange_full hfull
    simp [legCloseEntry, whenRunning, hpart, hleg, require, hlive, bind, Except.bind, hstage]
  · refine row_accepted (entry := legCloseEntry) (fun _ => rfl) hdue hfit (.inl (.inr hpart)) rfl fun x => ?_
    have hstage := stageChange_joins (r := r) (op := .legClose l) (fields := fun _ => []) (s := s) x hroom fun _ => rfl
    have hpart' : (s.setLink x).part = .running := hpart
    have hlive' : ((projected (s.setLink x)).leg l).state ≠ .closed := by simpa using hlive
    simp only [legCloseEntry, whenRunning, hleg, bind, Except.bind, hstage, require_eq_ok hpart', require_eq_ok hlive']
    rfl

/-! ## The ROUTING requests (R19 to R26, R78, R80) -/

theorem asSupervisor_none {s : State} {p : Position} (h : ∀ k ∈ s.supervision, k.supervisor ≠ p) : asSupervisor s p = none := by
  simpa [asSupervisor] using h

theorem asSupervisor_isSome {s : State} {p : Position} (h : ∃ k ∈ s.supervision, k.supervisor = p) :
    (asSupervisor s p).isSome = true := by
  simpa [asSupervisor] using h

@[simp] theorem asSupervisor_setLink (s : State) (x : Link) (p : Position) : asSupervisor (s.setLink x) p = asSupervisor s p := rfl

@[simp] theorem asAgent_setLink (s : State) (x : Link) (p : Position) : asAgent (s.setLink x) p = asAgent s p := rfl

section
variable {r : Request} {s : State}

theorem groupAddEntry_passed {g : Group} {m : Member} (hpart : s.part = .running) (hgroup : objectAt 16 r.body 0 = .ok g)
    (hmember : memberAt s r.body 1 = .ok m) (hin : memberInService (projected s) m = true)
    (hfree : memberGroup (projected s) m = none ∧ memberSupervises (projected s) m = false)
    (hlen : ((projected s).members g).length < 6) :
    groupAddEntry r s = stageChange r (.groupAdd g m) (fun _ => []) s := by
  simp only [groupAddEntry, whenRunning, bind, Except.bind, require_eq_ok hpart, hgroup, hmember, require_eq_ok hin,
    require_eq_ok hfree, require_eq_ok hlen]

theorem groupRemoveEntry_passed {g : Group} {m : Member} (hpart : s.part = .running) (hgroup : objectAt 16 r.body 0 = .ok g)
    (hmember : memberAt s r.body 1 = .ok m) (hin : memberGroup (projected s) m = some g) :
    groupRemoveEntry r s = stageChange r (.groupRemove g m) (fun _ => []) s := by
  simp only [groupRemoveEntry, whenRunning, bind, Except.bind, require_eq_ok hpart, hgroup, hmember, require_eq_ok hin]

theorem muteEntry_passed {p : Position} {on : Bool} (hpart : s.part = .running) (hon : onOff (byteAt r.body 1) = some on)
    (hpos : activePosition s (byteAt r.body 0) = .ok p) :
    muteEntry r s = stageChange r (.mute p on) (fun _ => []) s := by
  simp only [muteEntry, whenRunning, bind, Except.bind, require_eq_ok hpart, hon, need_some, hpos]

theorem unsuperviseEntry_passed {p : Position} (hpart : s.part = .running) (hpos : activePosition s (byteAt r.body 0) = .ok p)
    (hsup : (asSupervisor (projected s) p).isSome = true) :
    unsuperviseEntry r s = stageChange r (.unsupervise p) (fun _ => []) s := by
  simp only [unsuperviseEntry, whenRunning, bind, Except.bind, require_eq_ok hpart, hpos, require_eq_ok hsup]

theorem holdEntry_passed {l : Leg} {m : Source} (hpart : s.part = .running) (hleg : objectAt 24 r.body 0 = .ok l)
    (hsource : objectAt 4 r.body 1 = .ok m) (hlive : ((projected s).leg l).state ≠ .closed) :
    holdEntry r s = stageChange r (.hold l m) (fun _ => []) s := by
  simp only [holdEntry, whenRunning, bind, Except.bind, require_eq_ok hpart, hleg, hsource, require_eq_ok hlive]

theorem resumeEntry_passed {l : Leg} (hpart : s.part = .running) (hleg : objectAt 24 r.body 0 = .ok l)
    (hheld : ((projected s).leg l).state = .held) :
    resumeEntry r s = stageChange r (.resume l) (fun _ => []) s := by
  have hlive : ((projected s).leg l).state ≠ .closed := by simp [hheld]
  simp only [resumeEntry, whenRunning, bind, Except.bind, require_eq_ok hpart, hleg, require_eq_ok hlive, require_eq_ok hheld]

end

/-- Settles O25: each request's fields name its objects, its checks pass on the projected state, and its change joins the list. -/
theorem routingRequestsJoinTheList : Obligations.RoutingRequestsJoinTheList := by
  unfold Obligations.RoutingRequestsJoinTheList
  intro s r rest hpart hroom
  refine ⟨fun g l hdue hbody hlive hnone hlen => ?_, fun g p hdue hbody hp hon hnone hsup hlen => ?_,
    fun g l hdue hbody hin => ?_, fun g p hdue hbody hp hin => ?_, fun p on hdue hbody hp => ?_, fun p hdue hbody hp hsup => ?_,
    fun l m hdue hbody hlive => ?_, fun l hdue hbody hheld => ?_⟩
  · refine row_stagedRouting (entry := groupAddEntry) (fun _ => rfl) hdue (by rw [hbody]; rfl) hpart rfl hroom fun x => ?_
    refine groupAddEntry_passed hpart (objectAt_ok ?_) (memberAt_leg ?_ ?_) ?_ ?_ ?_
    · rw [hbody, List.append_assoc, byteAt_u8_append_zero (by omega)]
    · rw [hbody]; rfl
    · rw [hbody]; exact byteAt_u8 (by omega)
    · simpa [memberInService] using live_of_ne_closed hlive
    · simpa [memberGroup, memberSupervises] using hnone
    · simpa using hlen
  · refine row_stagedRouting (entry := groupAddEntry) (fun _ => rfl) hdue (by rw [hbody]; rfl) hpart rfl hroom fun x => ?_
    refine groupAddEntry_passed hpart (objectAt_ok ?_) (memberAt_pos ?_ ?_ hp) ?_ ?_ ?_
    · rw [hbody, List.append_assoc, byteAt_u8_append_zero (by omega)]
    · rw [hbody]; rfl
    · rw [hbody]; exact byteAt_u8 (by omega)
    · simpa [memberInService] using hon
    · simp [memberGroup, memberSupervises, hnone, asSupervisor_none hsup]
    · simpa using hlen
  · refine row_stagedRouting (entry := groupRemoveEntry) (fun _ => rfl) hdue (by rw [hbody]; rfl) hpart rfl hroom fun x => ?_
    refine groupRemoveEntry_passed hpart (objectAt_ok ?_) (memberAt_leg ?_ ?_) ?_
    · rw [hbody, List.append_assoc, byteAt_u8_append_zero (by omega)]
    · rw [hbody]; rfl
    · rw [hbody]; exact byteAt_u8 (by omega)
    · simpa [memberGroup] using hin
  · refine row_stagedRouting (entry := groupRemoveEntry) (fun _ => rfl) hdue (by rw [hbody]; rfl) hpart rfl hroom fun x => ?_
    refine groupRemoveEntry_passed hpart (objectAt_ok ?_) (memberAt_pos ?_ ?_ hp) ?_
    · rw [hbody, List.append_assoc, byteAt_u8_append_zero (by omega)]
    · rw [hbody]; rfl
    · rw [hbody]; exact byteAt_u8 (by omega)
    · simpa [memberGroup] using hin
  · refine row_stagedRouting (entry := muteEntry) (fun _ => rfl) hdue (by rw [hbody]; rfl) hpart rfl hroom fun x => ?_
    refine muteEntry_passed hpart ?_ ?_
    · rw [hbody, byteAt_u8_append_succ, byteAt_flag, onOff_flag]
    · rw [hbody, byteAt_u8_append_zero (by omega)]; exact activePosition_ok hp
  · refine row_stagedRouting (entry := unsuperviseEntry) (fun _ => rfl) hdue (by rw [hbody]; rfl) hpart rfl hroom fun x => ?_
    refine unsuperviseEntry_passed hpart ?_ (by simpa using asSupervisor_isSome hsup)
    rw [hbody, byteAt_u8 (by omega)]; exact activePosition_ok hp
  · refine row_stagedRouting (entry := holdEntry) (fun _ => rfl) hdue (by rw [hbody]; rfl) hpart rfl hroom fun x => ?_
    refine holdEntry_passed hpart (objectAt_ok ?_) (objectAt_ok ?_) (by simpa using hlive)
    · rw [hbody, byteAt_u8_append_zero (by omega)]
    · rw [hbody]; exact byteAt_u8 (by omega)
  · refine row_stagedRouting (entry := resumeEntry) (fun _ => rfl) hdue (by rw [hbody]; rfl) hpart rfl hroom fun x => ?_
    exact resumeEntry_passed hpart (objectAt_ok (by rw [hbody, byteAt_u8 (by omega)])) (by simpa using hheld)

/-! ## SUPERVISE (R24) -/

theorem supModeOf_code (mode : SupMode) : supModeOf mode.code = some mode := by cases mode <;> rfl

theorem SupMode.code_lt (mode : SupMode) : mode.code < 256 := by cases mode <;> decide

/-- R24: the reply's gains: those of a long body, and none for a short one. -/
def coachBytes : Option (Nat × Nat) → List Byte
  | some (g, d) => u16 g ++ u16 d
  | none => []

/-- R24: the supervisor has a record of its own naming this agent, or neither has one and there is room. -/
def SupervisionFree (p : State) (sup agent : Position) : Prop :=
  match asSupervisor p sup with
  | some k => k.agent = agent
  | none => asAgent p agent = none ∧ p.supervision.length < 8

theorem superviseEntry_passed {r : Request} {s : State} {sup agent : Position} {mode : SupMode} (hpart : s.part = .running)
    (hmode : supModeOf (byteAt r.body 2) = some mode) (hsup : activePosition s (byteAt r.body 0) = .ok sup)
    (hagent : activePosition s (byteAt r.body 1) = .ok agent)
    (hon : ((projected s).pos sup).enabled = true ∧ ((projected s).pos agent).enabled = true)
    (hroles : ((projected s).pos sup).role = .supervisor ∧ ((projected s).pos agent).role = .agent)
    (hgroup : ((projected s).pos sup).group = none) (hfree : SupervisionFree (projected s) sup agent) :
    superviseEntry r s =
      stageChange r (.supervise sup agent mode (coachFields r.body)) (fun _ => coachBytes (coachFields r.body)) s := by
  simp only [superviseEntry, whenRunning, bind, Except.bind, require_eq_ok hpart, hmode, need_some, hsup, hagent,
    require_eq_ok hon, require_eq_ok hroles, require_eq_ok hgroup]
  unfold SupervisionFree at hfree
  cases hrec : asSupervisor (projected s) sup with
  | none =>
    rw [hrec] at hfree
    obtain ⟨hnone, hlen⟩ := hfree
    cases coachFields r.body <;> simp only [require_eq_ok hnone, require_eq_ok hlen, coachBytes]
  | some k =>
    rw [hrec] at hfree
    cases coachFields r.body <;> simp only [require_eq_ok hfree, coachBytes]

/-- Settles O26: the body's length alone says whether the change and the reply carry gains. -/
theorem superviseJoinsTheList : Obligations.SuperviseJoinsTheList := by
  unfold Obligations.SuperviseJoinsTheList
  intro s r rest sup agent mode hdue hpart hroom hsup hagent honSup honAgent hroleSup hroleAgent hgroup hfree
  have hfree' : SupervisionFree (projected s) sup agent := by
    unfold SupervisionFree
    cases hrec : asSupervisor (projected s) sup <;> rw [hrec] at hfree <;> exact hfree
  have passed : ∀ x : Link, byteAt r.body 0 = sup.val → byteAt r.body 1 = agent.val → byteAt r.body 2 = mode.code →
      superviseEntry r (s.setLink x) = stageChange r (.supervise sup agent mode (coachFields r.body))
        (fun _ => coachBytes (coachFields r.body)) (s.setLink x) := fun x h0 h1 h2 => by
    refine superviseEntry_passed hpart (by rw [h2, supModeOf_code]) (by rw [h0]; exact activePosition_ok hsup)
      (by rw [h1]; exact activePosition_ok hagent) ?_ ?_ ?_ ?_
    · simpa using ⟨honSup, honAgent⟩
    · simpa using ⟨hroleSup, hroleAgent⟩
    · simpa using hgroup
    · rw [projected_setLink]; exact hfree'
  constructor
  · intro hbody
    have hcoach : coachFields r.body = none := by rw [hbody]; rfl
    refine row_stagedRouting (entry := superviseEntry) (fun _ => rfl) hdue (by rw [hbody]; rfl) hpart rfl hroom fun x => ?_
    rw [passed x, hcoach]
    · rfl
    · rw [hbody, List.append_assoc, byteAt_u8_append_zero (by omega)]
    · rw [hbody, List.append_assoc, byteAt_u8_append_succ, byteAt_u8_append_zero (by omega)]
    · rw [hbody]; exact byteAt_u8 mode.code_lt
  · intro gain duck hgain hduck hbody
    have hcoach : coachFields r.body = some (min 32768 gain, min 32768 duck) := by
      have hlen : r.body.length = 7 := by rw [hbody]; rfl
      have hfirst : wordAt r.body 3 = gain := by rw [hbody]; exact wordAt_u16_append_zero hgain (u16 duck)
      have hsecond : wordAt r.body 5 = duck := by rw [hbody]; exact wordAt_u16 hduck
      simp [coachFields, hlen, hfirst, hsecond, clampGain]
    refine row_stagedRouting (entry := superviseEntry) (fun _ => rfl) hdue (by rw [hbody]; rfl) hpart rfl hroom fun x => ?_
    rw [passed x, hcoach]
    · rfl
    · rw [hbody]; exact byteAt_u8 (by omega)
    · rw [hbody]; exact byteAt_u8 (by omega)
    · rw [hbody]; exact byteAt_u8 mode.code_lt

end Sys2Proof.Machine
end

section
/-! PROOF. What a change leaves of each leg and of each position, as a function of that record alone (R162), and the LEVELS and ECHO
requests with the settings that will stand once every pending change has applied (R29, R53, R71). -/

namespace Sys2Proof.Machine

/-! ## One leg and one position under a change (R18 to R30, R52, R72, R79, R81) -/

/-- R79: a leg put on hold. -/
def heldRec (m : Source) (r : LegRec) : LegRec :=
  match r.state with
  | .opened => { r with state := .held, source := some m, ramp := 0 }
  | .held => { r with source := some m }
  | .closed => r

/-- R81: a leg taken from hold. -/
def resumedRec (r : LegRec) : LegRec :=
  match r.state with
  | .held => { r with state := .opened, source := none, ramp := 0 }
  | .opened => r
  | .closed => r

/-- R52: a leg with echo settings taken. -/
def echoRec (bulk shift : Option Nat) (nlp : Option Bool) (r : LegRec) : LegRec :=
  if r.state = .closed then r
  else
    { r with
      shift := shift.getD r.shift, nlp := nlp.getD r.nlp, bulk := bulk.getD r.bulk
      ec := if bulk.isSome then clearTaps r.ec else r.ec }

/-- R72: a position with microphone settings taken. -/
def micRec (trim : Option Nat) (offset : Option Int) (floor sidetone : Option Nat) (r : PosRec) : PosRec :=
  { r with
    sidetone := sidetone.getD r.sidetone
    mic := { r.mic with
      trim := trim.getD r.mic.trim, offset := offset.getD r.mic.offset, floorGain := floor.getD r.mic.floorGain } }

/-- The record a change leaves of leg l. -/
def legAfter (l : Leg) (r : LegRec) : ChangeOp → LegRec
  | .legClose k => if k = l ∧ r.state ≠ .closed then blankLeg else r
  | .groupAdd g (.leg k) => if k = l then { r with group := some g } else r
  | .groupRemove _ (.leg k) => if k = l then { r with group := none } else r
  | .hold k m => if k = l then heldRec m r else r
  | .resume k => if k = l then resumedRec r else r
  | .sendGain (.leg k) gain => if k = l then { r with sendGain := gain } else r
  | .echoSet k bulk shift nlp => if k = l then echoRec bulk shift nlp r else r
  | _ => r

/-- The record a change leaves of position p. -/
def posAfter (p : Position) (r : PosRec) : ChangeOp → PosRec
  | .groupAdd g (.pos q) => if q = p then { r with group := some g } else r
  | .groupRemove _ (.pos q) => if q = p then { r with group := none } else r
  | .mute q on => if q = p then { r with muted := on } else r
  | .sendGain (.pos q) gain => if q = p then { r with sendGain := gain } else r
  | .micSet q trim offset floor sidetone => if q = p then micRec trim offset floor sidetone r else r
  | _ => r

theorem leg_setLeg (s : State) (k l : Leg) (r : LegRec) : (s.setLeg k r).leg l = if k = l then r else s.leg l := by
  split
  next h => rw [h, State.leg_setLeg_same]
  next h => rw [State.leg_setLeg_other _ _ _ _ (Ne.symm h)]

theorem pos_setPos (s : State) (q p : Position) (r : PosRec) : (s.setPos q r).pos p = if q = p then r else s.pos p := by
  split
  next h => rw [h, State.pos_setPos_same]
  next h => rw [State.pos_setPos_other _ _ _ _ (Ne.symm h)]

theorem members_setMembers (s : State) (k g : Group) (ms : List Member) :
    (s.setMembers k ms).members g = if k = g then ms else s.members g := by
  split
  next h => rw [h, State.members_setMembers_same]
  next h => rw [State.members_setMembers_other _ _ _ _ (Ne.symm h)]

theorem holdLeg_eq (l : Leg) (m : Source) (s : State) : holdLeg l m s = s.setLeg l (heldRec m (s.leg l)) := by
  cases h : (s.leg l).state <;> simp only [holdLeg, heldRec, h]
  exact (State.setLeg_self s l).symm

theorem resumeLeg_eq (l : Leg) (s : State) : resumeLeg l s = s.setLeg l (resumedRec (s.leg l)) := by
  cases h : (s.leg l).state <;> simp only [resumeLeg, resumedRec, h] <;> exact (State.setLeg_self s l).symm

/-- R52: beside the leg's record only the adaptation list moves, where a bulk delay is set. -/
theorem setEcho_eq (l : Leg) (bulk shift : Option Nat) (nlp : Option Bool) (s : State) :
    setEcho l bulk shift nlp s =
      if (s.leg l).state ≠ .closed ∧ bulk.isSome = true then
        (s.setLeg l (echoRec bulk shift nlp (s.leg l))).headOfList l
      else s.setLeg l (echoRec bulk shift nlp (s.leg l)) := by
  by_cases h : (s.leg l).state = .closed
  · simp [setEcho, echoRec, h, State.setLeg_self]
  · cases bulk <;> simp [setEcho, echoRec, h]

theorem leg_headOfList (s : State) (k l : Leg) : (s.headOfList k).leg l = s.leg l := rfl

theorem leg_leaveGroup_pos (g : Group) (p : Position) (s : State) (l : Leg) : (leaveGroup g (.pos p) s).leg l = s.leg l := rfl

theorem leg_closeLeg (k : Leg) (s : State) (l : Leg) :
    (closeLeg k s).leg l = if k = l ∧ (s.leg l).state ≠ .closed then blankLeg else s.leg l := by
  by_cases hkl : k = l
  · subst hkl
    by_cases h : (s.leg k).state = .closed <;> simp [closeLeg, h]
  · by_cases h : (s.leg k).state = .closed
    · simp [closeLeg, h, hkl]
    · simp only [closeLeg, h, if_false, leg_setLeg, State.leg_setWork, hkl, false_and]
      cases (s.leg k).group with
      | none => rfl
      | some g => simp [leaveGroup, setMemberGroup, leg_setLeg, hkl]

theorem applyOp_leg (op : ChangeOp) (s : State) (l : Leg) : (applyOp op s).leg l = legAfter l (s.leg l) op := by
  cases op with
  | legClose k => exact leg_closeLeg k s l
  | groupAdd g m =>
    cases m with
    | leg k =>
      simp only [applyOp, joinGroup, setMemberGroup, leg_setLeg, State.leg_setMembers, legAfter]
      split <;> simp_all
    | pos q => rfl
  | groupRemove g m =>
    cases m with
    | leg k =>
      simp only [applyOp, leaveGroup, setMemberGroup, leg_setLeg, State.leg_setMembers, legAfter]
      split <;> simp_all
    | pos q => rfl
  | hold k m =>
    simp only [applyOp, holdLeg_eq, leg_setLeg, legAfter]
    split <;> simp_all
  | resume k =>
    simp only [applyOp, resumeLeg_eq, leg_setLeg, legAfter]
    split <;> simp_all
  | mute p on => rfl
  | supervise sup a mode coach => simp only [applyOp, putSupervision]; split <;> rfl
  | unsupervise sup => rfl
  | sendGain t gain =>
    cases t with
    | leg k =>
      simp only [applyOp, setSendGain, leg_setLeg, legAfter]
      split <;> simp_all
    | pos q => rfl
  | micSet p trim offset floor sidetone => rfl
  | echoSet k bulk shift nlp =>
    have hleg : (applyOp (.echoSet k bulk shift nlp) s).leg l = (s.setLeg k (echoRec bulk shift nlp (s.leg k))).leg l := by
      simp only [applyOp, setEcho_eq]
      split <;> rfl
    rw [hleg, leg_setLeg, legAfter]
    split <;> simp_all

theorem applyOp_pos (op : ChangeOp) (s : State) (p : Position) : (applyOp op s).pos p = posAfter p (s.pos p) op := by
  cases op with
  | legClose k =>
    simp only [applyOp, closeLeg, posAfter]
    split
    · rfl
    · cases (s.leg k).group <;> rfl
  | groupAdd g m =>
    cases m with
    | leg k => rfl
    | pos q =>
      simp only [applyOp, joinGroup, setMemberGroup, pos_setPos, State.pos_setMembers, posAfter]
      split <;> simp_all
  | groupRemove g m =>
    cases m with
    | leg k => rfl
    | pos q =>
      simp only [applyOp, leaveGroup, setMemberGroup, pos_setPos, State.pos_setMembers, posAfter]
      split <;> simp_all
  | hold k m => simp only [applyOp, holdLeg_eq]; rfl
  | resume k => simp only [applyOp, resumeLeg_eq]; rfl
  | mute q on =>
    simp only [applyOp, pos_setPos, posAfter]
    split <;> simp_all
  | supervise sup a mode coach => simp only [applyOp, putSupervision]; split <;> rfl
  | unsupervise sup => rfl
  | sendGain t gain =>
    cases t with
    | leg k => rfl
    | pos q =>
      simp only [applyOp, setSendGain, pos_setPos, posAfter]
      split <;> simp_all
  | micSet q trim offset floor sidetone =>
    simp only [applyOp, setMic, pos_setPos, posAfter, micRec]
    split <;> simp_all
  | echoSet k bulk shift nlp =>
    simp only [applyOp, setEcho_eq]
    split <;> rfl

theorem applyAll_leg (cs : List Change) (s : State) (l : Leg) :
    (applyAll cs s).leg l = cs.foldl (fun r c => legAfter l r c.op) (s.leg l) := by
  induction cs generalizing s with
  | nil => rfl
  | cons c cs ih => exact (ih _).trans (congrArg (cs.foldl (fun r c => legAfter l r c.op)) (applyOp_leg c.op s l))

theorem applyAll_pos (cs : List Change) (s : State) (p : Position) :
    (applyAll cs s).pos p = cs.foldl (fun r c => posAfter p r c.op) (s.pos p) := by
  induction cs generalizing s with
  | nil => rfl
  | cons c cs ih => exact (ih _).trans (congrArg (cs.foldl (fun r c => posAfter p r c.op)) (applyOp_pos c.op s p))

/-- No change opens a leg. -/
theorem legAfter_closed {l : Leg} {r : LegRec} (h : r.state = .closed) (op : ChangeOp) : (legAfter l r op).state = .closed := by
  cases op with
  | groupAdd g m => cases m with
    | leg k => simp only [legAfter]; split <;> exact h
    | pos q => exact h
  | groupRemove g m => cases m with
    | leg k => simp only [legAfter]; split <;> exact h
    | pos q => exact h
  | sendGain t gain => cases t with
    | leg k => simp only [legAfter]; split <;> exact h
    | pos q => exact h
  | _ => simp [legAfter, heldRec, resumedRec, echoRec, h]

theorem applyAll_closed {s : State} {l : Leg} (h : (s.leg l).state = .closed) (cs : List Change) :
    ((applyAll cs s).leg l).state = .closed := by
  induction cs generalizing s with
  | nil => exact h
  | cons c cs ih => exact ih (by rw [applyOp_leg]; exact legAfter_closed h c.op)

theorem live_of_projected {s : State} {l : Leg} (h : ((projected s).leg l).state ≠ .closed) : (s.leg l).state ≠ .closed :=
  fun hclosed => h (applyAll_closed (applyAll_closed (applyAll_closed hclosed _) _) _)

/-! ## The value a setting will have (R53, R71) -/

theorem getLast_filterMap_eq_foldl {α : Type} (pick : ChangeOp → Option α) (ops : List ChangeOp) (now : α) :
    (ops.filterMap pick).getLast?.getD now = ops.foldl (fun a op => (pick op).getD a) now := by
  induction ops generalizing now with
  | nil => rfl
  | cons op ops ih =>
    rw [List.foldl_cons, ← ih, List.filterMap_cons]
    cases pick op with
    | none => rfl
    | some v => simp [List.getLast?_cons]

/-- A setting that each change either picks or leaves has, once all have applied, the value last picked. -/
theorem settled_eq {σ α : Type} {after : σ → ChangeOp → σ} {get : σ → α} {pick : ChangeOp → Option α} {Inv : σ → Prop}
    {pending : List Change} {x : Change} {r : σ} (hr : Inv r)
    (hstep : ∀ c ∈ pending ++ [x], ∀ q, Inv q → Inv (after q c.op) ∧ get (after q c.op) = (pick c.op).getD (get q)) :
    get ((pending ++ [x]).foldl (fun q c => after q c.op) r) = settled pick pending x.op (get r) := by
  have hops : pending.map Change.op ++ [x.op] = (pending ++ [x]).map Change.op := by simp
  rw [settled, getLast_filterMap_eq_foldl, hops]
  generalize pending ++ [x] = cs at hstep
  induction cs generalizing r with
  | nil => rfl
  | cons c cs ih =>
    obtain ⟨hinv, hget⟩ := hstep c (by simp) r hr
    rw [List.foldl_cons, ih hinv fun d hd => hstep d (by simp [hd]), hget]
    rfl

/-- R71: the trim a change sets at position p, where it sets one. -/
def trimPicked (p : Position) : ChangeOp → Option Nat
  | .micSet q v _ _ _ => if q = p then v else none
  | _ => none

/-- R71: the offset it sets. -/
def offsetPicked (p : Position) : ChangeOp → Option Int
  | .micSet q _ v _ _ => if q = p then v else none
  | _ => none

/-- R71: the floor gain it sets. -/
def floorPicked (p : Position) : ChangeOp → Option Nat
  | .micSet q _ _ v _ => if q = p then v else none
  | _ => none

/-- R71: the sidetone gain it sets. -/
def sidetonePicked (p : Position) : ChangeOp → Option Nat
  | .micSet q _ _ _ v => if q = p then v else none
  | _ => none

/-- R53: the bulk delay a change sets at leg l, where it sets one. -/
def bulkPicked (l : Leg) : ChangeOp → Option Nat
  | .echoSet k v _ _ => if k = l then v else none
  | _ => none

/-- R53: the adapt shift it sets. -/
def shiftPicked (l : Leg) : ChangeOp → Option Nat
  | .echoSet k _ v _ => if k = l then v else none
  | _ => none

/-- R53: the NLP enable it sets. -/
def nlpPicked (l : Leg) : ChangeOp → Option Bool
  | .echoSet k _ _ v => if k = l then v else none
  | _ => none

/-- R71: each microphone setting a change picks is the one it leaves. -/
theorem posAfter_mic (p : Position) (q : PosRec) (op : ChangeOp) :
    (posAfter p q op).mic.trim = (trimPicked p op).getD q.mic.trim ∧
    (posAfter p q op).mic.offset = (offsetPicked p op).getD q.mic.offset ∧
    (posAfter p q op).mic.floorGain = (floorPicked p op).getD q.mic.floorGain ∧
    (posAfter p q op).sidetone = (sidetonePicked p op).getD q.sidetone := by
  cases op with
  | micSet k trim offset floor sidetone =>
    simp only [posAfter, trimPicked, offsetPicked, floorPicked, sidetonePicked]
    split <;> exact ⟨rfl, rfl, rfl, rfl⟩
  | groupAdd g m =>
    cases m with
    | leg k => exact ⟨rfl, rfl, rfl, rfl⟩
    | pos k => simp only [posAfter]; split <;> exact ⟨rfl, rfl, rfl, rfl⟩
  | groupRemove g m =>
    cases m with
    | leg k => exact ⟨rfl, rfl, rfl, rfl⟩
    | pos k => simp only [posAfter]; split <;> exact ⟨rfl, rfl, rfl, rfl⟩
  | sendGain t gain =>
    cases t with
    | leg k => exact ⟨rfl, rfl, rfl, rfl⟩
    | pos k => simp only [posAfter]; split <;> exact ⟨rfl, rfl, rfl, rfl⟩
  | mute k on => simp only [posAfter]; split <;> exact ⟨rfl, rfl, rfl, rfl⟩
  | _ => exact ⟨rfl, rfl, rfl, rfl⟩

/-- R53: an ECHO change of an open leg leaves the settings it picks, and the leg open. -/
theorem legAfter_echo (l : Leg) {q : LegRec} (hq : q.state ≠ .closed) {op : ChangeOp} (hop : op.cls = .echo) :
    (legAfter l q op).state ≠ .closed ∧
    (legAfter l q op).bulk = (bulkPicked l op).getD q.bulk ∧
    (legAfter l q op).shift = (shiftPicked l op).getD q.shift ∧ (legAfter l q op).nlp = (nlpPicked l op).getD q.nlp := by
  cases op with
  | echoSet k bulk shift nlp =>
    simp only [legAfter, echoRec, if_neg hq, bulkPicked, shiftPicked, nlpPicked]
    split <;> exact ⟨hq, rfl, rfl, rfl⟩
  | _ => cases hop

theorem whenSelected_eq {α : Type} (sel i : Nat) (v : α) : whenSelected sel i v = if sel.testBit i then some v else none := rfl

theorem signedAt_i16 {x : Int} (hlo : -32768 ≤ x) (hhi : x ≤ 32767) (b : List Byte) : signedAt (i16 x ++ b) 0 = x := by
  have hword : wordAt (i16 x ++ b) 0 = (BitVec.ofInt 16 x).toNat := wordAt_u16_append_zero (BitVec.isLt _) b
  rw [signedAt, hword, BitVec.ofNat_toNat, BitVec.setWidth_eq, BitVec.toInt_ofInt]
  exact Int.bmod_eq_of_le (by omega) (by omega)

section
variable {r : Request} {s : State}

theorem sendGainEntry_passed {t : Member} {gain : Nat} (hpart : s.part = .running) (htarget : memberAt s r.body 0 = .ok t)
    (hopen : targetOpen (projected s) t = true) (hgain : wordAt r.body 2 = gain) :
    sendGainEntry r s = stageChange r (.sendGain t (min 32768 gain)) (fun _ => u16 (min 32768 gain)) s := by
  simp only [sendGainEntry, whenRunning, bind, Except.bind, require_eq_ok hpart, htarget, require_eq_ok hopen, hgain, clampGain]

/-- R71: the settings of a position as they will stand when every pending change of the LEVELS list has applied. -/
def micToCome (p : Position) (s : State) : List Byte :=
  u16 ((applyAll s.levels.list s).pos p).mic.trim ++ i16 ((applyAll s.levels.list s).pos p).mic.offset ++
    u16 ((applyAll s.levels.list s).pos p).mic.floorGain ++ u16 ((applyAll s.levels.list s).pos p).sidetone

theorem micToCome_setLink (p : Position) (s : State) (x : Link) : micToCome p (s.setLink x) = micToCome p s := by
  simp only [micToCome, State.setLink_levels, applyAll_setLink, State.pos_setLink]

/-- R53: the settings of a leg as they will stand when every pending change of the ECHO list has applied. -/
def echoToCome (l : Leg) (s : State) : List Byte :=
  u16 ((applyAll s.echo.list s).leg l).bulk ++ u8 ((applyAll s.echo.list s).leg l).shift ++
    flag ((applyAll s.echo.list s).leg l).nlp

theorem echoToCome_setLink (l : Leg) (s : State) (x : Link) : echoToCome l (s.setLink x) = echoToCome l s := by
  simp only [echoToCome, State.setLink_echo, applyAll_setLink, State.leg_setLink]

theorem micSetEntry_passed {p : Position} {sel trim floor sidetone : Nat} {offset : Int} (hpart : s.part = .running)
    (hsel : byteAt r.body 1 = sel) (hsome : sel % 16 ≠ 0) (hpos : activePosition s (byteAt r.body 0) = .ok p)
    (htrim : wordAt r.body 2 = trim) (hoffset : signedAt r.body 4 = offset) (hfloor : wordAt r.body 6 = floor)
    (hsidetone : wordAt r.body 8 = sidetone) :
    micSetEntry r s = stageChange r
      (.micSet p (if sel.testBit 0 then some (min 16383 trim) else none)
        (if sel.testBit 1 then some (max (-2048) (min 2047 offset)) else none)
        (if sel.testBit 2 then some (min 32768 floor) else none) (if sel.testBit 3 then some (min 32768 sidetone) else none))
      (micToCome p) s := by
  simp only [micSetEntry, whenRunning, bind, Except.bind, require_eq_ok hpart, hsel, require_eq_ok hsome, hpos, htrim, hoffset,
    hfloor, hsidetone, whenSelected_eq, clampTo, clampInt, clampGain, Nat.zero_max]
  rfl

theorem echoSetEntry_passed {l : Leg} {sel bulk shift nlp : Nat} (hpart : s.part = .running)
    (hleg : objectAt 24 r.body 0 = .ok l) (hsel : byteAt r.body 1 = sel) (hsome : sel % 8 ≠ 0) (hbulk : wordAt r.body 2 = bulk)
    (hshift : byteAt r.body 4 = shift) (hnlp : byteAt r.body 5 = nlp) (hcode : sel.testBit 2 = true → nlp < 2)
    (hlive : ((projected s).leg l).state ≠ .closed) :
    echoSetEntry r s = stageChange r
      (.echoSet l (if sel.testBit 0 then some (min 512 bulk / 4 * 4) else none)
        (if sel.testBit 1 then some (min 6 shift) else none) (if sel.testBit 2 then some (decide (nlp = 1)) else none))
      (echoToCome l) s := by
  have hon : sel.testBit 2 = true → onOff nlp = some (decide (nlp = 1)) := fun h => by
    have := hcode h
    interval_cases nlp <;> rfl
  have hcheck : selected sel 2 = false ∨ (onOff nlp).isSome = true := by
    cases h : sel.testBit 2 with
    | false => exact .inl h
    | true => exact .inr (by rw [hon h]; rfl)
  have hfield : (if selected sel 2 then onOff nlp else none) = if sel.testBit 2 then some (decide (nlp = 1)) else none := by
    cases h : sel.testBit 2 with
    | false => simp [selected, h]
    | true => simp [selected, h, hon h]
  simp only [echoSetEntry, whenRunning, bind, Except.bind, require_eq_ok hpart, hleg, hsel, require_eq_ok hsome, hnlp,
    require_eq_ok hcheck, require_eq_ok hlive, hbulk, hshift, hfield, whenSelected_eq, clampTo, bulkValue, roundDownTo,
    Nat.zero_max]
  rfl

end

theorem joinList_levels {op : ChangeOp} (h : op.cls = .levels) (tag : Byte) (s : State) :
    joinList op tag s = { s with levels := { s.levels with
      list := s.levels.list ++ [{ tag := tag, arrival := s.frame, op := op }] } } := by
  rw [joinList, h]
  rfl

theorem joinList_echo {op : ChangeOp} (h : op.cls = .echo) (tag : Byte) (s : State) :
    joinList op tag s = { s with echo := { s.echo with
      list := s.echo.list ++ [{ tag := tag, arrival := s.frame, op := op }] } } := by
  rw [joinList, h]
  rfl

/-- R71: what MIC_SET reports is what the last pending change to pick each setting picks. -/
theorem micToCome_joinList (p : Position) {op : ChangeOp} (h : op.cls = .levels) (tag : Byte) (s : State) :
    micToCome p (joinList op tag s) =
      u16 (settled (trimPicked p) s.levels.list op (s.pos p).mic.trim) ++
      i16 (settled (offsetPicked p) s.levels.list op (s.pos p).mic.offset) ++
      u16 (settled (floorPicked p) s.levels.list op
        (s.pos p).mic.floorGain) ++
      u16 (settled (sidetonePicked p) s.levels.list op (s.pos p).sidetone) := by
  have hpos : (joinList op tag s).pos p = s.pos p := by rw [joinList_levels h]; rfl
  have hlist : (joinList op tag s).levels.list = s.levels.list ++ [{ tag := tag, arrival := s.frame, op := op }] := by
    rw [joinList_levels h]
  have hmic := posAfter_mic p
  simp only [micToCome, applyAll_pos, hpos, hlist]
  rw [settled_eq (get := fun q : PosRec => q.mic.trim) (pick := trimPicked p) (Inv := fun _ => True) trivial
      fun c _ q _ => ⟨trivial, (hmic q c.op).1⟩,
    settled_eq (get := fun q : PosRec => q.mic.offset) (pick := offsetPicked p) (Inv := fun _ => True) trivial
      fun c _ q _ => ⟨trivial, (hmic q c.op).2.1⟩,
    settled_eq (get := fun q : PosRec => q.mic.floorGain) (pick := floorPicked p) (Inv := fun _ => True) trivial
      fun c _ q _ => ⟨trivial, (hmic q c.op).2.2.1⟩,
    settled_eq (get := fun q : PosRec => q.sidetone) (pick := sidetonePicked p) (Inv := fun _ => True) trivial
      fun c _ q _ => ⟨trivial, (hmic q c.op).2.2.2⟩]

/-- R53: the same of ECHO_SET, for an open leg and a list of ECHO changes. -/
theorem echoToCome_joinList (l : Leg) {op : ChangeOp} (h : op.cls = .echo) (tag : Byte) {s : State}
    (hlist : ∀ x ∈ s.echo.list, x.op.cls = .echo) (hlive : (s.leg l).state ≠ .closed) :
    echoToCome l (joinList op tag s) =
      u16 (settled (bulkPicked l) s.echo.list op (s.leg l).bulk) ++
      u8 (settled (shiftPicked l) s.echo.list op (s.leg l).shift) ++
      flag (settled (nlpPicked l) s.echo.list op (s.leg l).nlp) := by
  have hleg : (joinList op tag s).leg l = s.leg l := by rw [joinList_echo h]; rfl
  have hjoined : (joinList op tag s).echo.list = s.echo.list ++ [{ tag := tag, arrival := s.frame, op := op }] := by
    rw [joinList_echo h]
  have hstep : ∀ c ∈ s.echo.list ++ [{ tag := tag, arrival := s.frame, op := op }], ∀ q : LegRec, q.state ≠ .closed → _ :=
    fun c hc q hq => legAfter_echo l hq (op := c.op) (by
      rcases List.mem_append.1 hc with hc | hc
      · exact hlist c hc
      · rw [List.mem_singleton.1 hc]; exact h)
  simp only [echoToCome, applyAll_leg, hleg, hjoined]
  rw [settled_eq (get := fun q : LegRec => q.bulk) (pick := bulkPicked l) hlive fun c hc q hq => ⟨(hstep c hc q hq).1, (hstep c hc q hq).2.1⟩,
    settled_eq (get := fun q : LegRec => q.shift) (pick := shiftPicked l) hlive fun c hc q hq => ⟨(hstep c hc q hq).1, (hstep c hc q hq).2.2.1⟩,
    settled_eq (get := fun q : LegRec => q.nlp) (pick := nlpPicked l) hlive fun c hc q hq => ⟨(hstep c hc q hq).1, (hstep c hc q hq).2.2.2⟩]

/-- Settles O27: each request stages its clamped change, and what the reply reports of it is what the list's last pick gives. -/
theorem levelsAndEchoRequestsJoinTheirLists : Obligations.LevelsAndEchoRequestsJoinTheirLists := by
  unfold Obligations.LevelsAndEchoRequestsJoinTheirLists
  intro s r rest hpart
  refine ⟨fun hroom l gain hgain hdue hbody hlive => ?_, fun hroom p gain hgain hdue hbody hp => ?_,
    fun hroom p sel trim floor sidetone offset hdue hsel hsome htrim hfloor hsidetone hlo hhi hbody hp => ?_,
    fun hroom hclass l sel bulk shift nlp hdue hsel hsome hbulk hshift hnlp hcode hbody hlive => ?_⟩
  · refine (row_staged (op := .sendGain (.leg l) (min 32768 gain)) (fields := fun _ => u16 (min 32768 gain))
      (entry := sendGainEntry) (fun _ => rfl) hdue (by rw [hbody]; rfl) hpart hroom (fun _ _ => rfl) fun x => ?_).trans ?_
    · refine sendGainEntry_passed hpart (memberAt_leg ?_ ?_) ?_ ?_
      · rw [hbody]; rfl
      · rw [hbody]; exact byteAt_u8 (by omega)
      · simpa [targetOpen] using live_of_ne_closed hlive
      · rw [hbody]; exact wordAt_u16 hgain
    · rw [joinList_levels rfl]; rfl
  · refine (row_staged (op := .sendGain (.pos p) (min 32768 gain)) (fields := fun _ => u16 (min 32768 gain))
      (entry := sendGainEntry) (fun _ => rfl) hdue (by rw [hbody]; rfl) hpart hroom (fun _ _ => rfl) fun x => ?_).trans ?_
    · refine sendGainEntry_passed hpart (memberAt_pos ?_ ?_ hp) rfl ?_
      · rw [hbody]; rfl
      · rw [hbody]; exact byteAt_u8 (by omega)
      · rw [hbody]; exact wordAt_u16 hgain
    · rw [joinList_levels rfl]; rfl
  · intro op mic
    refine (row_staged (op := op) (fields := micToCome p) (entry := micSetEntry) (fun _ => rfl) hdue (by rw [hbody]; rfl) hpart
      hroom (micToCome_setLink p) fun x => ?_).trans ?_
    · refine micSetEntry_passed hpart ?_ hsome ?_ ?_ ?_ ?_ ?_
      · rw [hbody]; exact byteAt_u8 hsel
      · rw [hbody]; exact (congrArg _ (byteAt_u8 (by omega))).trans (activePosition_ok hp)
      · rw [hbody]; exact wordAt_u16 htrim
      · rw [hbody]; exact signedAt_i16 hlo hhi (u16 floor ++ u16 sidetone)
      · rw [hbody]; exact wordAt_u16 hfloor
      · rw [hbody]; exact wordAt_u16 hsidetone
    · rw [micToCome_joinList p rfl, joinList_levels rfl]
      simp only [← List.append_assoc]
      rfl
  · intro op
    refine (row_staged (op := op) (fields := echoToCome l) (entry := echoSetEntry) (fun _ => rfl) hdue (by rw [hbody]; rfl) hpart
      hroom (echoToCome_setLink l) fun x => ?_).trans ?_
    · refine echoSetEntry_passed hpart (objectAt_ok ?_) ?_ hsome ?_ ?_ ?_ hcode (by simpa using hlive)
      · rw [hbody]; exact byteAt_u8 (by omega)
      · rw [hbody]; exact byteAt_u8 hsel
      · rw [hbody]; exact wordAt_u16 hbulk
      · rw [hbody]; exact byteAt_u8 hshift
      · rw [hbody]; exact byteAt_u8 hnlp
    · rw [echoToCome_joinList l rfl r.tag hclass (live_of_projected hlive), joinList_echo rfl]
      simp only [← List.append_assoc]
      rfl

end Sys2Proof.Machine
end

section
/-! PROOF. Requests whose entry acts on one record: the tail granted to a leg (R16, R54, R148), QUIET_MASK (R73), the requests of the
music sources (R92 to R96), and PROMPT_QUEUE (R101, R117). -/

namespace Sys2Proof.Machine

/-! ## The granted tail (R148) -/

/-- R148: a multiple of 16 that fits and above which no other does is the tail granted. -/
theorem grantedTail_eq {ceiling commitment tail granted : Nat} (hstep : granted % 16 = 0) (hlow : 128 ≤ granted)
    (hhigh : granted ≤ max 128 (min 1024 tail)) (hfits : commitment + (granted / 16 + 4) ≤ ceiling)
    (hgreatest : ∀ g, g % 16 = 0 → g ≤ max 128 (min 1024 tail) → commitment + (g / 16 + 4) ≤ ceiling → g ≤ granted) :
    grantedTail (ceiling - commitment) tail = granted := by
  have hmost := hgreatest (grantedTail (ceiling - commitment) tail)
  simp only [grantedTail, tailValue, roundDownTo, clampTo] at hmost ⊢
  have hupper := hmost (by omega) (by omega) (by omega)
  omega

/-- R54, R148: the tail ECHO_TAIL grants is the greatest multiple of 16, not above the rounded request, whose cost fits. -/
theorem grantedGrowth_greatest {ceiling commitment current tail : Nat} (hcost : legCost current ≤ commitment)
    (hceiling : commitment ≤ ceiling) :
    let others := commitment - legCost current
    let granted := grantedGrowth (ceiling - others) current tail
    granted % 16 = 0 ∧ granted ≤ max 128 (min 1024 tail) / 16 * 16 ∧ others + legCost granted ≤ ceiling ∧
      ∀ g, g % 16 = 0 → g ≤ max 128 (min 1024 tail) / 16 * 16 → others + legCost g ≤ ceiling → g ≤ granted := by
  intro others granted
  have hgranted : granted = grantedGrowth (ceiling - others) current tail := rfl
  have hothers : others = commitment - legCost current := rfl
  clear_value others granted
  have htail : tailValue tail = max 128 (min 1024 tail) / 16 * 16 := rfl
  rw [grantedGrowth] at hgranted
  simp only [legCost] at *
  by_cases hsmall : tailValue tail ≤ current
  · rw [if_pos hsmall] at hgranted
    exact ⟨by omega, by omega, by omega, fun g _ hg _ => by omega⟩
  · rw [if_neg hsmall, grantedTail] at hgranted
    exact ⟨by omega, by omega, by omega, fun g hstep hg hfits => by omega⟩

theorem slotTaken_eq_false {s : State} {l : Leg} {slot : NetSlot}
    (h : ∀ k, k ≠ l → (s.leg k).state ≠ .closed → (s.leg k).slot ≠ some slot) : slotTaken s l slot = false := by
  simp only [slotTaken, List.any_eq_false, Bool.and_eq_true, bne_iff_ne, beq_iff_eq, not_and, LegRec.live, and_imp]
  exact fun k _ hk hlive => h k hk hlive

theorem legOpenEntry_passed {r : Request} {s : State} {l : Leg} {slot : NetSlot} {tail gain granted : Nat}
    (hpart : s.part = .running) (hleg : objectAt 24 r.body 0 = .ok l) (hslot : objectAt 32 r.body 1 = .ok slot)
    (hclosed : (s.leg l).state = .closed ∧ (s.leg l).closing = false) (hfree : slotTaken s l slot = false)
    (htail : wordAt r.body 2 = tail) (hgain : wordAt r.body 4 = gain)
    (hgranted : grantedTail (s.work.ceiling - s.work.commitment) tail = granted) (hlow : 128 ≤ granted) :
    legOpenEntry r s = .ok
      { body := u16 granted ++ u16 (min 32768 gain) ++ u16 (s.work.commitment + (granted / 16 + 4)),
        state := legOpened l slot granted (min 32768 gain) s } := by
  simp only [legOpenEntry, whenRunning, bind, Except.bind, require_eq_ok hpart, hleg, hslot, require_eq_ok hclosed,
    require_eq_ok hfree, htail, hgranted, require_eq_ok hlow, hgain]
  rfl

/-- Settles O23: the entry's checks pass, and its grant is the greatest that fits. -/
theorem legOpenAdmitsTheLeg : Obligations.LegOpenAdmitsTheLeg := by
  unfold Obligations.LegOpenAdmitsTheLeg
  intro s r rest l slot tail gain hdue hpart hbody htail hgain hclosed hclosing hslot granted hstep hlow hhigh hfits hgreatest
  refine row_accepted (u := legOpened l slot granted (min 32768 gain) s) (entry := legOpenEntry) (fun _ => rfl) hdue
    (by rw [hbody]; rfl) (.inl (.inr hpart)) rfl fun x => ?_
  refine (legOpenEntry_passed (s := s.setLink x) hpart (objectAt_ok ?_) (objectAt_ok ?_) ⟨hclosed, hclosing⟩
    (slotTaken_eq_false hslot) ?_ ?_ (grantedTail_eq hstep hlow hhigh hfits hgreatest) hlow).trans rfl
  · rw [hbody]; exact byteAt_u8 (by omega)
  · rw [hbody]; exact byteAt_u8 (by omega)
  · rw [hbody]; exact wordAt_u16 htail
  · rw [hbody]; exact wordAt_u16 hgain

theorem echoTailEntry_passed {r : Request} {s : State} {l : Leg} {tail : Nat} (hpart : s.part = .running)
    (hleg : objectAt 24 r.body 0 = .ok l) (hopen : (s.leg l).state ≠ .closed ∧ (s.leg l).closing = false)
    (htail : wordAt r.body 1 = tail) :
    let granted := grantedGrowth (s.work.ceiling - (s.work.commitment - legCost (s.leg l).tail)) (s.leg l).tail tail
    echoTailEntry r s = .ok
      { body := u16 granted ++ u16 (s.work.commitment - legCost (s.leg l).tail + legCost granted),
        state := tailPut l granted s } := by
  simp only [echoTailEntry, whenRunning, bind, Except.bind, require_eq_ok hpart, hleg, require_eq_ok hopen, htail]
  rfl

/-- Settles O32: the grant is the greatest that fits, and the entry resizes the taps to it. -/
theorem echoTailResizesTheFilter : Obligations.EchoTailResizesTheFilter := by
  unfold Obligations.EchoTailResizesTheFilter
  intro s r rest l tail hdue hpart hbody htail hlive hclosing hcost hceiling
  obtain ⟨hstep, hhigh, hfits, hgreatest⟩ := grantedGrowth_greatest (tail := tail) hcost hceiling
  refine ⟨_, _, row_accepted (u := tailPut l _ s) (entry := echoTailEntry) (fun _ => rfl) hdue (by rw [hbody]; rfl)
    (.inl (.inr hpart)) rfl fun x => ?_, rfl, hstep, hhigh, hfits, hgreatest⟩
  refine (echoTailEntry_passed (s := s.setLink x) hpart (objectAt_ok ?_) ⟨hlive, hclosing⟩ ?_).trans rfl
  · rw [hbody]; exact byteAt_u8 (by omega)
  · rw [hbody]; exact wordAt_u16 htail

/-! ## QUIET_MASK (R73) -/

theorem activeCount_le (st : Straps) : activeCount st ≤ 16 := by
  unfold activeCount
  split
  · omega
  · split <;> omega

/-- Settles O38: the mask below the active count is a 16-bit value, so the reply repeats the set taken. -/
theorem quietMaskSetsTheMask : Obligations.QuietMaskSetsTheMask := by
  unfold Obligations.QuietMaskSetsTheMask
  intro s r rest mask hdue hserving hmask hbody
  have hword : wordAt r.body 0 = mask := by rw [hbody]; exact wordAt_u16 hmask
  have hsmall : mask % 2 ^ activeCount s.straps < 2 ^ 16 := (Nat.mod_le _ _).trans_lt hmask
  refine row_accepted (u := { s with quietMask := BitVec.ofNat 16 (mask % 2 ^ activeCount s.straps) })
    (entry := quietMaskEntry) (fun _ => rfl) hdue (by rw [hbody]; rfl) (.inl hserving) rfl fun x => ?_
  simp only [quietMaskEntry, hword, State.setLink_straps, BitVec.toNat_ofNat, Nat.mod_eq_of_lt hsmall]
  rfl

/-! ## The music sources (R92 to R96) -/

theorem sourceKindOf_code (kind : SourceKind) : sourceKindOf kind.code = some kind := by cases kind <;> rfl

theorem SourceKind.code_lt (kind : SourceKind) : kind.code < 256 := by cases kind <;> decide

theorem sourceSetEntry_passed {r : Request} {s : State} {m : Source} {kind : SourceKind} (hsource : objectAt 4 r.body 0 = .ok m)
    (hkind : byteAt r.body 1 = kind.code) (hclip : kind = .clip → 1 ≤ wordAt r.body 6 ∧ wordAt r.body 6 ≤ 65534)
    (hstill : (s.src m).state = .stopped ∧ (s.src m).cmd = .none) :
    let k := setSource kind r.body (s.src m)
    sourceSetEntry r s = .ok { body := u8 k.kind.code ++ u16 k.level ++ kindSettings k, state := s.setSrc m k } := by
  simp only [sourceSetEntry, bind, Except.bind, hsource, hkind, sourceKindOf_code, need_some, require_eq_ok hclip,
    require_eq_ok hstill]
  rfl

/-- Settles O40: the body's fields are read one behind another, and the kind says which of them the record takes. -/
theorem sourceSetTakesTheSettings : Obligations.SourceSetTakesTheSettings := by
  unfold Obligations.SourceSetTakesTheSettings
  intro s r rest m level low clip step amp on off hdue hserving hstopped hidle hlevel hlow hclip hstep hamp hon hoff kind hbody
  have hlevelAt : wordAt r.body 2 = level := by rw [hbody]; exact wordAt_u16 hlevel
  have hlowAt : wordAt r.body 4 = low := by rw [hbody]; exact wordAt_u16 hlow
  have hclipAt : wordAt r.body 6 = clip := by rw [hbody]; exact wordAt_u16 hclip
  have hstepAt : wordAt r.body 8 = step := by rw [hbody]; exact wordAt_u16 hstep
  have hampAt : wordAt r.body 10 = amp := by rw [hbody]; exact wordAt_u16 hamp
  have honAt : wordAt r.body 12 = on := by rw [hbody]; exact wordAt_u16 hon
  have hoffAt : wordAt r.body 14 = off := by rw [hbody]; exact wordAt_u16 hoff
  have taken : (kind = .clip → 1 ≤ clip ∧ clip ≤ 65534) →
      let k := setSource kind r.body (s.src m)
      exec .sourceSet s = .next (answered r rest .ok (u8 k.kind.code ++ u16 k.level ++ kindSettings k) (s.setSrc m k)) :=
    fun hid => row_accepted (entry := sourceSetEntry) (fun _ => rfl) hdue (by rw [hbody]; rfl) (.inl hserving) rfl fun x =>
      (sourceSetEntry_passed (s := s.setLink x) (objectAt_ok (by rw [hbody]; exact byteAt_u8 (by omega)))
        (by rw [hbody]; exact byteAt_u8 kind.code_lt) (by rw [hclipAt]; exact hid) ⟨hstopped, hidle⟩).trans rfl
  refine ⟨fun hkind => ?_, fun hkind hfirst hlast => ?_, fun hkind => ?_⟩
  · subst hkind
    rw [taken nofun]
    simp [setSource, kindSettings, hlevelAt, hlowAt, clampGain, clampTo, SourceKind.code]
  · subst hkind
    rw [taken fun _ => ⟨hfirst, hlast⟩]
    simp [setSource, kindSettings, hlevelAt, hclipAt, clampGain, SourceKind.code]
  · subst hkind
    have honMin : min 65535 on = on := by omega
    rw [taken nofun]
    simp [setSource, kindSettings, hlevelAt, hstepAt, hampAt, honAt, hoffAt, clampGain, clampTo, honMin, SourceKind.code]

theorem sourceStopEntry_passed {r : Request} {s : State} {m : Source} (hpart : s.part = .running)
    (hsource : objectAt 4 r.body 0 = .ok m) :
    sourceStopEntry r s =
      .ok { body := u8 (s.src m).state.code ++ u8 2, state := s.setSrc m { s.src m with cmd := .stop } } := by
  simp only [sourceStopEntry, whenRunning, bind, Except.bind, require_eq_ok hpart, hsource]
  rfl

theorem sourceStartEntry_still {r : Request} {s : State} {m : Source} (hpart : s.part = .running)
    (hsource : objectAt 4 r.body 0 = .ok m) (hstill : (s.src m).state = .stopped ∧ (s.src m).cmd = .none)
    (hkind : (s.src m).kind ≠ .clip) :
    sourceStartEntry r s = .ok { body := u8 0 ++ u8 1, state := s.setSrc m { s.src m with cmd := .start none } } := by
  simp only [sourceStartEntry, whenRunning, bind, Except.bind, require_eq_ok hpart, hsource, require_eq_ok hstill, if_neg hkind]
  rfl

theorem sourceStartEntry_clip {r : Request} {s : State} {m : Source} {id : Nat} {e : IndexEntry} (hpart : s.part = .running)
    (hsource : objectAt 4 r.body 0 = .ok m) (hstill : (s.src m).state = .stopped ∧ (s.src m).cmd = .none)
    (hkind : (s.src m).kind = .clip) (hclip : (s.src m).clip = some id) (hfound : lookupClip s.index id = some e) :
    sourceStartEntry r s = .ok
      { body := u8 0 ++ u8 1 ++ u32 e.loc.length ++ u8 e.loc.rate.code,
        state := s.setSrc m { s.src m with cmd := .start (some e.loc) } } := by
  have hsearch : sourceClip s (s.src m) = some e := by rw [sourceClip, hclip]; exact hfound
  simp only [sourceStartEntry, whenRunning, bind, Except.bind, require_eq_ok hpart, hsource, require_eq_ok hstill, if_pos hkind,
    hsearch, need_some]
  rfl

/-- Settles O41: the kind decides whether a START looks its clip up, and a STOP is recorded in every state. -/
theorem sourceCommandsAreRecorded : Obligations.SourceCommandsAreRecorded := by
  unfold Obligations.SourceCommandsAreRecorded
  intro s r rest m hpart hbody
  have hsource : objectAt 4 r.body 0 = .ok m := hbody ▸ objectAt_u8 (by decide) m
  refine ⟨fun hdue hstopped hidle hkind => ?_, fun id e hdue hstopped hidle hkind hclip hfound => ?_, fun hdue => ?_⟩
  · exact row_accepted (entry := sourceStartEntry) (fun _ => rfl) hdue (by rw [hbody]; rfl) (.inl (.inr hpart)) rfl fun x =>
      (sourceStartEntry_still (s := s.setLink x) hpart hsource ⟨hstopped, hidle⟩ hkind).trans rfl
  · exact row_accepted (entry := sourceStartEntry) (fun _ => rfl) hdue (by rw [hbody]; rfl) (.inl (.inr hpart)) rfl fun x =>
      (sourceStartEntry_clip (s := s.setLink x) hpart hsource ⟨hstopped, hidle⟩ hkind hclip hfound).trans rfl
  · exact row_accepted (entry := sourceStopEntry) (fun _ => rfl) hdue (by rw [hbody]; rfl) (.inl (.inr hpart)) rfl fun x =>
      (sourceStopEntry_passed (s := s.setLink x) hpart hsource).trans rfl

/-! ## STREAM_DATA (R96, R218) -/

theorem signedAt_append_length_add (a b : List Byte) (i : Nat) : signedAt (a ++ b) (a.length + i) = signedAt b i := by
  rw [signedAt, signedAt, wordAt_append_length_add]

/-- Samples sent two bytes each read back in order. -/
theorem range_map_signedAt {xs : List Int} (h : ∀ x ∈ xs, -32768 ≤ x ∧ x ≤ 32767) (head : List Byte) :
    (List.range xs.length).map (fun i => signedAt (head ++ xs.flatMap i16) (head.length + 2 * i)) = xs := by
  induction xs generalizing head with
  | nil => rfl
  | cons x xs ih =>
    have hx := h x (by simp)
    have hfirst : signedAt (head ++ (i16 x ++ xs.flatMap i16)) (head.length + 2 * 0) = x := by
      rw [signedAt_append_length_add]
      exact signedAt_i16 hx.1 hx.2 _
    have hrest := ih (fun y hy => h y (by simp [hy])) (head ++ i16 x)
    rw [List.length_cons, List.range_succ_eq_map, List.map_cons, List.flatMap_cons, hfirst, List.map_map]
    refine congrArg (x :: ·) (Eq.trans (List.map_congr_left fun i _ => ?_) hrest)
    simp only [Function.comp_apply, List.length_append, i16_length, List.append_assoc]
    congr 1
    omega

theorem flatMap_i16_length (xs : List Int) : (xs.flatMap i16).length = 2 * xs.length := by
  induction xs with
  | nil => rfl
  | cons x xs ih => rw [List.flatMap_cons, List.length_append, ih, i16_length, List.length_cons]; omega

/-- R96: the source with these samples behind its ring, and its low mark armed again where the fill has reached it. -/
def streamJoined (m : Source) (taken : List Int) (s : State) : State :=
  s.setSrc m { s.src m with
    ring := (s.src m).ring ++ taken
    lowArmed := (s.src m).lowArmed || decide ((s.src m).lowMark ≤ (s.src m).ring.length + taken.length) }

theorem streamDataEntry_passed {r : Request} {s : State} {m : Source} {samples : List Int} (hsource : objectAt 4 r.body 0 = .ok m)
    (hcount : byteAt r.body 1 = samples.length) (hrange : 1 ≤ samples.length ∧ samples.length ≤ 120)
    (hkind : (s.src m).kind = .stream) (hsamples : streamSamples r.body = samples) :
    let taken := samples.take (2048 - (s.src m).ring.length)
    streamDataEntry r s = .ok
      { body := u8 taken.length ++ u16 ((s.src m).ring.length + taken.length), state := streamJoined m taken s } := by
  have hrange' : 1 ≤ byteAt r.body 1 ∧ byteAt r.body 1 ≤ 120 := by rw [hcount]; exact hrange
  simp only [streamDataEntry, bind, Except.bind, hsource, require_eq_ok hrange', require_eq_ok hkind, hsamples,
    List.length_append]
  rfl

/-- Settles O42: the samples read back from the body are those sent, and the ring takes what fits. -/
theorem streamDataJoinsTheRing : Obligations.StreamDataJoinsTheRing := by
  unfold Obligations.StreamDataJoinsTheRing
  intro s r rest m samples hdue hserving hkind hsome hmost hrange hbody
  have hcount : byteAt r.body 1 = samples.length := by
    rw [hbody, List.append_assoc, byteAt_u8_append_succ, byteAt_u8_append_zero (by omega)]
  have hsamples : streamSamples r.body = samples := by
    rw [streamSamples, hcount, hbody]
    exact range_map_signedAt hrange (u8 m.val ++ u8 samples.length)
  have hlen : r.body.length = 2 * byteAt r.body 1 + 2 := by
    rw [hcount, hbody]
    simp only [List.length_append, u8_length, flatMap_i16_length]
    omega
  have hfit : bodyFits (0x33#8).toNat r.body = some true := by
    show some (decide (2 ≤ r.body.length) && r.body.length == 2 * byteAt r.body 1 + 2) = some true
    simp only [← hlen, beq_self_eq_true, Bool.and_true, Option.some.injEq, decide_eq_true_eq]
    omega
  have hsource : objectAt 4 r.body 0 = .ok m := objectAt_ok (by rw [hbody, List.append_assoc]; exact byteAt_u8 (by omega))
  have taken : exec .streamData s = _ :=
    row_accepted (u := streamJoined m (samples.take (2048 - (s.src m).ring.length)) s)
      (body := u8 (samples.take (2048 - (s.src m).ring.length)).length ++
        u16 ((s.src m).ring.length + (samples.take (2048 - (s.src m).ring.length)).length))
      (entry := streamDataEntry) (fun _ => rfl) hdue hfit (.inl hserving) rfl fun x =>
        (streamDataEntry_passed (s := s.setLink x) hsource hcount ⟨hsome, hmost⟩ hkind hsamples).trans rfl
  rw [taken]
  simp only [streamJoined, List.length_take, Nat.min_comm samples.length]

/-! ## PROMPT_QUEUE (R101, R117) -/

theorem startOf_code (start : StartCond) : startOf start.code = some start := by cases start <;> rfl

theorem StartCond.code_lt (start : StartCond) : start.code < 256 := by cases start <;> decide

theorem clipIdAt_ok {b : List Byte} {i id : Nat} (h : wordAt b i = id) (hlow : 1 ≤ id) (hhigh : id ≤ 65534) :
    clipIdAt b i = .ok id := by
  subst h
  simp only [clipIdAt, bind, Except.bind, require_eq_ok (And.intro hlow hhigh)]
  rfl

theorem min?_eq_of_least {pool : List Handle} {h : Handle} (hin : h ∈ pool) (hleast : ∀ k ∈ pool, h ≤ k) : pool.min? = some h :=
  List.min?_eq_some_iff.2 ⟨hin, hleast⟩

/-- R101, R117: the record among the pending ones of the position, and its handle gone from the pool. -/
def promptJoined (p : Position) (k : PromptRec) (s : State) : State :=
  { s.setPos p { s.pos p with queue := insertPrompt k (s.pos p).queue } with free := s.free.erase k.handle }

theorem insertPrompt_length (k : PromptRec) (queue : List PromptRec) : (insertPrompt k queue).length = queue.length + 1 := by
  have hlow : queue.filter (fun x => decide (x.level < k.level)) = queue.filter (fun x => !decide (k.level ≤ x.level)) := by
    simp only [← decide_not, not_le]
  rw [insertPrompt, hlow, List.length_append, List.length_cons, ← Nat.add_assoc,
    ← List.length_eq_length_filter_add (fun x : PromptRec => decide (k.level ≤ x.level))]

theorem promptQueueEntry_passed {r : Request} {s : State} {p : Position} {cls : Fin 8} {start : StartCond} {h : Handle}
    {clip gain duck deadline repeats : Nat} (hpart : s.part = .running) (hcls : objectAt 8 r.body 3 = .ok cls)
    (hstart : byteAt r.body 4 = start.code) (hclip : clipIdAt r.body 1 = .ok clip)
    (hpos : activePosition s (byteAt r.body 0) = .ok p) (hon : (s.pos p).enabled = true) (hroom : (s.pos p).queue.length < 8)
    (hfree : s.free.min? = some h) (hfound : (lookupClip s.index clip).isSome = true) (hgain : wordAt r.body 5 = gain)
    (hduck : wordAt r.body 7 = duck) (hdeadline : wordAt r.body 9 = deadline) (hrepeats : byteAt r.body 11 = repeats) :
    let k : PromptRec :=
      { handle := h, clip := clip, cls := cls.val, level := s.classMap[cls], start := start, gain := min 32768 gain,
        duck := min 32768 duck, deadline := deadline, repeats := max 1 (min 8 repeats), played := 0, wait := 0,
        cancel := false, underruns := 0, state := .pending, result := none, stamp := 0 }
    promptQueueEntry r s = .ok
      { body := u8 h.val ++ u8 s.classMap[cls] ++
          u8 ((s.pos p).queue.filter (fun x => decide (s.classMap[cls] ≤ x.level))).length ++
          u8 ((s.pos p).queue.length + 1) ++ u8 (s.free.length - 1) ++ u16 (min 32768 gain) ++
          u16 (min 32768 duck) ++ u8 (max 1 (min 8 repeats)),
        state := promptJoined p k s } := by
  have hin : h ∈ s.free := List.min?_mem hfree
  simp only [promptQueueEntry, whenRunning, bind, Except.bind, require_eq_ok hpart, hcls, hstart, startOf_code, need_some, hclip,
    hpos, require_eq_ok hon, require_eq_ok hroom, hfree, require_eq_ok hfound, hgain, hduck, hdeadline, hrepeats, clampGain,
    clampTo, insertPrompt_length, List.length_erase_of_mem hin]
  rfl

/-- Settles O44: the lowest free handle goes to the record, and the split of the queue at its level places it. -/
theorem promptQueueInsertsByLevel : Obligations.PromptQueueInsertsByLevel := by
  unfold Obligations.PromptQueueInsertsByLevel
  intro s r rest p clip gain duck deadline repeats cls start h hdue hpart hbody hclip hfirst hgain hduck hdeadline hrepeats hp hon
    hroom hin hleast hfound
  refine row_accepted (entry := promptQueueEntry) (fun _ => rfl) hdue (by rw [hbody]; rfl) (.inl (.inr hpart)) rfl fun x =>
    (promptQueueEntry_passed (s := s.setLink x) (p := p) (cls := cls) (start := start) (clip := clip) (gain := gain) (duck := duck)
      (deadline := deadline) (repeats := repeats) hpart (objectAt_ok ?_) ?_ (clipIdAt_ok ?_ hfirst (by omega)) ?_ hon hroom
      (min?_eq_of_least hin hleast) hfound ?_ ?_ ?_ ?_).trans rfl
  · rw [hbody]; exact byteAt_u8 (by omega)
  · rw [hbody]; exact byteAt_u8 start.code_lt
  · rw [hbody]; exact wordAt_u16 (by omega)
  · rw [hbody]; exact (congrArg _ (byteAt_u8 (by omega))).trans (activePosition_ok hp)
  · rw [hbody]; exact wordAt_u16 hgain
  · rw [hbody]; exact wordAt_u16 hduck
  · rw [hbody]; exact wordAt_u16 hdeadline
  · rw [hbody]; exact byteAt_u8 hrepeats

end Sys2Proof.Machine
end

section
/-! PROOF. The queries (R32, R33, R74, R97, R121, R161, R174, R188, R190), the commands that move one counter (R43, R47, R49, R65,
R91, R157), the words of a read (R129, R130), and the pulses and marks of the frame clock (R178 to R183). -/

namespace Sys2Proof.Machine

/-! ## Queries -/

section
variable {c : Instr} {k : Byte} {r : Request} {rest : List Request} {s : State} {entry : Request → State → Except ResultCode Taken}
  {body : List Byte}

/-- R195: a query whose entry takes no notice of the link. -/
theorem row_queried (hexec : ∀ s, exec c s = .next (executeHead k entry s)) (hdue : HeadDue k r rest s)
    (hfit : bodyFits k.toNat r.body = some true) (hs : Serving s)
    (he : ∀ x : Link, entry r (s.setLink x) = .ok { body := body, state := s.setLink x }) :
    exec c s = .next (answered r rest .ok body s) := row_accepted hexec hdue hfit (.inl hs) rfl he

end

/-- The entries of a fixed table in order. -/
theorem toList_eq_map_finRange {α : Type} {n : Nat} (v : Vector α n) : v.toList = (List.finRange n).map (fun i => v[i]) :=
  List.ext_getElem (by simp) fun i _ _ => by simp

theorem vcount_eq_filter {α : Type} {n : Nat} (f : α → Bool) (v : Vector α n) :
    vcount f v = ((List.finRange n).filter (fun i => f v[i])).length := by
  rw [vcount, toList_eq_map_finRange, List.filter_map, List.length_map]
  rfl

theorem foldl_add_eq_sum {α : Type} (f : α → Nat) (l : List α) (n : Nat) :
    l.foldl (fun n x => n + f x) n = n + (l.map f).sum := by
  induction l generalizing n with
  | nil => rfl
  | cons x l ih => rw [List.foldl_cons, ih, List.map_cons, List.sum_cons, Nat.add_assoc]

theorem heldOn_eq (s : State) (m : Source) :
    heldOn s m = ((List.finRange 24).filter (fun l => decide ((s.leg l).state = .held ∧ (s.leg l).source = some m))).length := by
  rw [heldOn, vcount_eq_filter]
  refine congrArg (fun f => ((List.finRange 24).filter f).length) (funext fun l => ?_)
  exact Bool.eq_iff_iff.2 (by rw [decide_eq_true_iff]; simp [State.leg])

theorem enabledCount_eq (s : State) : enabledCount s = ((List.finRange 16).filter (fun p => (s.pos p).enabled)).length :=
  vcount_eq_filter _ _

theorem legCosts_eq (s : State) : legCosts s = (s.work.list.map (fun l => (s.leg l).tail / 16 + 4)).sum := by
  rw [legCosts, foldl_add_eq_sum, Nat.zero_add]
  rfl

theorem Member.codes_eq (m : Member) :
    m.codes = match m with | .leg l => [0, BitVec.ofNat 8 l.val] | .pos p => [1, BitVec.ofNat 8 p.val] := by
  cases m <;> rfl

theorem maskBits_eq (st : Stage) : maskBits st = (if st.nextFrame then 1 else 0) + (if st.applyLine then 2 else 0) :=
  bits_two _ _

theorem classOf_code (c : ChangeClass) : classOf c.code = some c := by cases c <;> rfl

theorem ChangeClass.code_lt (c : ChangeClass) : c.code < 256 := by cases c <;> decide

theorem portOf_code (p : Port) : portOf p.code = some p := by cases p <;> rfl

theorem Port.code_lt (p : Port) : p.code < 256 := by cases p <;> decide

theorem classOf_byte {b : List Byte} {c : ChangeClass} (h : b = u8 c.code) : classOf (byteAt b 0) = some c := by
  rw [h, byteAt_u8 c.code_lt, classOf_code]

theorem portOf_byte {b : List Byte} {p : Port} (h : b = u8 p.code) : portOf (byteAt b 0) = some p := by
  rw [h, byteAt_u8 p.code_lt, portOf_code]

theorem activePosition_byte {s : State} {b : List Byte} {p : Position} (h : b = u8 p.val) (hp : p.val < activeCount s.straps) :
    activePosition s (byteAt b 0) = .ok p := by
  rw [h, byteAt_u8 (by omega), activePosition_ok hp]

/-- R32: the fields of a position. -/
theorem positionQueryEntry_passed {r : Request} {s : State} {p : Position} (hb : r.body = u8 p.val)
    (hp : p.val < activeCount s.straps) :
    positionQueryEntry r s = .ok
      { body := u8 p.val ++ flag (s.pos p).enabled ++ u8 (s.pos p).role.code ++ flag (s.pos p).muted ++ flag (quietBit s p) ++
          flag ((s.pos p).enabled && (s.pos p).available) ++ u16 (s.pos p).sendGain ++ u16 (s.pos p).sidetone ++
          orAbsent (s.pos p).group ++ supervisionPart s p ++ u16 (s.pos p).duck ++
          flag ((s.pos p).enabled && (s.pos p).mic.vad),
        state := s } := by
  simp only [positionQueryEntry, activePosition_byte hb hp, bind, Except.bind]
  rfl

theorem u40_zero : u40 0 = List.replicate 5 0 := rfl

/-- R74: absent floors are sent as zeros. -/
theorem floors_bytes (m : Mic) :
    m.floors.toList.flatMap (fun n => u40 (if m.floorsSet then n else 0)) =
      if m.floorsSet then u40 m.floors.b1 ++ u40 m.floors.b2 ++ u40 m.floors.b3 ++ u40 m.floors.b4
      else List.replicate 20 0 := by
  cases m.floorsSet <;> simp [Bands.toList, u40_zero]

theorem micQueryEntry_passed {r : Request} {s : State} {p : Position} (hb : r.body = u8 p.val)
    (hp : p.val < activeCount s.straps) :
    micQueryEntry r s = .ok
      { body := u8 p.val ++ flag (s.pos p).enabled ++ u16 (s.pos p).mic.trim ++ i16 (s.pos p).mic.offset ++
          u16 (s.pos p).mic.floorGain ++ u16 (s.pos p).sidetone ++ (s.pos p).mic.energies.toList.flatMap u40 ++
          flag (s.pos p).mic.floorsSet ++
          (s.pos p).mic.floors.toList.flatMap (fun n => u40 (if (s.pos p).mic.floorsSet then n else 0)) ++
          (s.pos p).mic.gains.toList.flatMap u16 ++ (s.pos p).mic.speech.toList.flatMap flag ++
          flag (s.pos p).mic.speechFrame ++ u8 (s.pos p).mic.vadHangover ++ flag (s.pos p).mic.vad ++ flag (s.pos p).muted ++
          flag (quietBit s p) ++ flag s.quietLevel ++ flag ((s.pos p).enabled && (s.pos p).available),
        state := s } := by
  simp only [micQueryEntry, activePosition_byte hb hp, bind, Except.bind]
  rfl

theorem sourceQueryEntry_passed {r : Request} {s : State} {m : Source} (hb : r.body = u8 m.val) :
    sourceQueryEntry r s = .ok
      { body := u8 m.val ++ u8 (s.src m).kind.code ++ u8 (s.src m).state.code ++ u16 (s.src m).level ++
          u8 (s.src m).cmd.code ++ u8 (heldOn s m) ++ u16 (s.src m).ring.length ++ u16 (s.src m).lowMark ++
          flag (s.src m).lowArmed ++ u16 ((s.src m).clip.getD 0) ++ locationBytes (s.src m).captured ++
          u32 (s.src m).index ++ u8 (s.src m).phase.code ++ u16 (s.src m).next ++ halfBytes (s.src m).half0 ++
          halfBytes (s.src m).half1 ++ flag (s.src m).retryDue ++ u16 (s.src m).step ++ u16 (s.src m).amplitude ++
          u16 (s.src m).onFrames ++ u16 (s.src m).offFrames ++ u16 (s.src m).tonePhase ++ u32 (s.src m).cadence,
        state := s } := by
  have hsource : objectAt 4 r.body 0 = .ok m := hb ▸ objectAt_u8 (by decide) m
  simp only [sourceQueryEntry, hsource, bind, Except.bind]
  rfl

/-- Settles O31: each entry reads the state past its field check, and the layouts agree field by field. -/
theorem queriesChangeNothing : Obligations.QueriesChangeNothing := by
  unfold Obligations.QueriesChangeNothing
  intro s r rest hserving
  refine ⟨fun p hdue hbody hp => ?_, fun g hdue hbody => ?_, fun p hdue hbody hp => ?_, fun m hdue hbody => ?_,
    fun p hdue hbody hp => ?_, fun hdue hbody => ?_, fun c hdue hbody => ?_, fun port hdue hbody => ?_, fun hdue hbody => ?_⟩
  · refine row_queried (entry := positionQueryEntry) (fun _ => rfl) hdue (by rw [hbody]; rfl) hserving fun x => ?_
    rw [positionQueryEntry_passed (s := s.setLink x) hbody hp]
    simp only [supervisionPart, asSupervisor, asAgent, State.setLink_supervision, State.pos_setLink]
    -- R213: role and group are each a number, and a record as supervisor comes before one as agent.
    rcases s.supervision.find? (fun k => k.supervisor == p) with _ | own <;>
      rcases s.supervision.find? (fun k => k.agent == p) with _ | other <;>
        rcases (s.pos p).role with _ | _ <;> rcases (s.pos p).group with _ | group <;> rfl
  · refine row_queried (entry := groupQueryEntry) (fun _ => rfl) hdue (by rw [hbody]; rfl) hserving fun x => ?_
    have hgroup : objectAt 16 r.body 0 = .ok g := hbody ▸ objectAt_u8 (by decide) g
    have hcodes : Member.codes = _ := funext Member.codes_eq
    simp only [groupQueryEntry, hgroup, bind, Except.bind, hcodes]
    rfl
  · refine row_queried (entry := micQueryEntry) (fun _ => rfl) hdue (by rw [hbody]; rfl) hserving fun x => ?_
    rw [micQueryEntry_passed (s := s.setLink x) hbody hp, floors_bytes]
    simp only [Bands.toList, List.flatMap_cons, List.flatMap_nil, List.append_nil, ← List.append_assoc]
    rfl
  · refine row_queried (entry := sourceQueryEntry) (fun _ => rfl) hdue (by rw [hbody]; rfl) hserving fun x => ?_
    rw [sourceQueryEntry_passed (s := s.setLink x) hbody]
    have hheld : heldOn (s.setLink x) m = _ := heldOn_eq s m
    simp only [hheld, SourceRec.captured, State.src_setLink]
    -- R97: the location of a pending START comes before the one in force.
    rcases (s.src m).clip with _ | clip <;> rcases (s.src m).cmd with _ | (_ | start) | _ <;>
      rcases (s.src m).loc with _ | loc <;> rfl
  · refine row_queried (entry := promptQueryEntry) (fun _ => rfl) hdue (by rw [hbody]; rfl) hserving fun x => ?_
    have hactive : activePosition (s.setLink x) (byteAt r.body 0) = .ok p := activePosition_byte hbody hp
    simp only [promptQueryEntry, hactive, bind, Except.bind, State.pos_setLink]
    rcases (s.pos p).slot with _ | pl
    · simp only [slotBytes, List.append_assoc]
      rfl
    · simp only [slotBytes, ← List.append_assoc]
      rfl
  · refine row_queried (entry := budgetQueryEntry) (fun _ => rfl) hdue (by rw [hbody]; rfl) hserving fun x => ?_
    simp only [budgetQueryEntry, enabledCount_eq, legCosts_eq, serviceBytes, ← List.append_assoc]
    rfl
  · refine row_queried (entry := stageQueryEntry) (fun _ => rfl) hdue (by rw [hbody]; rfl) hserving fun x => ?_
    simp only [stageQueryEntry, classOf_byte hbody, need_some, bind, Except.bind, List.flatMap_cons, List.flatMap_nil, maskBits_eq]
    have hbytes : changeBytes = fun y => u8 y.op.kind ++ [y.tag] ++ u32 y.arrival.toNat ++
        (match y.op.subject.1 with | .leg l => [0, BitVec.ofNat 8 l.val] | .pos p => [1, BitVec.ofNat 8 p.val]) ++
        u8 (match y.op.subject.2 with | some g => g.val | none => 0xFF) := funext fun y => by
      rw [changeBytes]
      rcases y.op.subject with ⟨_ | _, _ | _⟩ <;> rfl
    rw [hbytes, State.stage_setLink]
    rfl
  · refine row_queried (entry := portTestReadEntry) (fun _ => rfl) hdue (by rw [hbody]; rfl) hserving fun x => ?_
    simp only [portTestReadEntry, portOf_byte hbody, need_some, bind, Except.bind, State.test_setLink, testBytes]
    cases hstate : (s.test port).state <;> cases hdir : (s.test port).dir <;> cases hexp : (s.test port).expected <;> rfl
  · refine row_queried (entry := syncQueryEntry) (fun _ => rfl) hdue (by rw [hbody]; rfl) hserving fun x => ?_
    cases hstate : s.sync.state <;> simp only [syncQueryEntry, State.setLink_sync, hstate] <;> rfl

/-! ## Counters (R43, R47, R49, R65, R91, R157) -/

/-- Settles O35: each row is due one step short of its limit, and takes the step its frame step takes. -/
theorem countersReachTheirLimits : Obligations.CountersReachTheirLimits := by
  unfold Obligations.CountersReachTheirLimits
  intro s hhold
  refine ⟨fun l hlive hone => ?_, fun l hlive hone => ?_, fun p hon hone => ?_, fun m hkind hplaying hshort => ?_,
    fun l hin harmed hdebt => ?_, fun l n hlive hshort hn => ?_⟩
  · refine congrArg Host.Outcome.next ((if_pos ⟨hhold, live_of_ne_closed hlive, hone⟩).trans ?_)
    simp [stepHangover, countDown, hone]
  · refine congrArg Host.Outcome.next ((if_pos ⟨hhold, live_of_ne_closed hlive, hone⟩).trans ?_)
    simp [countDown, hone]
  · refine congrArg Host.Outcome.next ((if_pos ⟨hhold, hon, hone⟩).trans ?_)
    simp [stepVadHangover, countDown, hone]
  · refine congrArg Host.Outcome.next ((if_pos ⟨hhold, hkind, hplaying, hshort.ge⟩).trans ?_)
    rw [stepCadence, if_pos hshort.ge]
  · have hraised : satInc 65535 (s.leg l).work.debt = 250 := by rw [hdebt]; rfl
    refine congrArg Host.Outcome.next ((if_pos ⟨hhold, hin, harmed, hraised.ge⟩).trans ?_)
    simp [settleDebt, hraised, harmed]
  · refine congrArg Host.Outcome.next ((if_pos ⟨hhold, live_of_ne_closed hlive, hshort.ge⟩).trans ?_)
    subst hn
    simp only [divergenceResetOf, clearTaps_eq]
    rfl

/-! ## The words of a read (R122, R123, R129, R130) -/

theorem Read.open_eq_false {x : Read} (h : x.failed.isSome = true ∨ x.item.count ≤ 2 * x.words.length) : x.open = false := by
  rcases h with h | h
  · simp [Read.open, h, ← Option.not_isSome]
  · simp [Read.open, Read.complete, h]

theorem Read.open_eq_true {x : Read} (hnone : x.failed = none) (hshort : 2 * x.words.length < x.item.count) : x.open = true := by
  simp [Read.open, Read.complete, hnone, hshort]

theorem onCurrentRead_first (f : Read → Read) {done : List Read} (hdone : ∀ y ∈ done, y.open = false) {x : Read}
    (hx : x.open = true) (later : List Read) : onCurrentRead f (done ++ x :: later) = done ++ f x :: later := by
  induction done with
  | nil => exact if_pos hx
  | cons y done ih =>
    have hy := hdone y (by simp)
    rw [List.cons_append, onCurrentRead, hy, ih fun z hz => hdone z (by simp [hz])]
    rfl

/-- Settles O51: the first read not decided is the one the bus shows, the words reach and the timeout ends. -/
theorem readsTakeWordsOrTimeOut : Obligations.ReadsTakeWordsOrTimeOut := by
  unfold Obligations.ReadsTakeWordsOrTimeOut
  refine ⟨fun s hidle => ?_, fun s done later x hhold hreads hdone hnone hshort => ?_⟩
  · rw [State.memoryBus, Option.map_eq_none_iff, State.busRead]
    split
    next hhold =>
      have hdecided := hidle.resolve_left (not_not.2 (Option.isNone_iff_eq_none.1 hhold))
      exact List.find?_eq_none.2 fun y hy => by simp [Read.open_eq_false (hdecided y hy)]
    next => rfl
  · have hopen := Read.open_eq_true hnone hshort
    have hdecided : ∀ y ∈ done, y.open = false := fun y hy => Read.open_eq_false (hdone y hy)
    have hcurrent : ∀ f, onCurrentRead f s.reads = done ++ f x :: later := fun f => by
      rw [hreads, onCurrentRead_first f hdecided hopen]
    refine ⟨?_, fun words => ?_, fun hready => ?_, fun hready => ?_⟩
    · have hfirst : s.busRead = some x := by
        rw [State.busRead, hhold, hreads, List.find?_append, List.find?_eq_none.2 fun y hy => by simp [hdecided y hy],
          List.find?_cons_of_pos hopen]
        rfl
      rw [State.memoryBus, hfirst]
      rfl
    · exact congrArg Host.Outcome.next ((if_pos hhold).trans (by rw [hcurrent]; rfl))
    · exact congrArg Host.Outcome.next ((if_pos hhold).trans (by rw [hcurrent, timeoutWord, if_pos hready]; rfl))
    · have hsame : timeoutWord x = x := by simp [timeoutWord, hready]
      exact congrArg Host.Outcome.next ((if_pos hhold).trans (by rw [hcurrent, hsame, ← hreads]))

/-! ## Sync (R181 to R183) -/

theorem clockRuns_of_serving {s : State} (hhold : s.hold = none) (hs : Serving s) : s.clockRuns = true := by
  rcases hs with h | h <;> simp [State.clockRuns, hhold, h]

theorem exec_nsyncPulse {s : State} (since : Nat) (hhold : s.hold = none) (hs : Serving s) :
    exec (.nsyncPulse since) s = .next (takePulse since s) :=
  congrArg Host.Outcome.next (if_pos (clockRuns_of_serving hhold hs))

theorem relockSync_eq {s : State} (h : s.sync.slips < 65535) :
    relockSync s = raise 0 (.sync .locked (s.sync.slips + 1) s.sync.losses) { s with
      sync := { state := .locked, seeking := 0, slips := s.sync.slips + 1, losses := s.sync.losses }
      clock := { s.clock with prolonged := true } } := by
  simp only [relockSync, raiseSync, satInc, if_pos h]

/-- Settles O57: the sync state decides what a pulse does, and the 64th in SEEKING is the relock. -/
theorem syncIsLostAndRegained : Obligations.SyncIsLostAndRegained := by
  unfold Obligations.SyncIsLostAndRegained
  intro s hhold hs
  have hruns := clockRuns_of_serving hhold hs
  refine ⟨fun since hlost => ?_, fun since hseeking hshort => ?_, fun hseeking hlast hslips => ?_, fun hkept hlosses => ?_⟩
  · rw [exec_nsyncPulse since hhold hs, takePulse, hlost]
  · rw [exec_nsyncPulse since hhold hs, takePulse, hseeking]
    exact congrArg Host.Outcome.next (if_neg (by omega))
  · refine ⟨relockSync s, congrArg Host.Outcome.next (if_pos ⟨hruns, hseeking, hlast⟩), fun since => ?_, relockSync_eq hslips⟩
    rw [exec_nsyncPulse since hhold hs, takePulse, hseeking]
    exact congrArg Host.Outcome.next (if_pos hlast.ge)
  · refine congrArg Host.Outcome.next ((if_pos ⟨hruns, hkept⟩).trans ?_)
    simp only [loseSync, raiseSync, satInc, if_pos hlosses]

/-! ## Marks (R178, R183) -/

theorem beginPeriod_plain (kind : MarkKind) {c : Clock} (hdue : c.due = none) (hp : c.prolonged = false) :
    beginPeriod kind c =
      { period := if c.period = 63 then 0 else c.period + 1, mark := kind, carried := false, prolonged := false,
        due := if c.period = 63 then some .whole else none } := by
  by_cases h : c.period = 63 <;> simp [beginPeriod, hp, h, hdue]

theorem beginPeriod_prolonged (kind : MarkKind) {c : Clock} (hp : c.prolonged = true) :
    beginPeriod kind c =
      { period := 0, mark := kind, carried := false, prolonged := false, due := some (.relock c.period) } := if_pos hp

/-- Settles O58: a mark of a carried period moves the clock alone, by whether the period was prolonged. -/
theorem marksCountThePeriods : Obligations.MarksCountThePeriods := by
  unfold Obligations.MarksCountThePeriods
  intro s hhold hs hcarried hdue
  have hruns := clockRuns_of_serving hhold hs
  have marked : ∀ kind, markPeriod kind s = s.setClock (beginPeriod kind s.clock) := fun kind =>
    markPeriod_carried kind s hdue hcarried
  have pulsed : ∀ since, s.sync.state = .locked → exec (.nsyncPulse since) s =
      .next (if pulseMarks since s.clock then markPeriod .pulse s else s) := fun since hlocked => by
    rw [exec_nsyncPulse since hhold hs, takePulse, hlocked]
  refine ⟨fun since hlocked hlate hp => ?_, fun since hlocked hp => ?_, fun since hlocked hearly hp => ?_, fun hlocked hp => ?_,
    fun hfree hp => ?_, fun hfree hp => ?_⟩
  · rw [pulsed since hlocked, if_pos (by simp [pulseMarks, hlate]), marked, beginPeriod_plain _ hdue hp]
  · rw [pulsed since hlocked, if_pos (by simp [pulseMarks, hp]), marked, beginPeriod_prolonged _ hp]
  · rw [pulsed since hlocked, if_neg (by simpa [pulseMarks, hp] using hearly)]
  · refine congrArg Host.Outcome.next ((if_pos ⟨hruns, hlocked, hp⟩).trans ?_)
    rw [marked, beginPeriod_plain _ hdue hp]
  · refine congrArg Host.Outcome.next ((if_pos ⟨hruns, hfree⟩).trans ?_)
    rw [marked, beginPeriod_plain _ hdue hp]
  · refine congrArg Host.Outcome.next ((if_pos ⟨hruns, hfree⟩).trans ?_)
    rw [marked, beginPeriod_prolonged _ hp]

end Sys2Proof.Machine
end

section
/-! PROOF. The clip index under lookup, replacement and removal (R126, R127), CLIP_DECLARE, CLIP_FORGET and CLIP_LOOKUP (R141 to
R143), and STAGE_MODE, APPLY, an edge on APPLY and DISCARD (R165, R171 to R173). -/

namespace Sys2Proof.Machine

/-! ## The index (R126, R127, R141) -/

theorem indexCount_eq_length (ix : Vector (List IndexEntry) 128) : indexCount ix = ix.toList.flatten.length := by
  rw [indexCount_eq, List.length_flatten]

theorem toList_vmap {α β : Type} {n : Nat} (f : α → β) (v : Vector α n) : (vmap f v).toList = v.toList.map f := rfl

theorem indexCount_keepEntries (keep : IndexEntry → Bool) (ix : Vector (List IndexEntry) 128) :
    indexCount (keepEntries keep ix) = (ix.toList.flatten.filter keep).length := by
  rw [indexCount_eq_length, keepEntries, toList_vmap, List.filter_flatten]

theorem length_flatten_set {α : Type} {l : List (List α)} {i : Nat} (h : i < l.length) (b : List α) :
    (l.set i b).flatten.length + l[i].length = l.flatten.length + b.length := by
  induction l generalizing i with
  | nil => exact absurd h (Nat.not_lt_zero i)
  | cons a l ih =>
    cases i with
    | zero => simp only [List.set_cons_zero, List.flatten_cons, List.length_append, List.getElem_cons_zero]; omega
    | succ i =>
      have := ih (i := i) (by simpa using h)
      simp only [List.set_cons_succ, List.flatten_cons, List.length_append, List.getElem_cons_succ]
      omega

theorem lookupClip_id {ix : Vector (List IndexEntry) 128} {id : Nat} {e : IndexEntry} (h : lookupClip ix id = some e) : e.id = id := by
  simpa using List.find?_some h

theorem lookupClip_at {ix : Vector (List IndexEntry) 128} {id : Nat} {b : Fin 128} (h : bucketOf id = b) :
    lookupClip ix id = ix[b].find? (fun e => e.id == id) := by
  subst h
  rfl

/-- R141: the bucket's list with the entry in it. -/
def bucketPut (e : IndexEntry) (b : List IndexEntry) : List IndexEntry :=
  if (b.find? (fun x => x.id == e.id)).isSome then b.map (fun x => if x.id == e.id then e else x) else b ++ [e]

theorem putEntry_eq (e : IndexEntry) (ix : Vector (List IndexEntry) 128) :
    putEntry e ix = ix.set (bucketOf e.id) (bucketPut e ix[bucketOf e.id]) := rfl

theorem putEntry_bucket (e : IndexEntry) (ix : Vector (List IndexEntry) 128) :
    (putEntry e ix)[bucketOf e.id] = bucketPut e ix[bucketOf e.id] := by
  simp [putEntry_eq]

theorem putEntry_otherBucket {e : IndexEntry} {ix : Vector (List IndexEntry) 128} {k : Fin 128} (h : k ≠ bucketOf e.id) :
    (putEntry e ix)[k] = ix[k] := by
  have : (bucketOf e.id).val ≠ k.val := fun heq => h (Fin.ext heq.symm)
  simp [putEntry_eq, this]

theorem bucketPut_length (e : IndexEntry) (b : List IndexEntry) :
    (bucketPut e b).length = b.length + if (b.find? (fun x => x.id == e.id)).isSome = true then 0 else 1 := by
  rw [bucketPut]
  split <;> simp

theorem find?_bucketPut_self (e : IndexEntry) (b : List IndexEntry) : (bucketPut e b).find? (fun x => x.id == e.id) = some e := by
  have key : ∀ b : List IndexEntry, (b.find? (fun x => x.id == e.id)).isSome →
      (b.map (fun x => if x.id == e.id then e else x)).find? (fun x => x.id == e.id) = some e := by
    intro b
    induction b with
    | nil => simp
    | cons x b ih =>
      intro h
      by_cases hx : x.id = e.id
      · simp [hx]
      · have hb : (b.find? (fun x => x.id == e.id)).isSome := by simpa [List.find?_cons, hx] using h
        have hne : (x.id == e.id) = false := by simpa using hx
        rw [List.map_cons, hne, List.find?_cons, if_neg (by simp), hne]
        exact ih hb
  rw [bucketPut]
  split
  next h => exact key b h
  next h => simp [Option.not_isSome_iff_eq_none.1 h]

theorem find?_bucketPut_other (e : IndexEntry) (b : List IndexEntry) {k : Nat} (hk : k ≠ e.id) :
    (bucketPut e b).find? (fun x => x.id == k) = b.find? (fun x => x.id == k) := by
  have hek : (e.id == k) = false := by simpa using hk.symm
  have key : (b.map (fun x => if x.id == e.id then e else x)).find? (fun x => x.id == k) = b.find? (fun x => x.id == k) := by
    induction b with
    | nil => rfl
    | cons x b ih =>
      by_cases hx : x.id = e.id
      · have hxk : (x.id == k) = false := by rw [hx]; exact hek
        rw [List.map_cons, if_pos (by simpa using hx), List.find?_cons_of_neg (by simpa using hk.symm),
          List.find?_cons_of_neg (by simpa using hxk), ih]
      · rw [List.map_cons, if_neg (by simpa using hx), List.find?_cons, List.find?_cons, ih]
  rw [bucketPut]
  split
  · exact key
  · simp [hek]

theorem lookupClip_putEntry_self (e : IndexEntry) (ix : Vector (List IndexEntry) 128) :
    lookupClip (putEntry e ix) e.id = some e := by
  rw [lookupClip, putEntry_bucket, find?_bucketPut_self]

theorem lookupClip_putEntry_other (e : IndexEntry) (ix : Vector (List IndexEntry) 128) {k : Nat} (hk : k ≠ e.id) :
    lookupClip (putEntry e ix) k = lookupClip ix k := by
  rcases eq_or_ne (bucketOf k) (bucketOf e.id) with hb | hb
  · rw [lookupClip_at hb, lookupClip_at hb, putEntry_bucket, find?_bucketPut_other e _ hk]
  · rw [lookupClip, lookupClip, putEntry_otherBucket hb]

/-- R141: an entry more in the bucket and in the whole index, unless it replaces one. -/
theorem putEntry_bucket_length (e : IndexEntry) (ix : Vector (List IndexEntry) 128) :
    (putEntry e ix)[bucketOf e.id].length =
      ix[bucketOf e.id].length + if (lookupClip ix e.id).isSome = true then 0 else 1 := by
  rw [putEntry_bucket, bucketPut_length, lookupClip]

theorem indexCount_putEntry (e : IndexEntry) (ix : Vector (List IndexEntry) 128) :
    indexCount (putEntry e ix) = ix.toList.flatten.length + if (lookupClip ix e.id).isSome = true then 0 else 1 := by
  have hset := length_flatten_set (l := ix.toList) (i := (bucketOf e.id).val) (by simp) (bucketPut e ix[bucketOf e.id])
  have hlen := bucketPut_length e ix[bucketOf e.id]
  rw [indexCount_eq_length, putEntry_eq, lookupClip]
  have hget : ix.toList[(bucketOf e.id).val]'(by simp) = ix[bucketOf e.id] := by simp
  rw [hget] at hset
  have hlist : (ix.set (bucketOf e.id) (bucketPut e ix[bucketOf e.id])).toList =
      ix.toList.set (bucketOf e.id).val (bucketPut e ix[bucketOf e.id]) := by simp [Vector.toList_set]
  rw [hlist]
  omega

theorem lookupClip_keepEntries_gone (ix : Vector (List IndexEntry) 128) (id : Nat) :
    lookupClip (keepEntries (fun x => x.id != id) ix) id = none := by
  rw [lookupClip, keepEntries, vmap_get, List.find?_eq_none]
  intro x hx
  simpa using (List.mem_filter.1 hx).2

theorem lookupClip_keepEntries_other (ix : Vector (List IndexEntry) 128) {id k : Nat} (hk : k ≠ id) :
    lookupClip (keepEntries (fun x => x.id != id) ix) k = lookupClip ix k := by
  rw [lookupClip, lookupClip, keepEntries, vmap_get, List.find?_filter]
  congr 1
  funext x
  by_cases hx : x.id = k <;> simp [hx, hk]

/-! ## CLIP_DECLARE, CLIP_FORGET and CLIP_LOOKUP (R141 to R143) -/

theorem longAt_u32 {n : Nat} (h : n < 4294967296) (b : List Byte) : longAt (u32 n ++ b) 0 = n := by
  have hhigh : wordAt (u16 (n / 65536) ++ (u16 n ++ b)) 0 = n / 65536 := wordAt_u16_append_zero (by omega) _
  have hlow : wordAt (u16 n ++ b) 0 = n % 65536 := by
    simp only [wordAt, byteAt, u16, List.cons_append, List.getD_cons_zero, List.getD_cons_succ, BitVec.toNat_ofNat]
    omega
  have hskip : wordAt (u16 (n / 65536) ++ (u16 n ++ b)) 2 = wordAt (u16 n ++ b) 0 := rfl
  rw [longAt, u32, List.append_assoc, hhigh, Nat.zero_add, hskip, hlow]
  omega

theorem rateOf_code (rate : Rate) : rateOf rate.code = some rate := by cases rate <;> rfl

theorem Rate.code_lt (rate : Rate) : rate.code < 256 := by cases rate <;> decide

theorem validLocation_eq_true {a : Area} {offset length : Nat} (heven : offset % 2 = 0) (hsome : 1 ≤ length)
    (hend : offset + 2 * length ≤ a.size * 65536) : validLocation a offset length = true := by
  simp [validLocation, heven, hsome, hend]

theorem clipDeclareEntry_passed {r : Request} {s : State} {id offset length : Nat} {no : AreaNo} {rate : Rate}
    (hid : clipIdAt r.body 0 = .ok id) (hno : objectAt 4 r.body 2 = .ok no) (hrate : byteAt r.body 3 = rate.code)
    (hoffset : longAt r.body 4 = offset) (hlength : longAt r.body 8 = length) (hsane : offset % 2 = 0 ∧ 1 ≤ length)
    (hon : (s.area no).enable = true) (hvalid : validLocation (s.area no) offset length = true)
    (hroom : (lookupClip s.index id).isSome = true ∨ (s.index[bucketOf id]).length < 4) :
    let e : IndexEntry := { id := id, loc := { area := no, offset := offset, length := length, rate := rate }, origin := .declared }
    clipDeclareEntry r s = .ok
      { body := u8 (bucketOf id).val ++ replacedBytes (lookupClip s.index id) ++ u8 ((putEntry e s.index)[bucketOf id]).length ++
          u16 (indexCount (putEntry e s.index)),
        state := { s with index := putEntry e s.index } } := by
  simp only [clipDeclareEntry, bind, Except.bind, hid, hno, hrate, rateOf_code, need_some, hoffset, hlength, require_eq_ok hsane,
    require_eq_ok hon, require_eq_ok hvalid, require_eq_ok hroom]
  rfl

theorem clipForgetEntry_passed {r : Request} {s : State} {id : Nat} {e : IndexEntry} (hid : clipIdAt r.body 0 = .ok id)
    (hfound : lookupClip s.index id = some e) :
    clipForgetEntry r s = .ok
      { body := u8 e.origin.code ++ u16 (indexCount (keepEntries (fun x => x.id != id) s.index)),
        state := { s with index := keepEntries (fun x => x.id != id) s.index } } := by
  simp only [clipForgetEntry, bind, Except.bind, hid, hfound, need_some]
  rfl

theorem clipLookupEntry_passed {r : Request} {s : State} {id : Nat} {e : IndexEntry} (hid : clipIdAt r.body 0 = .ok id)
    (hfound : lookupClip s.index id = some e) :
    clipLookupEntry r s = .ok
      { state := s
        body := u16 e.id ++ u8 e.loc.area.val ++ u32 e.loc.offset ++ u32 e.loc.length ++ u8 e.loc.rate.code ++
          u8 e.origin.code ++ u8 (bucketOf id).val ++ u8 (s.index[bucketOf id]).length ++ u16 (indexCount s.index) } := by
  simp only [clipLookupEntry, bind, Except.bind, hid, hfound, need_some]
  rfl

theorem clipLookupEntry_missing {r : Request} {s : State} {id : Nat} (hid : clipIdAt r.body 0 = .ok id)
    (hfound : lookupClip s.index id = none) : clipLookupEntry r s = .error .noObject := by
  simp only [clipLookupEntry, bind, Except.bind, hid, hfound]
  rfl

/-- Settles O49: the entry of one clip ID is put in, taken out or read, and a lookup of any other ID searches as before. -/
theorem clipRequestsKeepTheIndex : Obligations.ClipRequestsKeepTheIndex := by
  unfold Obligations.ClipRequestsKeepTheIndex
  intro s r rest id hserving hfirst hlast
  have hidAt : ∀ b : List Byte, r.body = u16 id ++ b → clipIdAt r.body 0 = .ok id := fun b hbody =>
    clipIdAt_ok (by rw [hbody]; exact wordAt_u16_append_zero (by omega) b) hfirst hlast
  have halone : r.body = u16 id → clipIdAt r.body 0 = .ok id := fun hbody => hidAt [] (by simpa using hbody)
  refine ⟨fun no rate offset length hdue hbody hoffset hlength heven hsome hon hend hroom => ?_, fun e hdue hbody hfound => ?_,
    fun e hdue hbody hfound => ?_, fun hdue hbody hfound => ?_⟩
  · refine ⟨putEntry { id := id, loc := { area := no, offset := offset, length := length, rate := rate }, origin := .declared }
      s.index, ?_, lookupClip_putEntry_self _ _, fun k hk => lookupClip_putEntry_other _ _ hk⟩
    rw [← putEntry_bucket_length { id := id, loc := { area := no, offset := offset, length := length, rate := rate }, origin := .declared } s.index,
      ← indexCount_putEntry { id := id, loc := { area := no, offset := offset, length := length, rate := rate }, origin := .declared } s.index]
    refine row_accepted (entry := clipDeclareEntry) (fun _ => rfl) hdue (by rw [hbody]; rfl) (.inl hserving) rfl fun x =>
      (clipDeclareEntry_passed (s := s.setLink x) (no := no) (rate := rate) (offset := offset) (length := length)
        (hidAt (u8 no.val ++ u8 rate.code ++ u32 offset ++ u32 length) (by rw [hbody]; simp only [List.append_assoc])) (objectAt_ok ?_) ?_ ?_ ?_ ⟨heven, hsome⟩ hon
        (validLocation_eq_true heven hsome hend) hroom).trans ?_
    · rw [hbody]; exact byteAt_u8 (by omega)
    · rw [hbody]; exact byteAt_u8 rate.code_lt
    · rw [hbody]; exact longAt_u32 hoffset (u32 length)
    · rw [hbody]; exact longAt_u32 hlength []
    · simp only [State.setLink_index]
      cases lookupClip s.index id <;> rfl
  · refine ⟨keepEntries (fun x => x.id != id) s.index, ?_, lookupClip_keepEntries_gone _ _,
      fun k hk => lookupClip_keepEntries_other _ hk⟩
    rw [← indexCount_keepEntries]
    exact row_accepted (entry := clipForgetEntry) (fun _ => rfl) hdue (by rw [hbody]; rfl) (.inl hserving) rfl fun x =>
      (clipForgetEntry_passed (s := s.setLink x) (halone hbody) hfound).trans rfl
  · exact row_queried (entry := clipLookupEntry) (fun _ => rfl) hdue (by rw [hbody]; rfl) hserving fun x =>
      (clipLookupEntry_passed (s := s.setLink x) (halone hbody) hfound).trans rfl
  · exact row_refused (entry := clipLookupEntry) (fun _ => rfl) hdue (by rw [hbody]; rfl) (.inl hserving) fun x =>
      clipLookupEntry_missing (s := s.setLink x) (halone hbody) hfound

/-! ## The apply sources (R165, R171, R172) -/

theorem latchIfPending_eq (st : Stage) : latchIfPending st = { st with latch := st.latch || !st.list.isEmpty } := by
  rw [latchIfPending]
  cases h : st.list.isEmpty <;> simp

theorem edgeOn_eq (st : Stage) : edgeOn st = { st with latch := st.latch || (st.applyLine && !st.list.isEmpty) } := by
  obtain ⟨list, nextFrame, applyLine, latch⟩ := st
  cases applyLine
  · rw [Bool.false_and, Bool.or_false]; rfl
  · exact latchIfPending_eq _

theorem foldl_namedClasses (f : Stage → Stage) (sel : Nat) (s : State) :
    (namedClasses sel).foldl (fun s c => s.setStage c (f (s.stage c))) s =
      { s with routing := if sel.testBit 0 then f s.routing else s.routing
               levels := if sel.testBit 1 then f s.levels else s.levels
               echo := if sel.testBit 2 then f s.echo else s.echo } := by
  have hnamed : namedClasses sel = (if sel.testBit 0 then [ChangeClass.routing] else []) ++
      (if sel.testBit 1 then [ChangeClass.levels] else []) ++ (if sel.testBit 2 then [ChangeClass.echo] else []) := by
    simp only [namedClasses, selected, List.filter_cons, ChangeClass.code, List.filter_nil]
    cases sel.testBit 0 <;> cases sel.testBit 1 <;> cases sel.testBit 2 <;> rfl
  rw [hnamed]
  cases sel.testBit 0 <;> cases sel.testBit 1 <;> cases sel.testBit 2 <;> rfl

theorem mem_namedClasses {sel : Nat} {c : ChangeClass} : c ∈ namedClasses sel ↔ sel.testBit c.code = true := by
  cases c <;> simp [namedClasses, selected, List.mem_filter]

theorem filter_flatMap_eq {α β : Type} (p : α → Bool) (f : α → List β) (l : List α) :
    (l.filter p).flatMap f = l.flatMap (fun a => if p a then f a else []) := by
  induction l with
  | nil => rfl
  | cons a l ih => cases h : p a <;> simp [h, ih]

theorem namedClasses_flatMap (f : ChangeClass → List Byte) (sel : Nat) :
    (namedClasses sel).flatMap f =
      [ChangeClass.routing, .levels, .echo].flatMap (fun c => if sel.testBit c.code then f c else []) :=
  filter_flatMap_eq _ _ _

theorem bits_three (a b c : Bool) : bits [a, b, c] = (if a then 1 else 0) + (if b then 2 else 0) + (if c then 4 else 0) := by
  simp [mul_add, mul_ite, add_assoc]

theorem latch_of_selected (on : Bool) (st : Stage) :
    (if on then latchIfPending st else st) = { st with latch := st.latch || (on && !st.list.isEmpty) } := by
  rw [latchIfPending_eq]
  cases on <;> simp

/-- R172: the classes a selection byte latches: those it names whose lists are not empty. -/
def latchedClasses (sel : Nat) (s : State) : List ChangeClass := (namedClasses sel).filter (fun c => !(s.stage c).list.isEmpty)

theorem latchedClasses_contains (sel : Nat) (s : State) (c : ChangeClass) :
    (latchedClasses sel s).contains c = (sel.testBit c.code && !(s.stage c).list.isEmpty) := by
  rw [Bool.eq_iff_iff, List.contains_iff_mem, latchedClasses, List.mem_filter, mem_namedClasses, Bool.and_eq_true]

theorem latchedClasses_flatMap (f : ChangeClass → List Byte) (sel : Nat) (s : State) :
    (latchedClasses sel s).flatMap f =
      [ChangeClass.routing, .levels, .echo].flatMap
        (fun c => if sel.testBit c.code && !(s.stage c).list.isEmpty then f c else []) := by
  rw [latchedClasses, filter_flatMap_eq, namedClasses_flatMap]
  simp only [← ite_and, Bool.and_eq_true]

/-- R172: each class the selection byte names, latched where its list is not empty. -/
def latchNamed (sel : Nat) (s : State) : State :=
  { s with
    routing := { s.routing with latch := s.routing.latch || (sel.testBit 0 && !s.routing.list.isEmpty) }
    levels := { s.levels with latch := s.levels.latch || (sel.testBit 1 && !s.levels.list.isEmpty) }
    echo := { s.echo with latch := s.echo.latch || (sel.testBit 2 && !s.echo.list.isEmpty) } }

theorem latchNamed_eq (sel : Nat) (s : State) :
    (namedClasses sel).foldl (fun s c => s.setStage c (latchIfPending (s.stage c))) s = latchNamed sel s := by
  rw [foldl_namedClasses, latch_of_selected, latch_of_selected, latch_of_selected, latchNamed]

theorem latchNamed_list (sel : Nat) (s : State) (c : ChangeClass) : ((latchNamed sel s).stage c).list = (s.stage c).list := by
  cases c <;> rfl

theorem applyEntry_passed {r : Request} {s : State} {sel : Nat} (hsel : byteAt r.body 0 = sel) (hsome : sel % 8 ≠ 0) :
    let hit := fun c : ChangeClass => sel.testBit c.code && !(s.stage c).list.isEmpty
    applyEntry r s = .ok
      { body := u8 ((if hit .routing then 1 else 0) + (if hit .levels then 2 else 0) + (if hit .echo then 4 else 0)) ++
          [ChangeClass.routing, .levels, .echo].flatMap (fun c => if hit c then u8 (s.stage c).list.length else []),
        state := latchNamed sel s } := by
  intro hit
  have hbits : bits ([ChangeClass.routing, .levels, .echo].map (fun c => (latchedClasses sel s).contains c)) =
      (if hit .routing then 1 else 0) + (if hit .levels then 2 else 0) + (if hit .echo then 4 else 0) := by
    simp only [latchedClasses_contains]
    exact bits_three _ _ _
  have hbody : (latchedClasses sel s).flatMap (fun c => u8 (s.stage c).list.length) =
      [ChangeClass.routing, .levels, .echo].flatMap (fun c => if hit c then u8 (s.stage c).list.length else []) :=
    latchedClasses_flatMap _ sel s
  rw [← hbits, ← hbody]
  simp only [applyEntry, bind, Except.bind, hsel, require_eq_ok hsome, latchNamed_eq, latchNamed_list]
  rfl

/-! ## DISCARD (R173) -/

/-- R173: whether a close of the leg is among the changes. -/
def hasClose (l : Leg) (cs : List Change) : Prop := ∃ x ∈ cs, x.op = .legClose l

/-- R2, R173: the closing flag goes with the close. -/
def LegRec.unclosed (r : LegRec) : LegRec := { r with closing := false }

theorem hasClose_cons {l : Leg} {c : Change} {cs : List Change} : hasClose l (c :: cs) ↔ c.op = .legClose l ∨ hasClose l cs := by
  simp [hasClose]

/-- R173: one change given up. -/
theorem clearClosing_cons (c : Change) (cs : List Change) (s : State) :
    clearClosing (c :: cs) s = clearClosing cs (clearClosing [c] s) := rfl

theorem clearClosing_close {c : Change} {l : Leg} (h : c.op = .legClose l) (s : State) :
    clearClosing [c] s = s.setLeg l (s.leg l).unclosed := by
  simp only [clearClosing, List.foldl_cons, List.foldl_nil, h]
  rfl

theorem clearClosing_other {c : Change} (h : ∀ l, c.op ≠ .legClose l) (s : State) : clearClosing [c] s = s := by
  obtain ⟨tag, arrival, op⟩ := c
  cases op
  case legClose l => exact absurd rfl (h l)
  all_goals rfl

/-- A leg whose closing flag is cleared where P holds, and that stays as it is elsewhere. -/
def Unclosed (P : Prop) (s t : State) (l : Leg) : Prop :=
  (P → t.leg l = (s.leg l).unclosed) ∧ (¬ P → t.leg l = s.leg l)

theorem Unclosed.congr {P Q : Prop} {s t : State} {l : Leg} (h : Unclosed P s t l) (hpq : P ↔ Q) : Unclosed Q s t l :=
  ⟨fun hq => h.1 (hpq.2 hq), fun hq => h.2 fun hp => hq (hpq.1 hp)⟩

theorem Unclosed.trans {P Q : Prop} {s t u : State} {l : Leg} (h : Unclosed P s t l) (k : Unclosed Q t u l) :
    Unclosed (P ∨ Q) s u l := by
  constructor
  · intro hpq
    by_cases hq : Q
    · rw [k.1 hq]
      by_cases hp : P
      · rw [h.1 hp]; rfl
      · rw [h.2 hp]
    · rw [k.2 hq, h.1 (hpq.resolve_right hq)]
  · intro hpq
    rw [k.2 fun hq => hpq (.inr hq), h.2 fun hp => hpq (.inl hp)]

theorem clearClosing_one (c : Change) (s : State) (l : Leg) : Unclosed (c.op = .legClose l) s (clearClosing [c] s) l := by
  by_cases h : ∃ k, c.op = .legClose k
  · obtain ⟨k, hk⟩ := h
    rw [clearClosing_close hk, hk]
    by_cases hkl : k = l
    · subst hkl
      exact ⟨fun _ => by simp, fun h => absurd rfl h⟩
    · exact ⟨fun h => absurd (ChangeOp.legClose.inj h) hkl, fun _ => State.leg_setLeg_other _ _ _ _ (Ne.symm hkl)⟩
  · have hother : ∀ k, c.op ≠ .legClose k := fun k hk => h ⟨k, hk⟩
    rw [clearClosing_other hother]
    exact ⟨fun h => absurd h (hother l), fun _ => rfl⟩

theorem clearClosing_leg (cs : List Change) (s : State) (l : Leg) : Unclosed (hasClose l cs) s (clearClosing cs s) l := by
  induction cs generalizing s with
  | nil => exact ⟨fun ⟨_, h, _⟩ => absurd h (by simp), fun _ => rfl⟩
  | cons c cs ih =>
    rw [clearClosing_cons]
    exact ((clearClosing_one c s l).trans (ih _)).congr hasClose_cons.symm

/-- DISCARD touches the legs and the three classes alone. -/
def stagedApart (s t : State) : State := { t with legs := s.legs, routing := s.routing, levels := s.levels, echo := s.echo }

theorem clearClosing_legs (cs : List Change) (s : State) : ∃ legs, clearClosing cs s = { s with legs := legs } := by
  induction cs generalizing s with
  | nil => exact ⟨s.legs, rfl⟩
  | cons c cs ih =>
    have ⟨legs, hlegs⟩ : ∃ legs, clearClosing [c] s = { s with legs := legs } := by
      simp only [clearClosing, List.foldl_cons, List.foldl_nil]
      cases c.op <;> exact ⟨_, rfl⟩
    rw [clearClosing_cons, hlegs]
    exact ih _

/-- R173: a class emptied, its latch cleared and its mask kept. -/
def Stage.emptied (st : Stage) : Stage := { st with list := [], latch := false }

theorem discardClass_stage (c k : ChangeClass) (s : State) :
    (discardClass c s).stage k = if k = c then (s.stage k).emptied else s.stage k := by
  obtain ⟨legs, hlegs⟩ := clearClosing_legs (s.stage c).list s
  rw [discardClass, hlegs]
  cases c <;> cases k <;> rfl

theorem discardClass_leg (c : ChangeClass) (s : State) (l : Leg) : Unclosed (hasClose l (s.stage c).list) s (discardClass c s) l := by
  have hleg : (discardClass c s).leg l = (clearClosing (s.stage c).list s).leg l := by simp [discardClass, State.leg]
  have h := clearClosing_leg (s.stage c).list s l
  rwa [Unclosed, ← hleg] at h

theorem discardClass_apart (c : ChangeClass) (s : State) : stagedApart s (discardClass c s) = s := by
  obtain ⟨legs, hlegs⟩ := clearClosing_legs (s.stage c).list s
  rw [discardClass, hlegs]
  cases c <;> rfl

/-- R173: each class of the list given up in turn. -/
def discardAll (cs : List ChangeClass) (s : State) : State := cs.foldl (fun s c => discardClass c s) s

theorem discardAll_stage (cs : List ChangeClass) (s : State) (k : ChangeClass) :
    (discardAll cs s).stage k = if k ∈ cs then (s.stage k).emptied else s.stage k := by
  induction cs generalizing s with
  | nil => rfl
  | cons c cs ih =>
    show (discardAll cs (discardClass c s)).stage k = _
    rw [ih, discardClass_stage]
    by_cases hc : k = c <;> by_cases hcs : k ∈ cs <;> simp [hc, hcs, Stage.emptied]

theorem discardAll_leg (cs : List ChangeClass) (s : State) (l : Leg) :
    Unclosed (∃ c ∈ cs, hasClose l (s.stage c).list) s (discardAll cs s) l := by
  induction cs generalizing s with
  | nil => exact ⟨fun ⟨_, h, _⟩ => absurd h (by simp), fun _ => rfl⟩
  | cons c cs ih =>
    refine ((discardClass_leg c s l).trans (ih (discardClass c s))).congr ?_
    have hnone : ¬ hasClose l (s.stage c).emptied.list := fun ⟨_, h, _⟩ => absurd h (by simp [Stage.emptied])
    simp only [List.mem_cons, discardClass_stage, exists_eq_or_imp]
    refine or_congr_right' fun hc => exists_congr fun d => and_congr_right fun _ => ?_
    -- A class discarded twice has no close left the second time.
    split
    next h => subst h; exact iff_of_false hnone hc
    next => exact Iff.rfl

theorem discardAll_apart (cs : List ChangeClass) (s : State) : stagedApart s (discardAll cs s) = s := by
  induction cs generalizing s with
  | nil => rfl
  | cons c cs ih =>
    have htail := ih (discardClass c s)
    have hhead := discardClass_apart c s
    calc stagedApart s (discardAll (c :: cs) s)
        = stagedApart s (stagedApart (discardClass c s) (discardAll cs (discardClass c s))) := rfl
      _ = s := by rw [htail, hhead]

theorem discardEntry_passed {r : Request} {s : State} {sel : Nat} (hsel : byteAt r.body 0 = sel) (hsome : sel % 8 ≠ 0) :
    discardEntry r s = .ok
      { body := [ChangeClass.routing, .levels, .echo].flatMap (fun c =>
          if sel.testBit c.code then u8 (s.stage c).list.length else []),
        state := discardAll (namedClasses sel) s } := by
  simp only [discardEntry, bind, Except.bind, hsel, require_eq_ok hsome, namedClasses_flatMap]
  rfl

theorem clearClosing_setLink (cs : List Change) (x : Link) (s : State) :
    clearClosing cs (s.setLink x) = (clearClosing cs s).setLink x := by
  induction cs generalizing s with
  | nil => rfl
  | cons c cs ih =>
    have hone : clearClosing [c] (s.setLink x) = (clearClosing [c] s).setLink x := by
      obtain ⟨tag, arrival, op⟩ := c
      cases op <;> rfl
    rw [clearClosing_cons, hone, ih, clearClosing_cons c cs s]

theorem discardAll_setLink (cs : List ChangeClass) (x : Link) (s : State) :
    discardAll cs (s.setLink x) = (discardAll cs s).setLink x := by
  induction cs generalizing s with
  | nil => rfl
  | cons c cs ih =>
    have hone : discardClass c (s.setLink x) = (discardClass c s).setLink x := by
      rw [discardClass, discardClass, State.stage_setLink, clearClosing_setLink]
      cases c <;> rfl
    show discardAll cs (discardClass c (s.setLink x)) = (discardAll cs (discardClass c s)).setLink x
    rw [hone, ih]

theorem discardAll_link (cs : List ChangeClass) (s : State) : (discardAll cs s).link = s.link :=
  (congrArg State.link (discardAll_apart cs s) :)

theorem stageModeEntry_passed {r : Request} {s : State} {c : ChangeClass} {src : Nat} (hclass : byteAt r.body 0 = c.code)
    (hsrc : byteAt r.body 1 = src) :
    let t := s.setStage c { s.stage c with nextFrame := src.testBit 0, applyLine := src.testBit 1 }
    stageModeEntry r s = .ok
      { body := [t.routing, t.levels, t.echo].flatMap (fun st => u8 (maskBits st)) ++
          [t.routing, t.levels, t.echo].flatMap (fun st => flag st.latch) ++
          [t.routing, t.levels, t.echo].flatMap (fun st => u8 st.list.length),
        state := t } := by
  simp only [stageModeEntry, bind, Except.bind, hclass, classOf_code, need_some, hsrc, selected]
  rfl

/-- Settles O54: the entries work class by class, and a class that is not named stays as it is. -/
theorem applySourcesAndDiscard : Obligations.ApplySourcesAndDiscard := by
  unfold Obligations.ApplySourcesAndDiscard
  intro s r rest
  refine ⟨fun c src hdue hserving hsrc hbody => ?_, fun sel hdue hserving hsel hsome hbody => ?_, fun hhold => ?_,
    fun sel hdue hserving hsel hsome hbody => ?_⟩
  · intro t mask
    have hmask : mask = fun st => u8 (maskBits st) := funext fun st => by rw [maskBits_eq]
    rw [hmask]
    refine row_accepted (u := t) (entry := stageModeEntry) (fun _ => rfl) hdue (by rw [hbody]; rfl) (.inl hserving)
      (by simp [t]) fun x => (stageModeEntry_passed (s := s.setLink x) (c := c) (src := src) ?_ ?_).trans ?_
    · rw [hbody]; exact byteAt_u8 c.code_lt
    · rw [hbody]; exact byteAt_u8 hsrc
    · cases c <;> rfl
  · have hat : byteAt r.body 0 = sel := by rw [hbody, byteAt_u8 hsel]
    exact row_accepted (u := latchNamed sel s) (entry := applyEntry) (fun _ => rfl) hdue (by rw [hbody]; rfl) (.inl hserving)
      rfl fun x => (applyEntry_passed (s := s.setLink x) hat hsome).trans (by simp only [State.stage_setLink]; rfl)
  · show Host.Outcome.next (if s.hold = none then _ else s) = _
    rw [if_pos hhold, edgeOn_eq, edgeOn_eq, edgeOn_eq]
  · have hat : byteAt r.body 0 = sel := by rw [hbody, byteAt_u8 hsel]
    refine ⟨discardAll (namedClasses sel) s, ?_, fun c => ?_, fun l ⟨c, hc, hl⟩ => ?_, fun l hl => ?_, discardAll_apart _ s⟩
    · exact row_accepted (entry := discardEntry) (fun _ => rfl) hdue (by rw [hbody]; rfl) (.inl hserving)
        (discardAll_link _ s) fun x =>
          (discardEntry_passed (s := s.setLink x) hat hsome).trans (by rw [discardAll_setLink]; simp only [State.stage_setLink])
    · rw [discardAll_stage]
      simp only [mem_namedClasses]
      rfl
    · exact (discardAll_leg _ s l).1 ⟨c, mem_namedClasses.2 hc, hl⟩
    · exact (discardAll_leg _ s l).2 fun ⟨c, hc, x, hx, hop⟩ => hl c (mem_namedClasses.1 hc) x hx hop

end Sys2Proof.Machine
end

section
/-! PROOF. What a step does to the tables, the commitment and the prompts: a chain of moves, most of which keep all that the
invariants of R4, R5, R16, R47, R65, R99, R146, R147, R150 and R162 speak of; and the rule by which every step keeps such an
invariant. -/

namespace Sys2Proof.Machine

/-! ## Records that keep what the invariants speak of -/

/-- From r to q a leg keeps its place in the tables and its tail, and its activity flags stay right (R47). -/
structure LegKept (r q : LegRec) : Prop where
  state : q.state = r.state
  slot : q.slot = r.slot
  group : q.group = r.group
  tail : q.tail = r.tail
  flags : r.flagsHeld → q.flagsHeld

/-- From r to q a position keeps its place in the tables and its prompts, and its VAD stays right (R65). -/
structure PosKept (r q : PosRec) : Prop where
  enabled : q.enabled = r.enabled
  role : q.role = r.role
  group : q.group = r.group
  queue : q.queue = r.queue
  slot : q.slot = r.slot
  done : q.done = r.done
  flags : r.flagsHeld → q.flagsHeld

/-- R150: the adaptation list holds each leg that is not CLOSED once. -/
def ListExact (s : State) : Prop := s.work.list.Nodup ∧ ∀ l : Leg, l ∈ s.work.list ↔ (s.leg l).live = true

/-- From s to t nothing has changed of what the invariants speak of, but that the adaptation list may be in another order. -/
structure Kept (s t : State) : Prop where
  leg : ∀ l, LegKept (s.leg l) (t.leg l)
  pos : ∀ p, PosKept (s.pos p) (t.pos p)
  groups : t.groups = s.groups
  supervision : t.supervision = s.supervision
  free : t.free = s.free
  routing : t.routing.list = s.routing.list
  levels : t.levels.list = s.levels.list
  echo : t.echo.list = s.echo.list
  commitment : t.work.commitment = s.work.commitment
  ceiling : t.work.ceiling = s.work.ceiling
  ratio : t.work.ratio = s.work.ratio
  list : ListExact s → ListExact t

theorem LegKept.refl (r : LegRec) : LegKept r r := ⟨rfl, rfl, rfl, rfl, id⟩

theorem LegKept.trans {r q x : LegRec} (h : LegKept r q) (k : LegKept q x) : LegKept r x :=
  ⟨k.state.trans h.state, k.slot.trans h.slot, k.group.trans h.group, k.tail.trans h.tail, fun f => k.flags (h.flags f)⟩

theorem LegKept.live {r q : LegRec} (h : LegKept r q) : q.live = r.live := by rw [LegRec.live, LegRec.live, h.state]

theorem PosKept.refl (r : PosRec) : PosKept r r := ⟨rfl, rfl, rfl, rfl, rfl, rfl, id⟩

theorem PosKept.trans {r q x : PosRec} (h : PosKept r q) (k : PosKept q x) : PosKept r x :=
  ⟨k.enabled.trans h.enabled, k.role.trans h.role, k.group.trans h.group, k.queue.trans h.queue, k.slot.trans h.slot,
    k.done.trans h.done, fun f => k.flags (h.flags f)⟩

theorem ListExact.congr {s t : State} (h : ListExact s) (hlist : t.work.list = s.work.list)
    (hlive : ∀ l, (t.leg l).live = (s.leg l).live) : ListExact t :=
  ⟨hlist ▸ h.1, fun l => by rw [hlist, hlive]; exact h.2 l⟩

theorem Kept.refl (s : State) : Kept s s :=
  ⟨fun _ => .refl _, fun _ => .refl _, rfl, rfl, rfl, rfl, rfl, rfl, rfl, rfl, rfl, id⟩

theorem Kept.trans {s t u : State} (h : Kept s t) (k : Kept t u) : Kept s u :=
  ⟨fun l => (h.leg l).trans (k.leg l), fun p => (h.pos p).trans (k.pos p), k.groups.trans h.groups,
    k.supervision.trans h.supervision, k.free.trans h.free, k.routing.trans h.routing, k.levels.trans h.levels,
    k.echo.trans h.echo, k.commitment.trans h.commitment, k.ceiling.trans h.ceiling, k.ratio.trans h.ratio,
    fun hl => k.list (h.list hl)⟩

theorem Kept.fold {α : Type} {f : State → α → State} (h : ∀ s a, Kept s (f s a)) (l : List α) (s : State) : Kept s (l.foldl f s) := by
  induction l generalizing s with
  | nil => exact .refl s
  | cons a l ih => exact (h s a).trans (ih _)

/-- Nothing the invariants speak of has changed at all. -/
theorem Kept.same {s t : State} (hlegs : t.legs = s.legs) (hpos : t.positions = s.positions) (hgroups : t.groups = s.groups)
    (hsup : t.supervision = s.supervision) (hfree : t.free = s.free) (hrouting : t.routing.list = s.routing.list)
    (hlevels : t.levels.list = s.levels.list) (hecho : t.echo.list = s.echo.list)
    (hwork : ({ t.work with last := s.work.last } : Work) = s.work) : Kept s t := by
  have hleg : t.leg = s.leg := funext fun l => by rw [State.leg, State.leg, hlegs]
  have hposAt : t.pos = s.pos := funext fun p => by rw [State.pos, State.pos, hpos]
  exact ⟨fun l => hleg ▸ .refl _, fun p => hposAt ▸ .refl _, hgroups, hsup, hfree, hrouting, hlevels, hecho,
    (congrArg Work.commitment hwork :), (congrArg Work.ceiling hwork :), (congrArg Work.ratio hwork :),
    fun h => h.congr (congrArg Work.list hwork :) fun l => by rw [hleg]⟩

/-- t with the legs, the positions, the adaptation list and the link of s. -/
abbrev withoutRecords (s t : State) : State :=
  { t with legs := s.legs, positions := s.positions, work := { t.work with list := s.work.list }, link := s.link }

/-- Each record kept, and nothing else but the link changed. -/
theorem Kept.of_records {s t : State} (hleg : ∀ l, LegKept (s.leg l) (t.leg l)) (hpos : ∀ p, PosKept (s.pos p) (t.pos p))
    (hlist : ListExact s → ListExact t) (h : withoutRecords s t = s) : Kept s t :=
  ⟨hleg, hpos, (congrArg State.groups h :), (congrArg State.supervision h :), (congrArg State.free h :),
    (congrArg (fun u : State => u.routing.list) h :), (congrArg (fun u : State => u.levels.list) h :),
    (congrArg (fun u : State => u.echo.list) h :), (congrArg (fun u : State => u.work.commitment) h :),
    (congrArg (fun u : State => u.work.ceiling) h :), (congrArg (fun u : State => u.work.ratio) h :), hlist⟩

theorem Kept.raise (n : Nat) (d : Detail) (s : State) : Kept s (raise n d s) := .same rfl rfl rfl rfl rfl rfl rfl rfl rfl

theorem Kept.setLink (s : State) (k : Link) : Kept s (s.setLink k) := .same rfl rfl rfl rfl rfl rfl rfl rfl rfl

theorem Kept.setLeg {s : State} {l : Leg} {r : LegRec} (h : LegKept (s.leg l) r) : Kept s (s.setLeg l r) := by
  have hleg : ∀ k, LegKept (s.leg k) ((s.setLeg l r).leg k) := by
    intro k
    by_cases hk : k = l
    · subst hk; rw [State.leg_setLeg_same]; exact h
    · rw [State.leg_setLeg_other _ _ _ _ hk]; exact .refl _
  exact ⟨hleg, fun _ => .refl _, rfl, rfl, rfl, rfl, rfl, rfl, rfl, rfl, rfl, fun hl => hl.congr rfl fun k => (hleg k).live⟩

theorem Kept.setPos {s : State} {p : Position} {r : PosRec} (h : PosKept (s.pos p) r) : Kept s (s.setPos p r) := by
  refine ⟨fun _ => .refl _, fun q => ?_, rfl, rfl, rfl, rfl, rfl, rfl, rfl, rfl, rfl, fun hl => hl.congr rfl fun _ => rfl⟩
  by_cases hq : q = p
  · subst hq; rw [State.pos_setPos_same]; exact h
  · rw [State.pos_setPos_other _ _ _ _ hq]; exact .refl _

theorem State.leg_vmap (s : State) (f : LegRec → LegRec) (l : Leg) :
    ({ s with legs := vmap f s.legs } : State).leg l = f (s.leg l) := vmap_get f s.legs l

theorem State.pos_vmap (s : State) (f : PosRec → PosRec) (p : Position) :
    ({ s with positions := vmap f s.positions } : State).pos p = f (s.pos p) := vmap_get f s.positions p

theorem Kept.legs {s : State} {f : LegRec → LegRec} (h : ∀ r, LegKept r (f r)) : Kept s { s with legs := vmap f s.legs } := by
  have hleg : ∀ l, LegKept (s.leg l) (({ s with legs := vmap f s.legs } : State).leg l) := fun l => by
    rw [State.leg_vmap]; exact h _
  exact ⟨hleg, fun _ => .refl _, rfl, rfl, rfl, rfl, rfl, rfl, rfl, rfl, rfl, fun hl => hl.congr rfl fun l => (hleg l).live⟩

theorem Kept.positions {s : State} {f : PosRec → PosRec} (h : ∀ r, PosKept r (f r)) :
    Kept s { s with positions := vmap f s.positions } :=
  ⟨fun _ => .refl _, fun p => by rw [State.pos_vmap]; exact h _, rfl, rfl, rfl, rfl, rfl, rfl, rfl, rfl, rfl,
    fun hl => hl.congr rfl fun _ => rfl⟩

/-! ## The adaptation list in another order (R150, R151, R155) -/

theorem mem_moveHead {l k : Leg} {ls : List Leg} : k ∈ moveHead l ls ↔ k = l ∨ k ∈ ls := by
  by_cases h : k = l <;> simp [moveHead, h]

theorem moveHead_nodup {l : Leg} {ls : List Leg} (h : ls.Nodup) : (moveHead l ls).Nodup :=
  List.nodup_cons.2 ⟨by simp, h.filter _⟩

theorem Kept.headOfList {s : State} {l : Leg} (h : (s.leg l).live = true) : Kept s (s.headOfList l) := by
  refine ⟨fun _ => .refl _, fun _ => .refl _, rfl, rfl, rfl, rfl, rfl, rfl, rfl, rfl, rfl, fun hl => ⟨moveHead_nodup hl.1, fun k => ?_⟩⟩
  show k ∈ moveHead l s.work.list ↔ (s.leg k).live = true
  rw [mem_moveHead, hl.2]
  exact ⟨fun hk => hk.elim (fun hk => hk ▸ h) id, .inr⟩

/-! ## The opening part's legs (R154) -/

/-- R154: the eligible legs in list order, served and not. -/
def Opening.legs (o : Opening) : List Leg := o.granted ++ o.todo

theorem fetchTurn_legs (cost : AreaNo → Nat) (o : Opening) : (fetchTurn cost o).legs = o.legs := by
  rw [fetchTurn]
  split
  · rfl
  · split
    · split <;> rfl
    · rfl

theorem adaptTurn_legs (cost : Leg → Nat) (o : Opening) : (adaptTurn cost o).legs = o.legs := by
  rw [adaptTurn]
  split
  · rfl
  · split
    next l rest h =>
      split
      · simp [Opening.legs, h]
      · rfl
    next => rfl

theorem adaptTurns_legs (cost : Leg → Nat) (k : Nat) (o : Opening) : (adaptTurns cost k o).legs = o.legs := by
  induction k generalizing o with
  | zero => rfl
  | succ k ih => rw [adaptTurns, ih, adaptTurn_legs]

theorem openingRounds_legs (fcost : AreaNo → Nat) (acost : Leg → Nat) (ratio k : Nat) (o : Opening) :
    (openingRounds fcost acost ratio k o).legs = o.legs := by
  induction k generalizing o with
  | zero => rfl
  | succ k ih =>
    have hround : (adaptTurns acost ratio (fetchTurn fcost o)).legs = o.legs := by rw [adaptTurns_legs, fetchTurn_legs]
    simp only [openingRounds]
    split
    · exact hround
    · rw [ih, hround]

/-- R154: the legs served and those passed by are the eligible ones in list order. -/
theorem openingPart_legs (s : State) : (openingPart s).legs = s.work.list.filter (fun l => eligibleNow (s.leg l)) :=
  openingRounds_legs _ _ _ _ _

theorem openingPart_granted (s : State) : (openingPart s).granted.Sublist s.work.list := by
  have h : (openingPart s).granted.Sublist (openingPart s).legs := List.sublist_append_left _ _
  rw [openingPart_legs] at h
  exact h.trans List.filter_sublist

/-- R155: the served legs moved to the tail of the list. -/
theorem Kept.grantedLast {s : State} {granted : List Leg} (h : granted.Sublist s.work.list) :
    Kept s (s.setWork { s.work with list := s.work.list.filter (fun l => !granted.contains l) ++ granted }) := by
  refine ⟨fun _ => .refl _, fun _ => .refl _, rfl, rfl, rfl, rfl, rfl, rfl, rfl, rfl, rfl, fun hl => ⟨?_, fun k => ?_⟩⟩
  · refine List.Nodup.append (hl.1.filter _) (hl.1.sublist h) fun k hk hg => ?_
    simp [hg] at hk
  · have hmem : k ∈ s.work.list.filter (fun l => !granted.contains l) ++ granted ↔ k ∈ s.work.list := by
      by_cases hg : k ∈ granted
      · simp [hg, h.subset hg]
      · simp [hg]
    exact hmem.trans (hl.2 k)

theorem clearGrant_kept (l : Leg) (s : State) : Kept s (clearGrant l s) := .setLeg ⟨rfl, rfl, rfl, rfl, id⟩

theorem grantLeg_kept (l : Leg) (s : State) : Kept s (grantLeg l s) := .setLeg ⟨rfl, rfl, rfl, rfl, id⟩

theorem settleDebt_kept (l : Leg) (s : State) : Kept s (settleDebt l s) := by
  rw [settleDebt]
  dsimp only
  split
  · refine .trans ?_ (.raise _ _ _)
    exact .setLeg ⟨rfl, rfl, rfl, rfl, id⟩
  · exact .setLeg ⟨rfl, rfl, rfl, rfl, id⟩

theorem settleOpening_kept {o : Opening} {s : State} (h : o.granted.Sublist s.work.list) : Kept s (settleOpening o s) := by
  have hclear := Kept.fold (f := fun s l => clearGrant l s) (fun s l => clearGrant_kept l s) s.work.list s
  have hlist : (s.work.list.foldl (fun s l => clearGrant l s) s).work.list = s.work.list :=
    foldl_keeps (g := fun s : State => s.work.list) (f := fun s l => clearGrant l s) (fun _ _ => rfl) _ _
  unfold settleOpening
  dsimp only
  generalize s.work.list.foldl (fun s l => clearGrant l s) s = t at hclear hlist ⊢
  have hgrant := Kept.fold (f := fun s l => grantLeg l s) (fun s l => grantLeg_kept l s) o.granted t
  have hlist' : (o.granted.foldl (fun s l => grantLeg l s) t).work.list = t.work.list :=
    foldl_keeps (g := fun s : State => s.work.list) (f := fun s l => grantLeg l s) (fun _ _ => rfl) _ _
  generalize o.granted.foldl (fun s l => grantLeg l s) t = u at hgrant hlist' ⊢
  have hlast := Kept.grantedLast (s := u) (granted := o.granted) (by rw [hlist', hlist]; exact h)
  generalize u.setWork { u.work with list := u.work.list.filter (fun l => !o.granted.contains l) ++ o.granted } = v at hlast ⊢
  have hserved : Kept v { v with fetch := o.fetch, reads := v.reads ++ o.served.map (openRead v) } :=
    .same rfl rfl rfl rfl rfl rfl rfl rfl rfl
  exact (((hclear.trans hgrant).trans hlast).trans hserved).trans
    (Kept.fold (f := fun s l => settleDebt l s) (fun s l => settleDebt_kept l s) _ _)

/-! ## The audio's records (R13, R37 to R50, R60 to R67, R76) -/

theorem LegKept.ec {r : LegRec} {ec : Canceller} (h : r.flagsHeld → ({ r with ec := ec } : LegRec).flagsHeld) :
    LegKept r { r with ec := ec } := ⟨rfl, rfl, rfl, rfl, h⟩

theorem recordPeriod_kept (sent : Option (Vector Sample 32)) (r : LegRec) : LegKept r (recordPeriod sent r) := by
  unfold recordPeriod
  split
  · exact .ec id
  · exact .refl r

theorem completeHistory_kept (e : FrameEnd) (r : LegRec) : LegKept r (completeHistory e r) := by
  unfold completeHistory
  split
  · exact .refl r
  · split
    · exact .ec id
    · exact .refl r

theorem stepHangover_le (detected : Bool) {h : Nat} (hh : h ≤ 480) : stepHangover detected h ≤ 480 := by
  unfold stepHangover countDown
  split <;> omega

theorem echoSamples_hangover {r : LegRec} (d : List Sample) (h : r.ec.hangover ≤ 480) : (echoSamples r d).hangover ≤ 480 := by
  unfold echoSamples
  refine List.foldlRecOn (motive := fun a : EchoRun => a.hangover ≤ 480) _ _ h fun a ha n _ => ?_
  exact stepHangover_le _ ha

theorem stepCallerHangover_le (er : Nat) {h : Nat} (hh : h ≤ 50) : stepCallerHangover er h ≤ 50 := by
  unfold stepCallerHangover countDown
  split <;> omega

theorem echoed_kept (e : FrameEnd) (src : State) (r : LegRec) : LegKept r (echoed e src r) := by
  unfold echoed
  split
  · exact .refl r
  · exact .refl r
  next k _ _ =>
    have hframe : r.flagsHeld → (echoFrame r (netInbound e k src)).1.ec.callerActive =
          decide (0 < (echoFrame r (netInbound e k src)).1.ec.callerHangover) ∧
        (echoFrame r (netInbound e k src)).1.ec.callerHangover ≤ 50 ∧
        (echoFrame r (netInbound e k src)).1.ec.hangover ≤ 480 := fun ⟨_, hcaller, hhang, _⟩ =>
      ⟨rfl, stepCallerHangover_le _ hcaller, echoSamples_hangover _ hhang⟩
    dsimp only
    split
    · exact ⟨rfl, rfl, rfl, rfl, fun h => ⟨(hframe h).1, (hframe h).2.1, Nat.zero_le _, Nat.zero_le _⟩⟩
    next hsmall => exact ⟨rfl, rfl, rfl, rfl, fun h => ⟨(hframe h).1, (hframe h).2.1, (hframe h).2.2, by omega⟩⟩

theorem divergenceResetOf_kept {l : Leg} {s : State} (h : (s.leg l).live = true) : Kept s (divergenceResetOf l s) := by
  have hleg : LegKept (s.leg l) { s.leg l with ec := { clearTaps (s.leg l).ec with
      hangover := 0, divergence := 0, divergenceResets := satInc 65535 (s.leg l).ec.divergenceResets } } :=
    .ec fun hf => ⟨hf.1, hf.2.1, Nat.zero_le _, Nat.zero_le _⟩
  refine ((Kept.setLeg hleg).trans (.headOfList (l := l) ?_)).trans (.raise _ _ _)
  rw [State.leg_setLeg_same]
  exact h

theorem echoLeg_kept (e : FrameEnd) (a : State × List (List Sample)) (l : Leg) : Kept a.1 (echoLeg e a l).1 := by
  have hleg : ∀ k, LegKept (a.1.leg k) ((echoLeg e a l).1.leg k) := fun k => by
    rw [echoLeg_leg]
    split
    next h => rw [h]; exact echoed_kept e a.1 _
    next => exact .refl _
  have hlist : (echoLeg e a l).1.work.list = a.1.work.list ∨
      (a.1.leg l).live = true ∧ (echoLeg e a l).1.work.list = moveHead l a.1.work.list := by
    unfold echoLeg
    dsimp only
    split
    · exact .inl rfl
    · exact .inl rfl
    next _ _ hstate =>
      unfold testDivergence
      split
      · exact .inr ⟨live_of_ne_closed hstate, rfl⟩
      · exact .inl rfl
  have hrest := hideLegs_only (echoLeg_hide e a l)
  generalize (echoLeg e a l).1 = t at hleg hlist hrest ⊢
  have hpos : t.pos = a.1.pos := funext fun p => (congrArg (fun u : State => u.pos p) hrest :)
  refine .of_records hleg (fun p => hpos ▸ .refl _) (fun hl => ?_)
    (congrArg (withoutRecords a.1) hrest :)
  rcases hlist with hlist | ⟨hlive, hlist⟩
  · exact hl.congr hlist fun k => (hleg k).live
  · exact ((Kept.headOfList hlive).list hl).congr hlist fun k => (hleg k).live

theorem echoStep_kept (e : FrameEnd) (s : State) : Kept s (echoStep e s).1 := by
  suffices h : ∀ (ls : List Leg) (a : State × List (List Sample)), Kept a.1 (ls.foldl (echoLeg e) a).1 from h _ (s, [])
  intro ls
  induction ls with
  | nil => exact fun a => .refl _
  | cons l ls ih => exact fun a => (echoLeg_kept e a l).trans (ih _)

theorem rampStep_kept (before : State) (fresh : List Leg) (s : State) : Kept s (rampStep before fresh s) := by
  have hleg : ∀ l, LegKept (s.leg l) ((rampStep before fresh s).leg l) := fun l => by
    rw [rampStep_leg]
    exact ⟨rfl, rfl, rfl, rfl, id⟩
  have hrest := rampStep_only before fresh s
  generalize rampStep before fresh s = t at hleg hrest ⊢
  have hpos : t.pos = s.pos := funext fun p => (congrArg (fun u : State => u.pos p) hrest :)
  exact .of_records hleg (fun p => hpos ▸ .refl _)
    (fun hl => hl.congr (congrArg (fun u : State => u.work.list) hrest :) fun l => (hleg l).live)
    (congrArg (withoutRecords s) hrest :)

theorem stepVadHangover_le (speech : Bool) {h : Nat} (hh : h ≤ 50) : stepVadHangover speech h ≤ 50 := by
  unfold stepVadHangover countDown
  split <;> omega

theorem micced_kept (src : State) (p : Position) (r : PosRec) : PosKept r (micced src p r) := by
  unfold micced
  split
  · exact ⟨rfl, rfl, rfl, rfl, rfl, rfl, fun ⟨_, hvad⟩ => ⟨rfl, stepVadHangover_le _ hvad⟩⟩
  · exact ⟨rfl, rfl, rfl, rfl, rfl, rfl, id⟩

theorem micStep_kept (s : State) : Kept s (micStep s).1 := by
  have hpos : ∀ p, PosKept (s.pos p) ((micStep s).1.pos p) := fun p => by rw [micStep_pos]; exact micced_kept s p _
  have hrest := micStep_only s
  generalize (micStep s).1 = t at hpos hrest ⊢
  have hleg : t.leg = s.leg := funext fun l => (congrArg (fun u : State => u.leg l) hrest :)
  exact .of_records (fun l => hleg ▸ .refl _) hpos
    (fun hl => hl.congr (congrArg (fun u : State => u.work.list) hrest :) fun l => by rw [hleg])
    (congrArg (withoutRecords s) hrest :)

/-! ## Moves -/

/-- What a step does to what the invariants speak of, one move at a time. -/
inductive Move (s : State) : State → Prop
  | kept {t : State} (h : Kept s t) : Move s t
  | reset (pins : Straps) (cause : ResetCause) : Move s (resetPart pins cause s)
  | tornDown : Move s (tearDown s)
  | opened (l : Leg) (slot : NetSlot) (requested gain : Nat) (hclosed : (s.leg l).state = .closed)
      (hslot : slotTaken s l slot = false) (htail : 128 ≤ grantedTail (s.work.ceiling - s.work.commitment) requested) :
      Move s (legOpened l slot (grantedTail (s.work.ceiling - s.work.commitment) requested) gain s)
  | joined (op : ChangeOp) (tag : Byte) (hroom : (s.stage op.cls).list.length < 16) (hop : Admitted (projected s) op) :
      Move s (joinList op tag s)
  | position (p : Position) (on : Bool) (role : Role)
      (hfree : ¬ ((s.pos p).enabled = true ∧ (on = false ∨ role ≠ (s.pos p).role) ∧ engagedAnywhere s p = true))
      (hroom : ¬ ((s.pos p).enabled = false ∧ on = true ∧ s.work.ceiling < s.work.commitment + Config.positionCost)) :
      Move s (positionPut p on role s)
  | retailed (l : Leg) (requested : Nat) (hlive : (s.leg l).state ≠ .closed) :
      Move s (tailPut l (grantedGrowth (s.work.ceiling - (s.work.commitment - legCost (s.leg l).tail)) (s.leg l).tail requested) s)
  | queued (p : Position) (k : PromptRec) (hon : (s.pos p).enabled = true) (hroom : (s.pos p).queue.length < 8)
      (hfree : s.free.min? = some k.handle) :
      Move s { s.setPos p { s.pos p with queue := insertPrompt k (s.pos p).queue } with free := s.free.erase k.handle }
  | ended (p : Position) (res : PromptResult) (k : PromptRec) (hk : ∃ x ∈ (s.pos p).queue, x.handle = k.handle) :
      Move s (endPending p res k s)
  | slotMarked (p : Position) (pl : Playing) (hslot : (s.pos p).slot = some pl) :
      Move s (s.setPos p { s.pos p with slot := some { pl with prompt := { pl.prompt with cancel := true } } })
  | drained (p : Position) : Move s (drained p s)
  | limits (ceiling ratio : Nat) (hc : 512 ≤ ceiling ∧ ceiling ≤ 2048 ∧ s.work.commitment ≤ ceiling ∨ ceiling = s.work.ceiling)
      (hr : 1 ≤ ratio ∧ ratio ≤ 4 ∨ ratio = s.work.ratio) :
      Move s (s.setWork { s.work with ceiling := ceiling, ratio := ratio })
  | discarded (cs : List ChangeClass) : Move s (discardAll cs s)
  | applied : Move s (stageApplication s).1
  | played (ix : Vector (List IndexEntry) 128) (ls : List Landed) (p : Position) : Move s (playerFrame ix ls p s).1

theorem pendingAt_queue {s : State} {h : Handle} {p : Position} {k : PromptRec} (hat : pendingAt s h = some (p, k)) :
    k ∈ (s.pos p).queue := by
  obtain ⟨q, _, hq⟩ := List.exists_of_findSome?_eq_some hat
  obtain ⟨r, hr, heq⟩ := Option.map_eq_some_iff.1 hq
  cases heq
  exact List.mem_of_find?_eq_some hr

theorem playingAt_slot {s : State} {h : Handle} {p : Position} {pl : Playing} (hat : playingAt s h = some (p, pl)) :
    (s.pos p).slot = some pl := by
  obtain ⟨q, _, hq⟩ := List.exists_of_findSome?_eq_some hat
  obtain ⟨r, hr, heq⟩ := Option.map_eq_some_iff.1 hq
  cases heq
  exact (Option.filter_eq_some_iff.1 hr).1

/-! ## Transfers and the self-test -/

/-- Only the link differs. -/
def LinkOnly (s t : State) : Prop := ∃ k, t = s.setLink k

theorem LinkOnly.refl (s : State) : LinkOnly s s := ⟨s.link, rfl⟩

theorem LinkOnly.set (s : State) (k : Link) : LinkOnly s (s.setLink k) := ⟨k, rfl⟩

theorem LinkOnly.trans {s t u : State} (h : LinkOnly s t) (h' : LinkOnly t u) : LinkOnly s u := by
  obtain ⟨k, rfl⟩ := h
  obtain ⟨j, rfl⟩ := h'
  exact ⟨j, rfl⟩

theorem LinkOnly.kept {s t : State} (h : LinkOnly s t) : Kept s t := by
  obtain ⟨k, rfl⟩ := h
  exact .setLink s k

theorem endRead_linkOnly (clocked : Nat) (s : State) : LinkOnly s (endRead clocked s) := by
  unfold endRead
  split
  · exact .refl s
  · dsimp only
    split
    · exact .set s _
    · split
      · exact (LinkOnly.set s _).trans (.set _ _)
      · exact (LinkOnly.set s _).trans (.set _ _)
    · split
      · exact (LinkOnly.set s _).trans (.set _ _)
      · exact (LinkOnly.set s _).trans (.set _ _)

theorem takeWrite_linkOnly (bytes : List Byte) (s : State) : LinkOnly s (takeWrite bytes s) := by
  unfold takeWrite
  split
  · exact .set s _
  · exact .set s _
  · exact .set s _
  · unfold offerRequest
    split
    · exact .set s _
    · split
      · exact .set s _
      · exact .set s _

theorem takeTransfer_linkOnly (bytes : List Byte) (s : State) : LinkOnly s (takeTransfer bytes s) := by
  unfold takeTransfer
  split
  · exact .refl s
  · split
    · exact takeWrite_linkOnly _ s
    · split
      · exact (LinkOnly.set s _).trans (endRead_linkOnly _ (startRead s))
      · exact .refl s

theorem endPhase_kept (fault : Bool) (s : State) : Kept s (endPhase fault s) := by
  unfold endPhase
  split
  · exact .same rfl rfl rfl rfl rfl rfl rfl rfl rfl
  · split
    · exact .same rfl rfl rfl rfl rfl rfl rfl rfl rfl
    · rw [enterStandby_eq]
      split
      · rw [startScan_eq]
        exact .same rfl rfl rfl rfl rfl rfl rfl rfl rfl
      · exact .same rfl rfl rfl rfl rfl rfl rfl rfl rfl

/-! ## The stages of a frame start -/

section
variable {s : State}

theorem openFrame_kept (e : FrameEnd) (quiet : Bool) : Kept s (openFrame e quiet s) :=
  (Kept.legs (completeHistory_kept e)).trans (.same rfl rfl rfl rfl rfl rfl rfl rfl rfl)

theorem landReads_kept : Kept s (landReads s).1 := by
  have h : Kept { s with reads := [] } (takeFaults (s.reads.map Read.land) { s with reads := [] }) := by
    refine Kept.fold (fun u x => ?_) _ _
    cases x.outcome with
    | ok w => exact .refl u
    | error o =>
      show Kept u (takeFault x.item o u)
      unfold takeFault
      split
      · exact .same rfl rfl rfl rfl rfl rfl rfl rfl rfl
      · exact .same rfl rfl rfl rfl rfl rfl rfl rfl rfl
  exact .trans (t := { s with reads := [] }) (.same rfl rfl rfl rfl rfl rfl rfl rfl rfl) h

theorem sourceStep_kept (ls : List Landed) : Kept s (sourceStep ls s).1 := by
  have hone : ∀ (u : State) (m : Source), Kept u (sourceFrame ls m u).1 := fun u m => by
    have h := (sourceFrame_step ls m u).1
    generalize (sourceFrame ls m u).1 = t at h ⊢
    exact .same (congrArg State.legs h :) (congrArg State.positions h :) (congrArg State.groups h :)
      (congrArg State.supervision h :) (congrArg State.free h :) (congrArg (fun u : State => u.routing.list) h :)
      (congrArg (fun u : State => u.levels.list) h :) (congrArg (fun u : State => u.echo.list) h :)
      (by rw [show t.work = u.work from (congrArg State.work h :)])
  rw [sourceStep_rounds]
  suffices h : ∀ (ms : List Source) (a : State × List (List Sample)), Kept a.1 (ms.foldl (sourceRound ls) a).1 from h _ (s, [])
  intro ms
  induction ms with
  | nil => exact fun a => .refl _
  | cons m ms ih =>
    intro a
    have hround : Kept a.1 (sourceRound ls a m).1 := by rw [sourceRound_state]; exact hone a.1 m
    exact hround.trans (ih _)

theorem landScan_kept (ls : List Landed) : Kept s (landScan ls s).1 := by
  have h := landScan_only ls s
  generalize (landScan ls s).1 = t at h ⊢
  exact .same (congrArg State.legs h :) (congrArg State.positions h :) (congrArg State.groups h :)
    (congrArg State.supervision h :) (congrArg State.free h :) (congrArg (fun u : State => u.routing.list) h :)
    (congrArg (fun u : State => u.levels.list) h :) (congrArg (fun u : State => u.echo.list) h :)
    (by rw [show t.work = s.work from (congrArg State.work h :)])

theorem placeScan_kept (it : Option FetchItem) : Kept s (placeScan it s) := by
  cases it <;> exact .same rfl rfl rfl rfl rfl rfl rfl rfl rfl

theorem closingPart_kept (o : Opening) (spare : Nat) : Kept s (closingPart o spare s) :=
  .same rfl rfl rfl rfl rfl rfl rfl rfl rfl

theorem formFrames_kept (x : MixIn) : Kept s (formFrames x s) := .same rfl rfl rfl rfl rfl rfl rfl rfl rfl

theorem orderNew_kept (old : Nat) : Kept s (orderNew old s) := .same rfl rfl rfl rfl rfl rfl rfl rfl rfl

theorem runTest_kept (p : Port) (sent : Bool) (received : Option Sample) : Kept s (runTest p sent received s) := by
  have hset : ∀ t : PortTest, Kept s (s.setTest p t) := fun t => by cases p <;> exact .same rfl rfl rfl rfl rfl rfl rfl rfl rfl
  unfold runTest
  split
  · exact .refl s
  · dsimp only
    split
    · exact hset _
    · exact (hset _).trans (.raise _ _ _)

theorem carryPeriod_kept (net : Vector Word16 32) (head : Vector Word16 16) : Kept s (carryPeriod net head s) := by
  have hsampled : Kept s (sampled net head s) :=
    (Kept.legs (recordPeriod_kept (netSent s))).trans (.same rfl rfl rfl rfl rfl rfl rfl rfl rfl)
  have htested : ∀ u : State, Kept u (tested net head s u) := fun u => (runTest_kept _ _ _).trans (runTest_kept _ _ _)
  rw [carryPeriod_eq]
  refine (hsampled.trans (htested (sampled net head s))).trans ?_
  generalize tested net head s (sampled net head s) = u
  exact .same rfl rfl rfl rfl rfl rfl rfl rfl rfl

theorem markPeriod_kept (kind : MarkKind) : Kept s (markPeriod kind s) := by
  unfold markPeriod
  split
  · exact .refl s
  · dsimp only
    refine .trans (t := if s.clock.carried then s else carryPeriod (Vector.replicate 32 0) (Vector.replicate 16 0) s) ?_
      (.same rfl rfl rfl rfl rfl rfl rfl rfl rfl)
    split
    · exact .refl s
    · exact carryPeriod_kept _ _

theorem takePulse_kept (since : Nat) : Kept s (takePulse since s) := by
  unfold takePulse
  split
  · split
    · exact markPeriod_kept _
    · exact .refl s
  · unfold seekPulse
    split <;> exact .same rfl rfl rfl rfl rfl rfl rfl rfl rfl
  · exact .same rfl rfl rfl rfl rfl rfl rfl rfl rfl

end

section
variable {Inv : State → Prop}

theorem playerStep_keeps (hmove : ∀ s t, Inv s → Move s t → Inv t) (ls : List Landed)
    (before after : Vector (List IndexEntry) 128) {s : State} (hs : Inv s) : Inv (playerStep ls before after s).1 := by
  rw [playerStep_rounds]
  refine List.foldlRecOn (motive := fun a : State × List (Option (List Sample × Nat)) => Inv a.1) _ _ hs fun a ha p _ => ?_
  rw [playerRound_state]
  exact hmove _ _ ha (.played _ ls p)

theorem takeFrame_keeps (hmove : ∀ s t, Inv s → Move s t → Inv t) (e : FrameEnd) (quiet : Bool) {s : State} (hs : Inv s) :
    Inv (takeFrame e quiet s) := by
  have hkept : ∀ {s t}, Inv s → Kept s t → Inv t := fun hs h => hmove _ _ hs (.kept h)
  have hlanded := hkept (hkept hs (openFrame_kept e quiet)) landReads_kept
  have hopening : ∀ u, Inv u → Inv (settleOpening (openingPart u) u) := fun u hu =>
    hkept hu (settleOpening_kept (openingPart_granted u))
  suffices hframe : ∀ ls u, Inv u → Inv (runningFrame e ls u) ∧ Inv (standbyFrame ls u) by
    have hdone : Inv (if s.part = .running then
        runningFrame e (landReads (openFrame e quiet s)).2 (landReads (openFrame e quiet s)).1
        else standbyFrame (landReads (openFrame e quiet s)).2 (landReads (openFrame e quiet s)).1) := by
      split
      · exact (hframe _ _ hlanded).1
      · exact (hframe _ _ hlanded).2
    unfold takeFrame
    dsimp only
    generalize (if s.part = .running then _ else _ : State) = u at hdone ⊢
    exact hkept hdone (.same rfl rfl rfl rfl rfl rfl rfl rfl rfl)
  intro ls u hu
  constructor
  · have happlied := hmove _ _ hu .applied
    have hramped := hkept (hopening _ happlied) (rampStep_kept u (stageApplication u).2 _)
    unfold runningFrame
    dsimp only
    generalize rampStep u (stageApplication u).2 _ = v at hramped ⊢
    have hmusic := hkept (hkept (hkept hramped (echoStep_kept e v)) (micStep_kept _)) (sourceStep_kept ls)
    unfold audioFrame
    dsimp only
    generalize (sourceStep ls (micStep (echoStep e v).1).1) = music at hmusic ⊢
    have hprompt := playerStep_keeps hmove ls music.1.index (landScan ls music.1).1.index (hkept hmusic (landScan_kept ls))
    generalize playerStep ls music.1.index (landScan ls music.1).1.index (landScan ls music.1).1 = prompt at hprompt ⊢
    exact hkept (hkept (hkept hprompt (placeScan_kept _)) (closingPart_kept _ _)) (formFrames_kept _)
  · have hclosed := hkept (hkept (hkept (hopening _ hu) (landScan_kept ls)) (placeScan_kept (landScan ls
      (settleOpening (openingPart u) u)).2)) (closingPart_kept (openingPart u) (spareOf u))
    unfold standbyFrame
    dsimp only
    generalize closingPart (openingPart u) (spareOf u) _ = v at hclosed ⊢
    exact hkept (hkept hclosed (Kept.positions (f := fun r => { r with available := false }) fun r => ⟨rfl, rfl, rfl, rfl, rfl, rfl, id⟩))
      (.same rfl rfl rfl rfl rfl rfl rfl rfl rfl)

theorem served_keeps (hmove : ∀ s t, Inv s → Move s t → Inv t) {s t : State} (hs : Inv s) (h : Served s t) : Inv t := by
  have hkept : ∀ {s t}, Inv s → Kept s t → Inv t := fun hs h => hmove _ _ hs (.kept h)
  cases h with
  | same => exact hs
  | started => exact hkept hs (.same rfl rfl rfl rfl rfl rfl rfl rfl rfl)
  | tornDown => exact hmove _ _ hs .tornDown
  | counts => exact hkept hs (.setLink s _)
  | opened l slot requested gain hclosed hslot htail => exact hmove _ _ hs (.opened l slot requested gain hclosed hslot htail)
  | staged op tag hroom hop => exact hmove _ _ hs (.joined op tag hroom hop)
  | closing l tag hroom =>
    have hjoined := hmove _ _ hs (.joined (.legClose l) tag hroom trivial)
    exact hkept hjoined (.setLeg ⟨rfl, rfl, rfl, rfl, id⟩)
  | position p on role hfree hroom => exact hmove _ _ hs (.position p on role hfree hroom)
  | retailed l requested hlive => exact hmove _ _ hs (.retailed l requested hlive)
  | cleared l hlive =>
    refine hkept (hkept hs (.setLeg (l := l) ?_)) (.headOfList ?_)
    · exact .ec fun ⟨hactive, hcaller, _, _⟩ => ⟨hactive, hcaller, Nat.zero_le _, Nat.zero_le _⟩
    · rw [State.leg_setLeg_same]
      exact live_of_ne_closed hlive
  | quieted mask => exact hkept hs (.same rfl rfl rfl rfl rfl rfl rfl rfl rfl)
  | source m k => exact hkept hs (.same rfl rfl rfl rfl rfl rfl rfl rfl rfl)
  | queued p k hon hroom hfree => exact hmove _ _ hs (.queued p k hon hroom hfree)
  | cancelled h p k hat => exact hmove _ _ hs (.ended p _ k ⟨k, pendingAt_queue hat, rfl⟩)
  | marked h p pl hat => exact hmove _ _ hs (.slotMarked p pl (playingAt_slot hat))
  | drained p => exact hmove _ _ hs (.drained p)
  | levels map => exact hkept hs (.same rfl rfl rfl rfl rfl rfl rfl rfl rfl)
  | indexed areas index => exact hkept hs (.same rfl rfl rfl rfl rfl rfl rfl rfl rfl)
  | scanned =>
    rw [startScan_eq]
    exact hkept hs (.same rfl rfl rfl rfl rfl rfl rfl rfl rfl)
  | faultRead => exact hkept hs (.same rfl rfl rfl rfl rfl rfl rfl rfl rfl)
  | limits ceiling ratio hc hr => exact hmove _ _ hs (.limits ceiling ratio hc hr)
  | masked c next line => cases c <;> exact hkept hs (.same rfl rfl rfl rfl rfl rfl rfl rfl rfl)
  | latched cs =>
    refine hkept hs (Kept.fold (fun u c => ?_) cs s)
    rw [latchIfPending_eq]
    cases c <;> exact .same rfl rfl rfl rfl rfl rfl rfl rfl rfl
  | discarded cs => exact hmove _ _ hs (.discarded cs)
  | tested port t =>
    unfold keepActing
    split <;> cases port <;> exact hkept hs (.same rfl rfl rfl rfl rfl rfl rfl rfl rfl)

theorem event_keeps (hmove : ∀ s t, Inv s → Move s t → Inv t) {s t : State} (hs : Inv s) (h : Event s t) : Inv t := by
  have hkept : ∀ {s t}, Inv s → Kept s t → Inv t := fun hs h => hmove _ _ hs (.kept h)
  cases h with
  | idle => exact hs
  | heldBy cause draws => exact hkept hs (.same rfl rfl rfl rfl rfl rfl rfl rfl rfl)
  | reset pins cause => exact hmove _ _ hs (.reset pins cause)
  | phase fault hpart => exact hkept hs (endPhase_kept fault s)
  | wrote bytes => exact hkept hs ((endRead_linkOnly 0 s).trans (takeTransfer_linkOnly bytes _)).kept
  | readStarts => exact hkept hs ((endRead_linkOnly 0 s).trans (.set _ _)).kept
  | readEnds clocked => exact hkept hs (endRead_linkOnly clocked s).kept
  | refused r rest c hdue => exact hkept hs (.setLink _ _)
  | edge =>
    rw [edgeOn_eq, edgeOn_eq, edgeOn_eq]
    exact hkept hs (.same rfl rfl rfl rfl rfl rfl rfl rfl rfl)
  | pulse since => exact hkept hs (takePulse_kept since)
  | relocked => exact hkept hs (.same rfl rfl rfl rfl rfl rfl rfl rfl rfl)
  | lost => exact hkept hs (.same rfl rfl rfl rfl rfl rfl rfl rfl rfl)
  | marked kind => exact hkept hs (markPeriod_kept kind)
  | carried net head => exact hkept hs (carryPeriod_kept net head)
  | readsMoved f => exact hkept hs (.same rfl rfl rfl rfl rfl rfl rfl rfl rfl)
  | frame e quiet hruns hdue => exact takeFrame_keeps hmove e quiet hs
  | starved l => exact hkept hs (settleDebt_kept l s)
  | dtExpired l => exact hkept hs (.setLeg (.ec fun ⟨hactive, hcaller, _, hdiv⟩ => ⟨hactive, hcaller, Nat.zero_le _, hdiv⟩))
  | callerExpired l => exact hkept hs (.setLeg (.ec fun ⟨_, _, hhang, hdiv⟩ => ⟨rfl, Nat.zero_le _, hhang, hdiv⟩))
  | diverged l hlive => exact hkept hs (divergenceResetOf_kept hlive)
  | vadExpired p => exact hkept hs (.setPos ⟨rfl, rfl, rfl, rfl, rfl, rfl, fun _ => ⟨rfl, Nat.zero_le _⟩⟩)
  | wrapped m => exact hkept hs (.same rfl rfl rfl rfl rfl rfl rfl rfl rfl)
  | expired h p r hat => exact hmove _ _ hs (.ended p _ _ ⟨r, pendingAt_queue hat, rfl⟩)

/-- Every step keeps what every move keeps. -/
theorem step_keeps_moves (hmove : ∀ s t, Inv s → Move s t → Inv t) : ∀ s t, Inv s → step s = .next t → Inv t :=
  step_keeps_tables (fun _ _ hs => hmove _ _ hs (.kept (.same rfl rfl rfl rfl rfl rfl rfl rfl rfl)))
    (fun _ _ hs => hmove _ _ hs (.kept (.setLink _ _))) (fun _ _ => served_keeps hmove) fun _ _ => event_keeps hmove

end

end Sys2Proof.Machine
end

section
/-! PROOF. Staged changes under an invariant (R166 to R169), the teardown's records (R209), and the invariants of activity (R47, R65)
and of limits (R146, R147, R160, R162, R163, R180). -/

namespace Sys2Proof.Machine

/-! ## The staged changes, under an invariant (R166 to R169) -/

/-- s with these classes. -/
abbrev State.withStages (s : State) (r l e : Stage) : State := { s with routing := r, levels := l, echo := e }

/-- The pending lists of these classes have come from those of s by leaving changes out. -/
structure Shrinks (s : State) (r l e : Stage) : Prop where
  routing : r.list.Sublist s.routing.list
  levels : l.list.Sublist s.levels.list
  echo : e.list.Sublist s.echo.list

theorem Shrinks.of_setStage {s : State} {c : ChangeClass} {st : Stage} (h : st.list.Sublist (s.stage c).list) :
    ∃ r l e, s.setStage c st = s.withStages r l e ∧ Shrinks s r l e := by
  cases c
  · exact ⟨st, s.levels, s.echo, rfl, h, .refl _, .refl _⟩
  · exact ⟨s.routing, st, s.echo, rfl, .refl _, h, .refl _⟩
  · exact ⟨s.routing, s.levels, st, rfl, .refl _, .refl _, h⟩

section
variable {Inv : State → Prop} (hkept : ∀ s t, Inv s → Kept s t → Inv t)
  (hshrink : ∀ s r l e, Inv s → Shrinks s r l e → Inv (s.withStages r l e)) (hop : ∀ op s, Inv s → Inv (applyOp op s))
include hkept hshrink

theorem discardAll_keeps (cs : List ChangeClass) {s : State} (hs : Inv s) : Inv (discardAll cs s) := by
  refine List.foldlRecOn (motive := Inv) _ _ hs fun u hu c _ => ?_
  have hclear : Kept u (clearClosing (u.stage c).list u) := by
    refine Kept.fold (fun v x => ?_) _ _
    obtain ⟨tag, arrival, op⟩ := x
    cases op
    case legClose l => exact .setLeg ⟨rfl, rfl, rfl, rfl, id⟩
    all_goals exact .refl v
  have hcleared := hkept _ _ hu hclear
  have hstage : (u.stage c).emptied.list.Sublist ((clearClosing (u.stage c).list u).stage c).list := List.nil_sublist _
  obtain ⟨r, l, e, heq, hr⟩ := Shrinks.of_setStage hstage
  have hdiscard : discardClass c u = _ := heq
  rw [hdiscard]
  exact hshrink _ r l e hcleared hr

include hop

omit hkept in
theorem applyChange_keeps {a : Applied} (ha : Inv a.state) (c : Change) : Inv (applyChange a c).state := by
  have happly := hop c.op a.state ha
  unfold applyChange
  dsimp only
  split
  · exact hshrink _ _ _ _ happly ⟨.refl _, List.filter_sublist, List.filter_sublist⟩
  · split
    · exact happly
    · exact happly
  · exact happly

omit hkept in
theorem applyClass_keeps {a : Applied} (ha : Inv a.state) (c : ChangeClass) : Inv (applyClass a c).state := by
  obtain ⟨r, l, e, heq, hr⟩ := Shrinks.of_setStage (s := a.state) (c := c) (st := (a.state.stage c).emptied) (List.nil_sublist _)
  exact List.foldlRecOn (motive := fun b : Applied => Inv b.state) _ _ (heq ▸ hshrink _ r l e ha hr)
    fun b hb x _ => applyChange_keeps hshrink hop hb x

omit hkept in
theorem applyInOrder_keeps (cs : List ChangeClass) {x : Applied × List (ChangeClass × List Change)} (hx : Inv x.1.state) :
    Inv (applyInOrder cs x).1.state := by
  induction cs generalizing x with
  | nil => exact hx
  | cons c cs ih => exact ih (applyClass_keeps hshrink hop hx c)

/-- The staged changes applied keep what every change, and every list cut short, keeps. -/
theorem stageApplication_keeps {s : State} (hs : Inv s) : Inv (stageApplication s).1 := by
  have hraise : ∀ c cs n u, Inv u → Inv (raiseApplied c cs n u) := fun c cs n u hu => by
    rw [(raiseApplied_eq c cs n u).1]
    exact hkept _ _ hu (.setLink u _)
  have hclear : ∀ st : Stage, (if (st.nextFrame || st.latch) = true then { st with latch := false } else st).list = st.list :=
    fun st => by split <;> rfl
  have happlied := applyInOrder_keeps hshrink hop (applyOrder s)
    (x := ({ state := s, levelsDropped := 0, echoDropped := 0, fresh := [] }, [])) hs
  have hcleared := hkept _ (clearLatches _) happlied
    (.same rfl rfl rfl rfl rfl (hclear _) (hclear _) (hclear _) rfl)
  exact hraise _ _ _ _ (hraise _ _ _ _ (hraise _ _ _ _ hcleared))

end

/-! ## The prompts' endings at a teardown or a disable (R28, R115) -/

theorem cancelAll_step (p : Position) (s : State) : PlayerStep p s (cancelAll p s) :=
  (endSlot_step p .cancelled s).trans
    (PlayerStep.fold (f := fun u r => endPending p .cancelled r u) (fun u r => endPending_step p .cancelled r u) _ _)

/-- From s to t only queues, slots, done lists and duck gains have changed of the positions, and besides them the fetch list, the
reads and the link. -/
structure PlayersOnly (s t : State) : Prop where
  rest : withPlayers s t = s
  pos : ∀ p, withPlayer (s.pos p) (t.pos p) = s.pos p

theorem PlayerStep.players {p : Position} {s t : State} (h : PlayerStep p s t) : PlayersOnly s t := by
  obtain ⟨hrest, hother, hself, _, _⟩ := h
  refine ⟨hrest, fun q => ?_⟩
  by_cases hq : q = p
  · exact hq ▸ hself
  · rw [hother q hq]

theorem PlayersOnly.refl (s : State) : PlayersOnly s s := ⟨rfl, fun _ => rfl⟩

theorem PlayersOnly.trans {s t u : State} (h : PlayersOnly s t) (k : PlayersOnly t u) : PlayersOnly s u :=
  ⟨((congrArg (withPlayers s) k.rest :)).trans h.rest,
    fun p => ((congrArg (withPlayer (s.pos p)) (k.pos p) :)).trans (h.pos p)⟩

theorem cancelPrompts_players (s : State) : PlayersOnly s (cancelPrompts s) := by
  refine List.foldlRecOn (motive := PlayersOnly s) _ _ (.refl s) fun u hu p _ => ?_
  exact hu.trans (cancelAll_step p u).players

theorem stopSources_only (s : State) : withSources s (stopSources s) = s :=
  foldl_keeps (g := withSources s) (f := fun u m => stopSource m u) (fun _ _ => rfl) _ s

theorem stopSources_pos (s : State) (p : Position) : (stopSources s).pos p = s.pos p := by
  have h := stopSources_only s
  generalize stopSources s = t at h ⊢
  exact (congrArg (fun u : State => u.pos p) h :)

/-- R209: the record the teardown leaves of a position. -/
theorem tearDown_pos (s : State) (p : Position) : (tearDown s).pos p = tearPosition ((cancelPrompts (stopSources s)).pos p) := by
  rw [tearDown_eq]
  exact vmap_get _ _ _

theorem tearDown_leg (s : State) (l : Leg) : (tearDown s).leg l = blankLeg := by
  rw [tearDown_eq]
  exact vmap_get _ _ _

theorem eq_of_withPlayer {r q : PosRec} (h : withPlayer r q = r) :
    q = { r with queue := q.queue, slot := q.slot, done := q.done, duck := q.duck } :=
  (congrArg (fun x : PosRec => { x with queue := q.queue, slot := q.slot, done := q.done, duck := q.duck }) h :)

theorem tearDown_work (s : State) : (tearDown s).work = { s.work with commitment := Config.mixReserve, list := [] } := by
  have hstop := stopSources_only s
  rw [tearDown_eq]
  generalize stopSources s = t at hstop ⊢
  have hcancel := (cancelPrompts_players t).rest
  generalize cancelPrompts t = u at hcancel ⊢
  have hwork : u.work = s.work := (congrArg State.work hcancel :).trans (congrArg State.work hstop :)
  rw [clearTables, hwork]

theorem tearDown_list (s : State) (c : ChangeClass) : ((tearDown s).stage c).list = [] := by
  rw [tearDown_eq]
  generalize cancelPrompts (stopSources s) = u
  cases c <;> rfl

/-! ## After a reset (R203) -/

/-- R203: of what the invariants speak of, a reset leaves the blank state. -/
theorem resetPart_kept (pins : Straps) (cause : ResetCause) (s : State) : Kept (blankState pins cause) (resetPart pins cause s) := by
  obtain ⟨part, progress, ns, scan, fetch, heq, _, _⟩ := resetPart_blank pins cause s
  rw [heq]
  exact .same rfl rfl rfl rfl rfl rfl rfl rfl rfl

theorem blankState_leg (pins : Straps) (cause : ResetCause) (l : Leg) : (blankState pins cause).leg l = blankLeg := by
  simp [State.leg, blankState]

theorem blankState_pos (pins : Straps) (cause : ResetCause) (p : Position) : (blankState pins cause).pos p = blankPos := by
  simp [State.pos, blankState]

/-! ## Activity (R43, R47, R48, R65) -/

theorem blankLeg_flags : blankLeg.flagsHeld := ⟨rfl, Nat.zero_le _, Nat.zero_le _, Nat.zero_le _⟩

theorem legAfter_flags {l : Leg} {r : LegRec} (h : r.flagsHeld) (op : ChangeOp) : (legAfter l r op).flagsHeld := by
  cases op with
  | legClose k => simp only [legAfter]; split; exacts [blankLeg_flags, h]
  | groupAdd g m => cases m <;> simp only [legAfter] <;> [(split <;> exact h); exact h]
  | groupRemove g m => cases m <;> simp only [legAfter] <;> [(split <;> exact h); exact h]
  | sendGain t gain => cases t <;> simp only [legAfter] <;> [(split <;> exact h); exact h]
  | hold k m =>
    simp only [legAfter, heldRec]
    split
    · split <;> exact h
    · exact h
  | resume k =>
    simp only [legAfter, resumedRec]
    split
    · split <;> exact h
    · exact h
  | echoSet k bulk shift nlp =>
    simp only [legAfter, echoRec]
    split
    · split
      · exact h
      · cases bulk <;> exact h
    · exact h
  | _ => exact h

theorem posAfter_flags {p : Position} {r : PosRec} (h : r.flagsHeld) (op : ChangeOp) : (posAfter p r op).flagsHeld := by
  cases op with
  | groupAdd g m => cases m <;> simp only [posAfter] <;> [exact h; (split <;> exact h)]
  | groupRemove g m => cases m <;> simp only [posAfter] <;> [exact h; (split <;> exact h)]
  | sendGain t gain => cases t <;> simp only [posAfter] <;> [exact h; (split <;> exact h)]
  | mute q on => simp only [posAfter]; split <;> exact h
  | micSet q trim offset floor sidetone => simp only [posAfter]; split <;> exact h
  | _ => exact h

theorem ActivityHeld.setLeg {s : State} (h : ActivityHeld s) {l : Leg} {r : LegRec} (hr : r.flagsHeld) : ActivityHeld (s.setLeg l r) := by
  refine ⟨fun k => ?_, h.2⟩
  rw [leg_setLeg]
  split
  · exact hr
  · exact h.1 k

theorem ActivityHeld.setPos {s : State} (h : ActivityHeld s) {p : Position} {r : PosRec} (hr : r.flagsHeld) :
    ActivityHeld (s.setPos p r) := by
  refine ⟨h.1, fun q => ?_⟩
  rw [pos_setPos]
  split
  · exact hr
  · exact h.2 q

theorem ActivityHeld.kept {s t : State} (h : ActivityHeld s) (k : Kept s t) : ActivityHeld t :=
  ⟨fun l => (k.leg l).flags (h.1 l), fun p => (k.pos p).flags (h.2 p)⟩

theorem PosRec.flagsHeld.of_mic {r q : PosRec} (h : r.flagsHeld) (hmic : q.mic = r.mic) : q.flagsHeld := by
  unfold PosRec.flagsHeld at h ⊢
  rwa [hmic]

theorem PosRec.flagsHeld.of_vad {q : PosRec} (hvad : q.mic.vad = false) (hhang : q.mic.vadHangover = 0) : q.flagsHeld := by
  unfold PosRec.flagsHeld
  rw [hvad, hhang]
  exact ⟨rfl, Nat.zero_le _⟩

theorem ActivityHeld.players {s t : State} (h : ActivityHeld s) (hp : PlayersOnly s t) : ActivityHeld t := by
  have hleg : t.leg = s.leg := funext fun l => (congrArg (fun u : State => u.leg l) hp.rest :)
  exact ⟨fun l => hleg ▸ h.1 l, fun p => (h.2 p).of_mic (congrArg PosRec.mic (hp.pos p) :)⟩

theorem blankState_activity (pins : Straps) (cause : ResetCause) : ActivityHeld (blankState pins cause) := by
  refine ⟨fun l => ?_, fun p => ?_⟩
  · rw [blankState_leg]; exact blankLeg_flags
  · rw [blankState_pos]; exact ⟨rfl, Nat.zero_le _⟩

theorem ActivityHeld.move {s t : State} (h : ActivityHeld s) (hm : Move s t) : ActivityHeld t := by
  cases hm with
  | kept hk => exact h.kept hk
  | reset pins cause => exact (blankState_activity pins cause).kept (resetPart_kept pins cause s)
  | tornDown =>
    refine ⟨fun l => ?_, fun p => ?_⟩
    · rw [tearDown_leg]; exact blankLeg_flags
    · rw [tearDown_pos]; exact .of_vad rfl rfl
  | opened l slot requested gain hclosed hslot htail =>
    exact ActivityHeld.setLeg h ⟨rfl, Nat.zero_le _, Nat.zero_le _, Nat.zero_le _⟩
  | joined op tag hroom hop =>
    refine ⟨fun l => ?_, fun p => ?_⟩
    · rw [joinList, State.leg_setStage]; exact h.1 l
    · rw [joinList, State.pos_setStage]; exact h.2 p
  | position p on role hfree hroom =>
    unfold positionPut
    split
    · exact ActivityHeld.setPos h (h.2 p)
    · split
      · exact ActivityHeld.setPos h (.of_vad rfl rfl)
      · exact ActivityHeld.setPos (ActivityHeld.setPos (h.players (cancelAll_step p s).players) (.of_vad rfl rfl))
          (.of_vad (by simp [closePosition, stopMic]) (by simp [closePosition, stopMic]))
  | retailed l requested hlive => exact ActivityHeld.setLeg h (h.1 l)
  | queued p k hon hroom hfree => exact ActivityHeld.setPos h (h.2 p)
  | ended p res k hk => exact h.players (endPending_step p res k s).players
  | slotMarked p pl hslot => exact ActivityHeld.setPos h (h.2 p)
  | drained p => exact ActivityHeld.setPos h (h.2 p)
  | limits ceiling ratio hc hr => exact h
  | discarded cs => exact discardAll_keeps (Inv := ActivityHeld) (fun _ _ h k => h.kept k) (fun _ _ _ _ h _ => h) cs h
  | applied =>
    refine stageApplication_keeps (Inv := ActivityHeld) (fun _ _ h k => h.kept k) (fun _ _ _ _ h _ => h)
      (fun op u hu => ⟨fun l => ?_, fun p => ?_⟩) h
    · rw [applyOp_leg]; exact legAfter_flags (hu.1 l) op
    · rw [applyOp_pos]; exact posAfter_flags (hu.2 p) op
  | played ix ls p => exact h.players (playerFrame_step ix ls p s).players

/-- Settles O6: every move keeps each leg's and each position's flags beside their hangovers. -/
theorem activityStaysHeld : Obligations.ActivityStaysHeld := by
  unfold Obligations.ActivityStaysHeld
  exact step_keeps_moves fun _ _ h hm => h.move hm

/-! ## The settings and the pending lists (R146, R147, R160, R162, R163) -/

/-- R160, R162, R163: what LimitsHeld says of the tables: the settings of the budget, and the pending lists. -/
def SettingsHeld (s : State) : Prop :=
  (512 ≤ s.work.ceiling ∧ s.work.ceiling ≤ 2048) ∧ (1 ≤ s.work.ratio ∧ s.work.ratio ≤ 4) ∧
    (s.routing.list.length ≤ 16 ∧ s.levels.list.length ≤ 16 ∧ s.echo.list.length ≤ 16) ∧ ClassesHeld s

/-- R162: a list of one class within its bound. -/
def ListHeld (c : ChangeClass) (cs : List Change) : Prop := cs.length ≤ 16 ∧ ∀ x ∈ cs, x.op.cls = c

theorem ListHeld.sublist {c : ChangeClass} {cs ds : List Change} (h : ListHeld c cs) (hd : ds.Sublist cs) : ListHeld c ds :=
  ⟨hd.length_le.trans h.1, fun x hx => h.2 x (hd.subset hx)⟩

theorem ListHeld.join {c : ChangeClass} {cs : List Change} (h : ListHeld c cs) (hroom : cs.length < 16) {x : Change}
    (hx : x.op.cls = c) : ListHeld c (cs ++ [x]) := by
  refine ⟨by rw [List.length_append]; exact hroom, fun y hy => ?_⟩
  rcases List.mem_append.1 hy with hy | hy
  · exact h.2 y hy
  · rw [List.mem_singleton.1 hy, hx]

theorem settingsHeld_iff {s : State} : SettingsHeld s ↔
    (512 ≤ s.work.ceiling ∧ s.work.ceiling ≤ 2048) ∧ (1 ≤ s.work.ratio ∧ s.work.ratio ≤ 4) ∧
      ∀ c, ListHeld c (s.stage c).list := by
  constructor
  · rintro ⟨hceiling, hratio, ⟨hr, hl, he⟩, hrc, hlc, hec⟩
    exact ⟨hceiling, hratio, fun c => match c with | .routing => ⟨hr, hrc⟩ | .levels => ⟨hl, hlc⟩ | .echo => ⟨he, hec⟩⟩
  · rintro ⟨hceiling, hratio, hlists⟩
    have hr := hlists .routing
    have hl := hlists .levels
    have he := hlists .echo
    exact ⟨hceiling, hratio, ⟨hr.1, hl.1, he.1⟩, hr.2, hl.2, he.2⟩

/-- The settings and the lists of s are all that SettingsHeld speaks of. -/
theorem SettingsHeld.same {s t : State} (h : SettingsHeld s) (hceiling : t.work.ceiling = s.work.ceiling)
    (hratio : t.work.ratio = s.work.ratio) (hlists : ∀ c, (t.stage c).list.Sublist (s.stage c).list) : SettingsHeld t := by
  rw [settingsHeld_iff] at h ⊢
  obtain ⟨hc, hr, hl⟩ := h
  exact ⟨hceiling ▸ hc, hratio ▸ hr, fun c => (hl c).sublist (hlists c)⟩

theorem SettingsHeld.players {s t : State} (h : SettingsHeld s) (hp : PlayersOnly s t) : SettingsHeld t := by
  have hrest := hp.rest
  refine h.same (congrArg (fun u : State => u.work.ceiling) hrest :) (congrArg (fun u : State => u.work.ratio) hrest :) fun c => ?_
  rw [show t.stage c = s.stage c from (congrArg (fun u : State => u.stage c) hrest :)]

theorem closeLeg_stage (l : Leg) (s : State) (c : ChangeClass) : (closeLeg l s).stage c = s.stage c := by
  unfold closeLeg
  dsimp only
  split
  · rfl
  · cases (s.leg l).group <;> cases c <;> rfl

theorem applyOp_stage (op : ChangeOp) (s : State) (c : ChangeClass) : (applyOp op s).stage c = s.stage c := by
  cases op with
  | legClose l => exact closeLeg_stage l s c
  | groupAdd g m => cases m <;> cases c <;> rfl
  | groupRemove g m => cases m <;> cases c <;> rfl
  | hold l m => rw [applyOp, holdLeg_eq]; cases c <;> rfl
  | resume l => rw [applyOp, resumeLeg_eq]; cases c <;> rfl
  | supervise sup a mode coach => unfold applyOp putSupervision; dsimp only; split <;> cases c <;> rfl
  | sendGain t gain => cases t <;> cases c <;> rfl
  | echoSet l bulk shift nlp =>
    rw [applyOp, setEcho_eq]
    split <;> cases c <;> rfl
  | _ => cases c <;> rfl

theorem applyOp_settings (op : ChangeOp) (s : State) :
    (applyOp op s).work.ceiling = s.work.ceiling ∧ (applyOp op s).work.ratio = s.work.ratio := by
  have h := (applyOp_tables op s).1
  generalize applyOp op s = t at h ⊢
  exact ⟨(congrArg (fun u : State => u.work.ceiling) h :), (congrArg (fun u : State => u.work.ratio) h :)⟩

theorem SettingsHeld.kept {s t : State} (h : SettingsHeld s) (k : Kept s t) : SettingsHeld t := by
  refine h.same k.ceiling k.ratio fun c => ?_
  cases c
  · exact (k.routing ▸ .refl _ : t.routing.list.Sublist s.routing.list)
  · exact (k.levels ▸ .refl _ : t.levels.list.Sublist s.levels.list)
  · exact (k.echo ▸ .refl _ : t.echo.list.Sublist s.echo.list)

theorem SettingsHeld.shrinks {s : State} {r l e : Stage} (h : SettingsHeld s) (hs : Shrinks s r l e) :
    SettingsHeld (s.withStages r l e) :=
  h.same rfl rfl fun c => match c with | .routing => hs.routing | .levels => hs.levels | .echo => hs.echo

theorem blankState_settings (pins : Straps) (cause : ResetCause) : SettingsHeld (blankState pins cause) :=
  settingsHeld_iff.2 ⟨(by decide : 512 ≤ 2048 ∧ 2048 ≤ 2048), (by decide : 1 ≤ 2 ∧ 2 ≤ 4), fun c => by
    cases c <;> exact ⟨Nat.zero_le _, by simp [blankState, blankStage, State.stage]⟩⟩

theorem SettingsHeld.move {s t : State} (h : SettingsHeld s) (hm : Move s t) : SettingsHeld t := by
  have halike : ∀ {u : State}, u.work.ceiling = s.work.ceiling → u.work.ratio = s.work.ratio →
      (∀ c, u.stage c = s.stage c) → SettingsHeld u := fun hc hr hl => h.same hc hr fun c => (hl c) ▸ .refl _
  cases hm with
  | kept hk => exact h.kept hk
  | reset pins cause => exact (blankState_settings pins cause).kept (resetPart_kept pins cause s)
  | tornDown =>
    refine h.same (by rw [tearDown_work]) (by rw [tearDown_work]) fun c => ?_
    rw [tearDown_list]
    exact List.nil_sublist _
  | opened l slot requested gain hclosed hslot htail => exact halike rfl rfl fun c => by cases c <;> rfl
  | joined op tag hroom hop =>
    have hwork : (joinList op tag s).work = s.work := by rw [joinList, State.setStage_work]
    rw [settingsHeld_iff, hwork]
    obtain ⟨hc, hr, hl⟩ := settingsHeld_iff.1 h
    refine ⟨hc, hr, fun c => ?_⟩
    by_cases hcop : c = op.cls
    · subst hcop
      rw [joinList, State.stage_setStage_same]
      exact (hl _).join hroom rfl
    · rw [joinList, State.stage_setStage_other _ _ _ _ hcop]
      exact hl c
  | position p on role hfree hroom =>
    unfold positionPut
    split
    · exact halike rfl rfl fun c => by cases c <;> rfl
    · split
      · exact halike rfl rfl fun c => by cases c <;> rfl
      · exact (h.players (cancelAll_step p s).players).same rfl rfl fun c => by cases c <;> exact .refl _
  | retailed l requested hlive => exact halike rfl rfl fun c => by cases c <;> rfl
  | queued p k hon hroom hfree => exact halike rfl rfl fun c => by cases c <;> rfl
  | ended p res k hk => exact h.players (endPending_step p res k s).players
  | slotMarked p pl hslot => exact halike rfl rfl fun c => by cases c <;> rfl
  | drained p => exact halike rfl rfl fun c => by cases c <;> rfl
  | limits ceiling ratio hc hr =>
    obtain ⟨hceiling, hratio, hlists⟩ := settingsHeld_iff.1 h
    refine settingsHeld_iff.2 ⟨?_, ?_, fun c => by cases c <;> exact hlists _⟩
    · rcases hc with ⟨hlow, hhigh, _⟩ | heq
      · exact ⟨hlow, hhigh⟩
      · exact heq ▸ hceiling
    · rcases hr with hr | heq
      · exact hr
      · exact heq ▸ hratio
  | discarded cs => exact discardAll_keeps (fun _ _ h k => h.kept k) (fun _ _ _ _ h hs => h.shrinks hs) cs h
  | applied =>
    refine stageApplication_keeps (fun _ _ h k => h.kept k) (fun _ _ _ _ h hs => h.shrinks hs) (fun op u hu => ?_) h
    exact hu.same (applyOp_settings op u).1 (applyOp_settings op u).2 fun c => (applyOp_stage op u c) ▸ .refl _
  | played ix ls p => exact h.players (playerFrame_step ix ls p s).players

/-! ## The counts of the sync, of the periods and of the later failures (R132, R178, R180) -/

/-- R132, R178, R180: what LimitsHeld says of counts. -/
def CountsHeld (s : State) : Prop :=
  (s.sync.seeking ≤ 63 ∧ s.sync.slips ≤ 65535 ∧ s.sync.losses ≤ 65535) ∧ s.clock.period ≤ 63 ∧ s.fault.later ≤ 255

theorem limitsHeld_iff {s : State} : LimitsHeld s ↔ SettingsHeld s ∧ CountsHeld s := by
  unfold LimitsHeld SettingsHeld CountsHeld
  exact ⟨fun ⟨hc, hr, hl, hcl, hs, hp, hf⟩ => ⟨⟨hc, hr, hl, hcl⟩, hs, hp, hf⟩,
    fun ⟨⟨hc, hr, hl, hcl⟩, hs, hp, hf⟩ => ⟨hc, hr, hl, hcl, hs, hp, hf⟩⟩

/-- From s to t the counts have stayed. -/
structure CountsKept (s t : State) : Prop where
  sync : t.sync = s.sync
  period : t.clock.period = s.clock.period
  later : t.fault = s.fault

theorem CountsKept.trans {s t u : State} (h : CountsKept s t) (k : CountsKept t u) : CountsKept s u :=
  ⟨k.sync.trans h.sync, k.period.trans h.period, k.later.trans h.later⟩

theorem CountsHeld.kept {s t : State} (h : CountsHeld s) (k : CountsKept s t) : CountsHeld t := by
  obtain ⟨hsync, hperiod, hlater⟩ := h
  exact ⟨k.sync ▸ hsync, k.period ▸ hperiod, k.later ▸ hlater⟩

theorem PlayersOnly.counts {s t : State} (h : PlayersOnly s t) : CountsKept s t :=
  ⟨(congrArg State.sync h.rest :), (congrArg (fun u : State => u.clock.period) h.rest :), (congrArg State.fault h.rest :)⟩

theorem tearDown_counts (s : State) : CountsKept s (tearDown s) := by
  have hstop := stopSources_only s
  rw [tearDown_eq]
  generalize stopSources s = t at hstop ⊢
  have hcancel := (cancelPrompts_players t).counts
  generalize cancelPrompts t = u at hcancel ⊢
  refine CountsKept.trans (t := t)
    ⟨(congrArg State.sync hstop :), (congrArg (fun u : State => u.clock.period) hstop :), (congrArg State.fault hstop :)⟩ ?_
  exact hcancel.trans ⟨rfl, rfl, rfl⟩

theorem CountsHeld.served {s t : State} (h : CountsHeld s) (hs : Served s t) : CountsHeld t := by
  have hkept : ∀ {u}, CountsKept s u → CountsHeld u := fun k => h.kept k
  cases hs with
  | same => exact h
  | tornDown => exact hkept (tearDown_counts s)
  | staged op tag hroom hop => exact hkept ⟨State.setStage_sync _ _ _, by rw [joinList, State.setStage_clock], State.setStage_fault _ _ _⟩
  | closing l tag hroom => exact hkept ⟨rfl, rfl, rfl⟩
  | position p on role hfree hroom =>
    unfold positionPut
    split
    · exact hkept ⟨rfl, rfl, rfl⟩
    · split
      · exact hkept ⟨rfl, rfl, rfl⟩
      · exact hkept ((cancelAll_step p s).players.counts.trans ⟨rfl, rfl, rfl⟩)
  | cancelled hd p k hat => exact hkept (endPending_step p .cancelled k s).players.counts
  | scanned => rw [startScan_eq]; exact hkept ⟨rfl, rfl, rfl⟩
  | faultRead => exact ⟨h.1, h.2.1, Nat.zero_le _⟩
  | masked c next line => cases c <;> exact hkept ⟨rfl, rfl, rfl⟩
  | latched cs =>
    refine List.foldlRecOn (motive := CountsHeld) _ _ h fun u hu c _ => hu.kept ?_
    exact ⟨State.setStage_sync _ _ _, by rw [State.setStage_clock], State.setStage_fault _ _ _⟩
  | discarded cs =>
    have hapart := discardAll_apart cs s
    exact hkept ⟨(congrArg State.sync hapart :), (congrArg (fun u : State => u.clock.period) hapart :),
      (congrArg State.fault hapart :)⟩
  | tested port t => unfold keepActing; split <;> cases port <;> exact hkept ⟨rfl, rfl, rfl⟩
  | _ => exact hkept ⟨rfl, rfl, rfl⟩

theorem runTest_counts (p : Port) (sent : Bool) (received : Option Sample) (s : State) :
    CountsKept s (runTest p sent received s) := by
  have hset : ∀ t : PortTest, CountsKept s (s.setTest p t) := fun t => by cases p <;> exact ⟨rfl, rfl, rfl⟩
  unfold runTest
  split
  · exact ⟨rfl, rfl, rfl⟩
  · dsimp only
    split
    · exact hset _
    · exact (hset _).trans ⟨rfl, rfl, rfl⟩

theorem carryPeriod_counts (net : Vector Word16 32) (head : Vector Word16 16) (s : State) : CountsKept s (carryPeriod net head s) := by
  have htested : ∀ u : State, CountsKept u (tested net head s u) := fun u => (runTest_counts _ _ _ _).trans (runTest_counts _ _ _ _)
  rw [carryPeriod_eq]
  have hsampled : CountsKept s (sampled net head s) := ⟨rfl, rfl, rfl⟩
  refine (hsampled.trans (htested (sampled net head s))).trans ?_
  generalize tested net head s (sampled net head s) = u
  exact ⟨rfl, rfl, rfl⟩

/-- R178: a mark counts the periods 0 to 63. -/
theorem beginPeriod_period (kind : MarkKind) {c : Clock} (h : c.period ≤ 63) : (beginPeriod kind c).period ≤ 63 := by
  unfold beginPeriod
  split
  · exact Nat.zero_le _
  · split
    · exact Nat.zero_le _
    next hlast => show c.period + 1 ≤ 63; omega

theorem CountsHeld.mark {s : State} (h : CountsHeld s) (kind : MarkKind) : CountsHeld (markPeriod kind s) := by
  unfold markPeriod
  split
  · exact h
  · have hcarried : CountsHeld (if s.clock.carried then s else carryPeriod (Vector.replicate 32 0) (Vector.replicate 16 0) s) := by
      split
      · exact h
      · exact h.kept (carryPeriod_counts _ _ s)
    obtain ⟨hsync, hperiod, hlater⟩ := hcarried
    exact ⟨hsync, beginPeriod_period kind hperiod, hlater⟩

theorem CountsHeld.relock {s : State} (h : CountsHeld s) : CountsHeld (relockSync s) :=
  ⟨⟨Nat.zero_le _, satInc_le _ _, h.1.2.2⟩, h.2.1, h.2.2⟩

theorem CountsHeld.pulse {s : State} (h : CountsHeld s) (since : Nat) : CountsHeld (takePulse since s) := by
  obtain ⟨⟨hseeking, hslips, hlosses⟩, hrest⟩ := h
  unfold takePulse
  split
  · split
    · exact CountsHeld.mark ⟨⟨hseeking, hslips, hlosses⟩, hrest⟩ _
    · exact ⟨⟨hseeking, hslips, hlosses⟩, hrest⟩
  · unfold seekPulse
    split
    · exact CountsHeld.relock ⟨⟨hseeking, hslips, hlosses⟩, hrest⟩
    next hmore => exact ⟨⟨by show s.sync.seeking + 1 ≤ 63; omega, hslips, hlosses⟩, hrest⟩
  · exact ⟨⟨(by decide : 1 ≤ 63), hslips, hlosses⟩, hrest⟩

theorem takeFault_later (s : State) (it : FetchItem) (o : Nat) : (takeFault it o s).fault.later ≤ 255 := by
  unfold takeFault
  split
  · exact satInc_le _ _
  · exact Nat.zero_le _

theorem landReads_counts {s : State} (hs : CountsHeld s) : CountsHeld (landReads s).1 := by
  refine List.foldlRecOn (motive := CountsHeld) _ _ hs fun u hu x _ => ?_
  cases x.outcome with
  | ok w => exact hu
  | error o =>
    refine ⟨?_, ?_, takeFault_later u x.item o⟩
    · show (takeFault x.item o u).sync.seeking ≤ 63 ∧ _
      rw [show (takeFault x.item o u).sync = u.sync by unfold takeFault; split <;> rfl]
      exact hu.1
    · show (takeFault x.item o u).clock.period ≤ 63
      rw [show (takeFault x.item o u).clock = u.clock by unfold takeFault; split <;> rfl]
      exact hu.2.1

theorem settleOpening_counts (o : Opening) (s : State) : CountsKept s (settleOpening o s) := by
  have h := settleOpening_only o s
  generalize settleOpening o s = t at h ⊢
  exact ⟨(congrArg State.sync h :), (congrArg (fun u : State => u.clock.period) h :), (congrArg State.fault h :)⟩

theorem runningFrame_counts (e : FrameEnd) (ls : List Landed) (s : State) : CountsKept s (runningFrame e ls s) := by
  have happlied : CountsKept s (stageApplication s).1 := by
    have h := (stageApplication_only s).1.1
    generalize (stageApplication s).1 = t at h ⊢
    exact ⟨(congrArg State.sync h :), (congrArg (fun u : State => u.clock.period) h :), (congrArg State.fault h :)⟩
  have hopened := happlied.trans (settleOpening_counts (openingPart (stageApplication s).1) _)
  have hramped := rampStep_only s (stageApplication s).2 (settleOpening (openingPart (stageApplication s).1) (stageApplication s).1)
  unfold runningFrame
  dsimp only
  generalize settleOpening (openingPart (stageApplication s).1) (stageApplication s).1 = u at hopened hramped ⊢
  generalize rampStep s (stageApplication s).2 u = v at hramped ⊢
  obtain ⟨_, _, _, _, hrest, _⟩ := audioFrame_eq e ls (openingPart (stageApplication s).1) (spareOf (stageApplication s).1) v
  generalize audioFrame e ls (openingPart (stageApplication s).1) (spareOf (stageApplication s).1) v = w at hrest ⊢
  simp only [restOf, Prod.mk.injEq] at hrest
  obtain ⟨_, _, _, _, _, _, _, _, hsync, hclock, _, _, _, _, _, _, _, hfault, _⟩ := hrest
  refine (hopened.trans (t := u) (u := v) ⟨(congrArg State.sync hramped :), (congrArg (fun u : State => u.clock.period) hramped :),
    (congrArg State.fault hramped :)⟩).trans ⟨hsync, by rw [hclock], hfault⟩

theorem standbyFrame_counts (ls : List Landed) (s : State) : CountsKept s (standbyFrame ls s) := by
  have hopened := settleOpening_counts (openingPart s) s
  unfold standbyFrame
  dsimp only
  generalize settleOpening (openingPart s) s = u at hopened ⊢
  have hscan := landScan_only ls u
  generalize landScan ls u = x at hscan ⊢
  have hplace := placeScan_only x.2 x.1
  generalize placeScan x.2 x.1 = v at hplace ⊢
  have hv : CountsKept u v := CountsKept.trans (t := x.1)
    ⟨(congrArg State.sync hscan :), (congrArg (fun u : State => u.clock.period) hscan :), (congrArg State.fault hscan :)⟩
    ⟨(congrArg State.sync hplace :), (congrArg (fun u : State => u.clock.period) hplace :), (congrArg State.fault hplace :)⟩
  exact (hopened.trans hv).trans ⟨rfl, rfl, rfl⟩

theorem CountsHeld.frame {s : State} (h : CountsHeld s) (e : FrameEnd) (quiet : Bool) : CountsHeld (takeFrame e quiet s) := by
  have hlanded := landReads_counts (s := openFrame e quiet s) h
  have hdone : CountsHeld (if s.part = .running then
      runningFrame e (landReads (openFrame e quiet s)).2 (landReads (openFrame e quiet s)).1
      else standbyFrame (landReads (openFrame e quiet s)).2 (landReads (openFrame e quiet s)).1) := by
    split
    · exact hlanded.kept (runningFrame_counts e _ _)
    · exact hlanded.kept (standbyFrame_counts _ _)
  unfold takeFrame
  dsimp only
  generalize (if s.part = .running then _ else _ : State) = u at hdone ⊢
  exact hdone

theorem CountsHeld.event {s t : State} (h : CountsHeld s) (he : Event s t) : CountsHeld t := by
  have hkept : ∀ {u}, CountsKept s u → CountsHeld u := fun k => h.kept k
  have hlink : ∀ {u}, LinkOnly s u → CountsHeld u := fun ⟨_, hu⟩ => hu ▸ hkept ⟨rfl, rfl, rfl⟩
  cases he with
  | idle => exact h
  | reset pins cause =>
    obtain ⟨part, progress, ns, scan, fetch, heq, _, _⟩ := resetPart_blank pins cause s
    rw [heq]
    exact ⟨⟨Nat.zero_le _, Nat.zero_le _, Nat.zero_le _⟩, Nat.zero_le _, Nat.zero_le _⟩
  | phase fault hpart =>
    unfold endPhase
    split
    · exact h
    · split
      · exact h
      · rw [enterStandby_eq]
        have hstanding : CountsHeld (standing s) := ⟨h.1, Nat.zero_le _, h.2.2⟩
        split
        · rw [startScan_eq]; exact hstanding
        · exact hstanding
  | wrote bytes => exact hlink ((endRead_linkOnly 0 s).trans (takeTransfer_linkOnly bytes _))
  | readStarts => exact hlink ((endRead_linkOnly 0 s).trans (.set _ _))
  | readEnds clocked => exact hlink (endRead_linkOnly clocked s)
  | pulse since => exact h.pulse since
  | relocked => exact h.relock
  | lost => exact ⟨⟨Nat.zero_le _, h.1.2.1, satInc_le _ _⟩, h.2⟩
  | marked kind => exact h.mark kind
  | carried net head => exact hkept (carryPeriod_counts net head s)
  | frame e quiet hruns hdue => exact h.frame e quiet
  | starved l =>
    have hhide := settleDebt_hide l s
    exact hkept ⟨(congrArg State.sync hhide :), (congrArg (fun u : State => u.clock.period) hhide :), (congrArg State.fault hhide :)⟩
  | expired hd p r hat => exact hkept (endPending_step p .expired (waited r) s).players.counts
  | _ => exact hkept ⟨rfl, rfl, rfl⟩

/-- Settles O5: the settings and lists go by the moves, and the counts by the commands that count. -/
theorem limitsStayHeld : Obligations.LimitsStayHeld := by
  unfold Obligations.LimitsStayHeld
  intro s t h hstep
  rw [limitsHeld_iff] at h ⊢
  exact ⟨step_keeps_moves (fun _ _ h hm => SettingsHeld.move h hm) s t h.1 hstep,
    step_keeps_tables (fun _ _ h => h) (fun _ _ h => h) (fun _ _ h hs => h.served hs) (fun _ _ h he => h.event he) s t h.2 hstep⟩

end Sys2Proof.Machine
end

section
/-! PROOF. The invariant of the budget (R146, R147, R150): the commitment as a sum over the tables, under each move. -/

namespace Sys2Proof.Machine

/-! ## The commitment as a sum (R146) -/

/-- R146: what an enabled position has committed. -/
def committedPos (r : PosRec) : Nat := if r.enabled then Config.positionCost else 0

/-- R146: what the positions have committed together. -/
def positionsCommitted (s : State) : Nat := ∑ p : Position, committedPos (s.pos p)

/-- R146: what the legs have committed together. -/
def legsCommitted (s : State) : Nat := ∑ l : Leg, committedLeg (s.leg l)

theorem commitmentOf_eq (s : State) : commitmentOf s = Config.mixReserve + positionsCommitted s + legsCommitted s := by
  have hlegs : (s.legs.toList.map committedLeg).sum = legsCommitted s := by
    rw [legsCommitted, Fin.sum_univ_def, toList_eq_map_finRange, List.map_map]
    rfl
  have hpos : enabledCount s * Config.positionCost = positionsCommitted s := by
    simp only [positionsCommitted, committedPos]
    rw [← Finset.sum_filter, Finset.sum_const, smul_eq_mul, enabledCount_eq, ← List.toFinset_card_of_nodup
      ((List.nodup_finRange 16).filter _)]
    congr 2
    ext p
    simp
  rw [commitmentOf, hlegs, hpos]

/-- A sum in which one term has changed. -/
theorem sum_changed {n : Nat} {f g : Fin n → Nat} (i : Fin n) (h : ∀ k, k ≠ i → g k = f k) : ∑ k, g k + f i = ∑ k, f k + g i := by
  have hrest : ∑ k ∈ Finset.univ.erase i, g k = ∑ k ∈ Finset.univ.erase i, f k :=
    Finset.sum_congr rfl fun k hk => h k (Finset.ne_of_mem_erase hk)
  rw [← Finset.add_sum_erase _ f (Finset.mem_univ i), ← Finset.add_sum_erase _ g (Finset.mem_univ i), hrest]
  omega

theorem legsCommitted_congr {s t : State} (h : ∀ l, committedLeg (t.leg l) = committedLeg (s.leg l)) :
    legsCommitted t = legsCommitted s := Finset.sum_congr rfl fun l _ => h l

theorem positionsCommitted_congr {s t : State} (h : ∀ p, committedPos (t.pos p) = committedPos (s.pos p)) :
    positionsCommitted t = positionsCommitted s := Finset.sum_congr rfl fun p _ => h p

theorem legsCommitted_changed {s t : State} (l : Leg) (h : ∀ k, k ≠ l → committedLeg (t.leg k) = committedLeg (s.leg k)) :
    legsCommitted t + committedLeg (s.leg l) = legsCommitted s + committedLeg (t.leg l) := sum_changed l h

theorem positionsCommitted_changed {s t : State} (p : Position) (h : ∀ q, q ≠ p → committedPos (t.pos q) = committedPos (s.pos q)) :
    positionsCommitted t + committedPos (s.pos p) = positionsCommitted s + committedPos (t.pos p) := sum_changed p h

theorem committedPos_congr {r q : PosRec} (h : q.enabled = r.enabled) : committedPos q = committedPos r := by
  rw [committedPos, committedPos, h]

theorem commitmentOf_idle {s : State} (hleg : ∀ l, (s.leg l).live = false) (hpos : ∀ p, (s.pos p).enabled = false) :
    commitmentOf s = Config.mixReserve := by
  have hlegs : legsCommitted s = 0 := Finset.sum_eq_zero fun l _ => by simp [committedLeg, hleg]
  have hposs : positionsCommitted s = 0 := Finset.sum_eq_zero fun p _ => by simp [committedPos, hpos]
  rw [commitmentOf_eq, hlegs, hposs, Nat.add_zero]

theorem pos_setPos_enabled {s : State} {p : Position} {r : PosRec} (h : r.enabled = (s.pos p).enabled) (q : Position) :
    ((s.setPos p r).pos q).enabled = (s.pos q).enabled := by
  rw [pos_setPos]
  split
  next hq => rw [h, hq]
  next => rfl

/-! ## Tables that change (R16, R18, R27, R55) -/

section
variable {s t : State}

/-- No record's cost has changed. -/
theorem BudgetHeld.same (h : BudgetHeld s) (hleg : ∀ l, committedLeg (t.leg l) = committedLeg (s.leg l))
    (hpos : ∀ p, (t.pos p).enabled = (s.pos p).enabled) (hcommitment : t.work.commitment = s.work.commitment)
    (hfits : s.work.commitment ≤ t.work.ceiling) (hlist : ListExact t) : BudgetHeld t := by
  obtain ⟨hsum, _, _, _⟩ := h
  refine ⟨?_, hcommitment ▸ hfits, hlist⟩
  rw [hcommitment, hsum, commitmentOf_eq, commitmentOf_eq, legsCommitted_congr hleg,
    positionsCommitted_congr fun p => committedPos_congr (hpos p)]

/-- One leg's cost has changed, and the commitment with it. -/
theorem BudgetHeld.changeLeg (h : BudgetHeld s) (l : Leg) (hleg : ∀ k, k ≠ l → committedLeg (t.leg k) = committedLeg (s.leg k))
    (hpos : ∀ p, (t.pos p).enabled = (s.pos p).enabled)
    (hcommitment : t.work.commitment + committedLeg (s.leg l) = s.work.commitment + committedLeg (t.leg l))
    (hfits : t.work.commitment ≤ t.work.ceiling) (hlist : ListExact t) : BudgetHeld t := by
  obtain ⟨hsum, _, _, _⟩ := h
  have hmoved := legsCommitted_changed l hleg
  refine ⟨?_, hfits, hlist⟩
  rw [commitmentOf_eq] at hsum ⊢
  rw [positionsCommitted_congr fun p => committedPos_congr (hpos p)]
  omega

/-- One position's cost has changed, and the commitment with it. -/
theorem BudgetHeld.changePos (h : BudgetHeld s) (p : Position) (hpos : ∀ q, q ≠ p → committedPos (t.pos q) = committedPos (s.pos q))
    (hleg : t.leg = s.leg)
    (hcommitment : t.work.commitment + committedPos (s.pos p) = s.work.commitment + committedPos (t.pos p))
    (hfits : t.work.commitment ≤ t.work.ceiling) (hlist : ListExact t) : BudgetHeld t := by
  obtain ⟨hsum, _, _, _⟩ := h
  have hmoved := positionsCommitted_changed p hpos
  refine ⟨?_, hfits, hlist⟩
  rw [commitmentOf_eq] at hsum ⊢
  rw [legsCommitted_congr (s := s) (t := t) fun l => by rw [hleg]]
  omega

theorem BudgetHeld.committedLeg_le (h : BudgetHeld s) (l : Leg) : committedLeg (s.leg l) ≤ s.work.commitment := by
  have hone : committedLeg (s.leg l) ≤ legsCommitted s :=
    Finset.single_le_sum (f := fun k => committedLeg (s.leg k)) (fun _ _ => Nat.zero_le _) (Finset.mem_univ l)
  obtain ⟨hsum, _, _, _⟩ := h
  rw [hsum, commitmentOf_eq]
  omega

theorem BudgetHeld.committedPos_le (h : BudgetHeld s) (p : Position) : committedPos (s.pos p) ≤ s.work.commitment := by
  have hone : committedPos (s.pos p) ≤ positionsCommitted s :=
    Finset.single_le_sum (f := fun q => committedPos (s.pos q)) (fun _ _ => Nat.zero_le _) (Finset.mem_univ p)
  obtain ⟨hsum, _, _, _⟩ := h
  rw [hsum, commitmentOf_eq]
  omega

theorem BudgetHeld.list (h : BudgetHeld s) : ListExact s := h.2.2

theorem BudgetHeld.fits (h : BudgetHeld s) : s.work.commitment ≤ s.work.ceiling := h.2.1

theorem BudgetHeld.kept (h : BudgetHeld s) (k : Kept s t) : BudgetHeld t :=
  h.same (fun l => by rw [committedLeg, committedLeg, (k.leg l).live, (k.leg l).tail]) (fun p => (k.pos p).enabled) k.commitment
    (k.ceiling ▸ h.fits) (k.list h.list)

theorem BudgetHeld.players (h : BudgetHeld s) (hp : PlayersOnly s t) : BudgetHeld t := by
  have hleg : t.leg = s.leg := funext fun l => (congrArg (fun u : State => u.leg l) hp.rest :)
  have hwork : t.work = s.work := (congrArg State.work hp.rest :)
  exact h.same (fun l => by rw [hleg]) (fun p => (congrArg PosRec.enabled (hp.pos p) :)) (by rw [hwork])
    (by rw [hwork]; exact h.fits) (h.list.congr (by rw [hwork]) fun l => by rw [hleg])

end

/-! ## The changes (R18, R52) -/

theorem leaveGroup_work (g : Group) (m : Member) (s : State) : (leaveGroup g m s).work = s.work := by cases m <;> rfl

theorem closeLeg_work {l : Leg} {s : State} (h : (s.leg l).state ≠ .closed) :
    (closeLeg l s).work = { s.work with
      commitment := s.work.commitment - legCost (s.leg l).tail, list := s.work.list.filter (· != l) } := by
  unfold closeLeg
  dsimp only
  rw [if_neg h]
  cases hg : (s.leg l).group with
  | none => rfl
  | some g => simp only [State.setLeg_work, State.setWork_work, leaveGroup_work]

theorem closeLeg_closed {l : Leg} {s : State} (h : (s.leg l).state = .closed) : closeLeg l s = s := if_pos h

theorem closeLeg_pos (l : Leg) (s : State) (p : Position) : (closeLeg l s).pos p = s.pos p := applyOp_pos (.legClose l) s p

theorem BudgetHeld.close {s : State} (h : BudgetHeld s) (l : Leg) : BudgetHeld (closeLeg l s) := by
  by_cases hclosed : (s.leg l).state = .closed
  · rw [closeLeg_closed hclosed]
    exact h
  · have hwork := closeLeg_work hclosed
    have hcost : committedLeg (s.leg l) = legCost (s.leg l).tail := if_pos (live_of_ne_closed hclosed)
    have hle := h.committedLeg_le l
    have hleg : ∀ k, (closeLeg l s).leg k = if k = l then blankLeg else s.leg k := fun k => by
      rw [leg_closeLeg]
      by_cases hk : l = k
      · subst hk; rw [if_pos ⟨rfl, hclosed⟩, if_pos rfl]
      · rw [if_neg (fun hk' => hk hk'.1), if_neg (Ne.symm hk)]
    refine h.changeLeg l (fun k hk => by rw [hleg, if_neg hk]) (fun p => by rw [closeLeg_pos]) ?_ ?_ ⟨?_, fun k => ?_⟩
    · rw [hwork, hleg, if_pos rfl, hcost]
      rw [hcost] at hle
      show s.work.commitment - legCost (s.leg l).tail + legCost (s.leg l).tail = s.work.commitment + 0
      omega
    · rw [hwork]
      exact (Nat.sub_le _ _).trans h.fits
    · rw [hwork]
      exact h.list.1.filter _
    · rw [hwork, hleg]
      show k ∈ s.work.list.filter (· != l) ↔ _
      rw [List.mem_filter, h.list.2 k]
      by_cases hk : k = l
      · simp [hk, blankLeg, LegRec.live]
      · simp [hk]

/-- The two records cost the same. -/
def CostsAlike (r q : LegRec) : Prop := q.live = r.live ∧ q.tail = r.tail

theorem CostsAlike.ite {c : Prop} [Decidable c] {r q : LegRec} (h : CostsAlike r q) : CostsAlike r (if c then q else r) := by
  split
  · exact h
  · exact ⟨rfl, rfl⟩

theorem heldRec_cost (m : Source) (r : LegRec) : CostsAlike r (heldRec m r) := by
  obtain ⟨state, slot⟩ := r
  cases state <;> exact ⟨rfl, rfl⟩

theorem resumedRec_cost (r : LegRec) : CostsAlike r (resumedRec r) := by
  obtain ⟨state, slot⟩ := r
  cases state <;> exact ⟨rfl, rfl⟩

theorem echoRec_cost (bulk shift : Option Nat) (nlp : Option Bool) (r : LegRec) : CostsAlike r (echoRec bulk shift nlp r) := by
  unfold echoRec
  split <;> exact ⟨rfl, rfl⟩

/-- R18: no change but a close moves a leg's cost. -/
theorem legAfter_cost {l : Leg} {op : ChangeOp} (h : ∀ k, op ≠ .legClose k) (r : LegRec) : CostsAlike r (legAfter l r op) := by
  have hsame : CostsAlike r r := ⟨rfl, rfl⟩
  cases op with
  | legClose k => exact absurd rfl (h k)
  | groupAdd g m =>
    cases m with
    | leg k => exact CostsAlike.ite (q := { r with group := some g }) ⟨rfl, rfl⟩
    | pos q => exact hsame
  | groupRemove g m =>
    cases m with
    | leg k => exact CostsAlike.ite (q := { r with group := none }) ⟨rfl, rfl⟩
    | pos q => exact hsame
  | sendGain t gain =>
    cases t with
    | leg k => exact CostsAlike.ite (q := { r with sendGain := gain }) ⟨rfl, rfl⟩
    | pos q => exact hsame
  | hold k m => exact (heldRec_cost m r).ite
  | resume k => exact (resumedRec_cost r).ite
  | echoSet k bulk shift nlp => exact (echoRec_cost bulk shift nlp r).ite
  | _ => exact hsame

/-- R27: no change enables, disables or changes a role. -/
theorem posAfter_service (p : Position) (r : PosRec) (op : ChangeOp) :
    (posAfter p r op).enabled = r.enabled ∧ (posAfter p r op).role = r.role := by
  have hite : ∀ {c : Prop} [Decidable c] {q : PosRec}, q.enabled = r.enabled ∧ q.role = r.role →
      (if c then q else r).enabled = r.enabled ∧ (if c then q else r).role = r.role := fun h => by
    split
    · exact h
    · exact ⟨rfl, rfl⟩
  cases op with
  | groupAdd g m =>
    cases m with
    | leg k => exact ⟨rfl, rfl⟩
    | pos q => exact hite (q := { r with group := some g }) ⟨rfl, rfl⟩
  | groupRemove g m =>
    cases m with
    | leg k => exact ⟨rfl, rfl⟩
    | pos q => exact hite (q := { r with group := none }) ⟨rfl, rfl⟩
  | sendGain t gain =>
    cases t with
    | leg k => exact ⟨rfl, rfl⟩
    | pos q => exact hite (q := { r with sendGain := gain }) ⟨rfl, rfl⟩
  | mute q on => exact hite (q := { r with muted := on }) ⟨rfl, rfl⟩
  | micSet q trim offset floor sidetone => exact hite (q := micRec trim offset floor sidetone r) ⟨rfl, rfl⟩
  | _ => exact ⟨rfl, rfl⟩

/-- R52: of the work, a change that is no close moves the adaptation list alone, to whose head a live leg goes. -/
theorem applyOp_work {op : ChangeOp} (h : ∀ k, op ≠ .legClose k) (s : State) :
    (applyOp op s).work = s.work ∨
      ∃ l, (s.leg l).live = true ∧ (applyOp op s).work = { s.work with list := moveHead l s.work.list } := by
  cases op with
  | legClose k => exact absurd rfl (h k)
  | groupAdd g m => cases m <;> exact .inl rfl
  | groupRemove g m => exact .inl (leaveGroup_work g m s)
  | hold l m => rw [applyOp, holdLeg_eq]; exact .inl rfl
  | resume l => rw [applyOp, resumeLeg_eq]; exact .inl rfl
  | supervise sup a mode coach => unfold applyOp putSupervision; dsimp only; split <;> exact .inl rfl
  | sendGain t gain => cases t <;> exact .inl rfl
  | echoSet l bulk shift nlp =>
    rw [applyOp, setEcho_eq]
    split
    next hc => exact .inr ⟨l, live_of_ne_closed hc.1, rfl⟩
    next => exact .inl rfl
  | _ => exact .inl rfl

theorem BudgetHeld.change {s : State} (h : BudgetHeld s) (op : ChangeOp) : BudgetHeld (applyOp op s) := by
  by_cases hop : ∃ l, op = .legClose l
  · obtain ⟨l, rfl⟩ := hop
    exact h.close l
  · have hop' : ∀ l, op ≠ .legClose l := fun l hl => hop ⟨l, hl⟩
    have hlive : ∀ l, ((applyOp op s).leg l).live = (s.leg l).live := fun l => by
      rw [applyOp_leg]; exact (legAfter_cost hop' _).1
    have hcost : ∀ l, committedLeg ((applyOp op s).leg l) = committedLeg (s.leg l) := fun l => by
      rw [committedLeg, committedLeg, hlive, applyOp_leg, (legAfter_cost hop' _).2]
    have hpos : ∀ p, ((applyOp op s).pos p).enabled = (s.pos p).enabled := fun p => by
      rw [applyOp_pos]; exact (posAfter_service p _ op).1
    rcases applyOp_work hop' s with hwork | ⟨l, hl, hwork⟩
    · exact h.same hcost hpos (by rw [hwork]) (by rw [hwork]; exact h.fits) (h.list.congr (by rw [hwork]) hlive)
    · exact h.same hcost hpos (by rw [hwork]) (by rw [hwork]; exact h.fits)
        (((Kept.headOfList hl).list h.list).congr (by rw [hwork]; rfl) hlive)

/-! ## The moves -/

theorem BudgetHeld.opened {s : State} (h : BudgetHeld s) {l : Leg} {slot : NetSlot} {tail gain : Nat}
    (hclosed : (s.leg l).state = .closed) (hfits : s.work.commitment + legCost tail ≤ s.work.ceiling) :
    BudgetHeld (legOpened l slot tail gain s) := by
  have hdead : (s.leg l).live = false := by simp [LegRec.live, hclosed]
  have hleg : ∀ k, (legOpened l slot tail gain s).leg k = if l = k then openedLeg (s.leg l) slot tail gain else s.leg k :=
    fun k => leg_setLeg s l k _
  refine h.changeLeg l (fun k hk => by rw [hleg, if_neg (Ne.symm hk)]) (fun _ => rfl) ?_ hfits
    ⟨moveHead_nodup h.list.1, fun k => ?_⟩
  · rw [hleg, if_pos rfl, committedLeg, hdead]
    rfl
  · show k ∈ moveHead l s.work.list ↔ _
    rw [mem_moveHead, h.list.2 k, hleg]
    by_cases hk : l = k
    · subst hk
      exact iff_of_true (.inl rfl) (by rw [if_pos rfl]; rfl)
    · rw [if_neg hk]
      exact or_iff_right (Ne.symm hk)

theorem BudgetHeld.retailed {s : State} (h : BudgetHeld s) {l : Leg} (hlive : (s.leg l).state ≠ .closed) (tail : Nat)
    (hfits : s.work.commitment - legCost (s.leg l).tail + legCost tail ≤ s.work.ceiling) : BudgetHeld (tailPut l tail s) := by
  have hlive' := live_of_ne_closed hlive
  have hle := h.committedLeg_le l
  have hcost : committedLeg (s.leg l) = legCost (s.leg l).tail := if_pos hlive'
  have hleg : ∀ k, (tailPut l tail s).leg k = if l = k then
      { s.leg l with tail := tail, ec := { (s.leg l).ec with taps := resizeTaps tail (s.leg l).ec.taps } } else s.leg k :=
    fun k => leg_setLeg s l k _
  refine h.changeLeg l (fun k hk => by rw [hleg, if_neg (Ne.symm hk)]) (fun _ => rfl) ?_ hfits (h.list.congr rfl fun k => ?_)
  · have hnew : committedLeg ((tailPut l tail s).leg l) = legCost tail := by
      rw [hleg, if_pos rfl]
      exact if_pos hlive'
    rw [hnew]
    show s.work.commitment - legCost (s.leg l).tail + legCost tail + committedLeg (s.leg l) = _
    omega
  · rw [hleg]
    split
    next hk => subst hk; rfl
    next => rfl

theorem BudgetHeld.enabled {s : State} (h : BudgetHeld s) {p : Position} (role : Role) (hoff : (s.pos p).enabled = false)
    (hfits : s.work.commitment + Config.positionCost ≤ s.work.ceiling) : BudgetHeld (enablePosition p role s) := by
  have hpos : ∀ q, q ≠ p → (enablePosition p role s).pos q = s.pos q := fun q hq => State.pos_setPos_other s p q _ hq
  have hself : ((enablePosition p role s).pos p).enabled = true :=
    (congrArg PosRec.enabled (State.pos_setPos_same s p _) :)
  refine h.changePos p (fun q hq => by rw [hpos q hq]) rfl ?_ hfits (h.list.congr rfl fun _ => rfl)
  rw [committedPos, committedPos, hself, hoff]
  rfl

theorem BudgetHeld.disabled {s : State} (h : BudgetHeld s) {p : Position} (role : Role) (hon : (s.pos p).enabled = true) :
    BudgetHeld (disablePosition p role s) := by
  have hplayers := (cancelAll_step p s).players
  have hcancel := h.players hplayers
  have hon' : ((cancelAll p s).pos p).enabled = true := (congrArg PosRec.enabled (hplayers.pos p) :).trans hon
  unfold disablePosition
  dsimp only
  generalize cancelAll p s = u at hcancel hon'
  have hle := hcancel.committedPos_le p
  have hcost : committedPos (u.pos p) = Config.positionCost := if_pos hon'
  refine hcancel.changePos p (fun q hq => ?_) rfl ?_ ((Nat.sub_le _ _).trans hcancel.fits) (hcancel.list.congr rfl fun _ => rfl)
  · simp only [closePosition, State.pos_setWork, State.pos_setPos_other _ _ _ _ hq]
  · have hself : committedPos (((closePosition p u).setPos p { (closePosition p u).pos p with role := role }).pos p) = 0 := by
      simp [closePosition, committedPos]
    rw [State.pos_setWork, hself, hcost]
    rw [hcost] at hle
    show u.work.commitment - Config.positionCost + Config.positionCost = u.work.commitment + 0
    omega

theorem blankState_budget (pins : Straps) (cause : ResetCause) : BudgetHeld (blankState pins cause) := by
  refine ⟨?_, (by decide : 64 ≤ 2048), List.nodup_nil, fun l => ?_⟩
  · rw [commitmentOf_idle (fun l => by rw [blankState_leg]; rfl) fun p => by rw [blankState_pos]; rfl]
    rfl
  · rw [blankState_leg]
    exact iff_of_false (by simp [blankState]) (by decide)

theorem BudgetHeld.move {s t : State} (h : BudgetHeld s) (hm : Move s t) : BudgetHeld t := by
  have halike : ∀ {p r}, (∀ q, ((s.setPos p r).pos q).enabled = (s.pos q).enabled) → BudgetHeld (s.setPos p r) := fun hpos =>
    h.same (fun _ => rfl) hpos rfl h.fits (h.list.congr rfl fun _ => rfl)
  cases hm with
  | kept hk => exact h.kept hk
  | reset pins cause => exact (blankState_budget pins cause).kept (resetPart_kept pins cause s)
  | tornDown =>
    refine ⟨?_, ?_, ?_, fun l => ?_⟩
    · rw [commitmentOf_idle (fun l => by rw [tearDown_leg]; rfl) fun p => by rw [tearDown_pos]; rfl, tearDown_work]
    · have hreserve : Config.mixReserve ≤ s.work.commitment := by
        rw [h.1, commitmentOf_eq]
        omega
      rw [tearDown_work]
      exact hreserve.trans h.fits
    · rw [tearDown_work]; exact List.nodup_nil
    · rw [tearDown_work, tearDown_leg]
      exact iff_of_false (by simp) (by decide)
  | opened l slot requested gain hclosed hslot htail =>
    refine h.opened hclosed ?_
    have hfits := h.fits
    unfold grantedTail at htail ⊢
    unfold legCost
    omega
  | joined op tag hroom hop =>
    have hwork : (joinList op tag s).work = s.work := by rw [joinList, State.setStage_work]
    refine h.same (fun l => by rw [joinList, State.leg_setStage]) (fun p => by rw [joinList, State.pos_setStage]) (by rw [hwork])
      (by rw [hwork]; exact h.fits) (h.list.congr (by rw [hwork]) fun l => by rw [joinList, State.leg_setStage])
  | position p on role hfree hroom =>
    unfold positionPut
    split
    · exact halike (pos_setPos_enabled rfl)
    next hne =>
      cases on
      · exact h.disabled role (by simpa using hne)
      · have hoff : (s.pos p).enabled = false := by simpa using hne
        exact h.enabled role hoff (Nat.le_of_not_lt fun hlt => hroom ⟨hoff, rfl, hlt⟩)
  | retailed l requested hlive =>
    have hcost : legCost (s.leg l).tail ≤ s.work.commitment := by
      have := h.committedLeg_le l
      rwa [committedLeg, if_pos (live_of_ne_closed hlive)] at this
    exact h.retailed hlive _ (grantedGrowth_greatest hcost h.fits).2.2.1
  | queued p k hon hroom hfree =>
    exact h.same (fun _ => rfl)
      (pos_setPos_enabled (s := s) (p := p) (r := { s.pos p with queue := insertPrompt k (s.pos p).queue }) rfl) rfl h.fits
      (h.list.congr rfl fun _ => rfl)
  | ended p res k hk => exact h.players (endPending_step p res k s).players
  | slotMarked p pl hslot =>
    exact halike (pos_setPos_enabled rfl)
  | drained p =>
    exact h.same (fun _ => rfl)
      (pos_setPos_enabled (s := s) (p := p) (r := { s.pos p with done := (s.pos p).done.drop 8 }) rfl) rfl h.fits
      (h.list.congr rfl fun _ => rfl)
  | limits ceiling ratio hc hr =>
    refine h.same (fun _ => rfl) (fun _ => rfl) rfl ?_ (h.list.congr rfl fun _ => rfl)
    rcases hc with ⟨_, _, hfits⟩ | heq
    · exact hfits
    · exact heq ▸ h.fits
  | discarded cs =>
    exact discardAll_keeps (Inv := BudgetHeld) (fun _ _ h k => h.kept k)
      (fun _ _ _ _ h _ => h.same (fun _ => rfl) (fun _ => rfl) rfl h.fits (h.list.congr rfl fun _ => rfl)) cs h
  | applied =>
    exact stageApplication_keeps (Inv := BudgetHeld) (fun _ _ h k => h.kept k)
      (fun _ _ _ _ h _ => h.same (fun _ => rfl) (fun _ => rfl) rfl h.fits (h.list.congr rfl fun _ => rfl))
      (fun op _ hu => hu.change op) h
  | played ix ls p => exact h.players (playerFrame_step ix ls p s).players

/-- Settles O7: every move moves the commitment with the cost it changes. -/
theorem budgetStaysHeld : Obligations.BudgetStaysHeld := by
  unfold Obligations.BudgetStaysHeld
  exact step_keeps_moves fun _ _ h hm => h.move hm

end Sys2Proof.Machine
end

section
/-! PROOF. The invariant of the prompt handles (R99, R101): the records that end, the steps of a player, and each move. -/

namespace Sys2Proof.Machine

open List in
/-- A list without one of its entries, and that entry. -/
theorem perm_cons_filter_ne {α : Type} [DecidableEq α] {l : List α} (hnodup : l.Nodup) {a : α} (ha : a ∈ l) :
    l.filter (· != a) ++ [a] ~ l :=
  calc l.filter (· != a) ++ [a]
    _ = l.erase a ++ [a] := by rw [hnodup.erase_eq_filter]
    _ ~ a :: l.erase a := List.perm_append_singleton _ _
    _ ~ l := (List.perm_cons_erase ha).symm

/-! ## Prompts that end (R103) -/

/-- R103: the record of a prompt that has ended. -/
def endedRec (res : PromptResult) (stamp : Stamp) (k : PromptRec) : PromptRec :=
  { k with state := .done, result := some res, stamp := stamp }

theorem finishPrompt_pos (p : Position) (res : PromptResult) (k : PromptRec) (s : State) :
    (finishPrompt p res k s).pos p = { s.pos p with done := (s.pos p).done ++ [endedRec res s.frame k] } := by
  rw [finishPrompt_eq]
  exact State.pos_setPos_same _ _ _

theorem endPending_pos (p : Position) (res : PromptResult) (k : PromptRec) (s : State) :
    (endPending p res k s).pos p = { s.pos p with
      queue := (s.pos p).queue.filter (fun x => x.handle != k.handle)
      done := (s.pos p).done ++ [endedRec res s.frame k] } := by
  rw [endPending, finishPrompt_pos, State.pos_setPos_same]
  rfl

theorem endPending_frame (p : Position) (res : PromptResult) (k : PromptRec) (s : State) : (endPending p res k s).frame = s.frame :=
  (endPending_voices p res k s).1

theorem endSlot_pos (p : Position) (res : PromptResult) (s : State) :
    (endSlot p res s).pos p = { s.pos p with
      slot := none
      done := (s.pos p).done ++ ((s.pos p).slot.map Playing.prompt).toList.map (endedRec res s.frame) } := by
  cases h : (s.pos p).slot with
  | none =>
    rw [endSlot_none p res s h, Option.map_none, Option.toList_none, List.map_nil, List.append_nil, ← h]
  | some pl =>
    have hwithdrawn : (withdraw (.prompt p) (s.setPos p { s.pos p with slot := none })).pos p = { s.pos p with slot := none } :=
      (State.pos_setPos_same s p { s.pos p with slot := none } :)
    simp only [endSlot, h]
    rw [finishPrompt_pos, hwithdrawn]
    rfl

theorem endSlot_frame (p : Position) (res : PromptResult) (s : State) : (endSlot p res s).frame = s.frame :=
  (endSlot_voices p res s).1

/-- R103: several pending prompts that end, in order. -/
def endPendings (p : Position) (res : PromptResult) (ks : List PromptRec) (s : State) : State :=
  ks.foldl (fun u k => endPending p res k u) s

theorem endPendings_pos (p : Position) (res : PromptResult) (ks : List PromptRec) (s : State) :
    (endPendings p res ks s).pos p = { s.pos p with
      queue := (s.pos p).queue.filter (fun x => ks.all (fun k => x.handle != k.handle))
      done := (s.pos p).done ++ ks.map (endedRec res s.frame) } := by
  induction ks generalizing s with
  | nil => simp [endPendings]
  | cons k ks ih =>
    show (endPendings p res ks (endPending p res k s)).pos p = _
    rw [ih, endPending_pos, endPending_frame]
    simp only [List.filter_filter, List.all_cons, List.map_cons, List.append_assoc, List.singleton_append, Bool.and_comm]

/-- R28, R115: a position's prompts all end CANCELLED, the slot's first. -/
theorem cancelAll_pos (p : Position) (s : State) :
    (cancelAll p s).pos p = { s.pos p with queue := [], slot := none, done := (s.pos p).done ++ cancelledRecords s p } := by
  have hnone : (s.pos p).queue.filter (fun x => (s.pos p).queue.all (fun k => x.handle != k.handle)) = [] := by
    refine List.filter_eq_nil_iff.2 fun x hx hall => ?_
    exact absurd (List.all_eq_true.1 hall x hx) (by simp)
  show (endPendings p .cancelled (s.pos p).queue (endSlot p .cancelled s)).pos p = _
  rw [endPendings_pos, endSlot_pos, endSlot_frame]
  simp only [hnone, cancelledRecords, List.map_append, List.append_assoc]
  rfl

/-! ## A position that keeps its handles (R99) -/

open List in
/-- From r to q, where r holds no handle twice, the same handles stand in a queue that is no longer. -/
def RecRest (r q : PosRec) : Prop :=
  (handlesOf r).Nodup → handlesOf q ~ handlesOf r ∧ q.queue.length ≤ r.queue.length

theorem RecRest.refl (r : PosRec) : RecRest r r := fun _ => ⟨.refl _, Nat.le_refl _⟩

theorem RecRest.trans {r q x : PosRec} (h : RecRest r q) (k : RecRest q x) : RecRest r x := fun hr => by
  obtain ⟨hperm, hlen⟩ := h hr
  obtain ⟨hperm', hlen'⟩ := k (hperm.nodup_iff.2 hr)
  exact ⟨hperm'.trans hperm, hlen'.trans hlen⟩

theorem RecRest.same {r q : PosRec} (hqueue : q.queue.map PromptRec.handle = r.queue.map PromptRec.handle)
    (hslot : q.slot.map (fun x => x.prompt.handle) = r.slot.map (fun x => x.prompt.handle)) (hdone : q.done = r.done) : RecRest r q := by
  refine fun _ => ⟨?_, ?_⟩
  · rw [handlesOf, handlesOf, hqueue, hslot, hdone]
  · rw [← List.length_map (f := PromptRec.handle), hqueue, List.length_map]

theorem queue_nodup {r : PosRec} (h : (handlesOf r).Nodup) : (r.queue.map PromptRec.handle).Nodup :=
  h.sublist ((List.sublist_append_left _ _).trans (List.sublist_append_left _ _))

theorem map_filter_handle (queue : List PromptRec) (h : Handle) :
    (queue.filter (fun x => x.handle != h)).map PromptRec.handle = (queue.map PromptRec.handle).filter (· != h) := by
  rw [List.filter_map]
  rfl

/-- R114: a pending prompt that ends takes its handle to the done list. -/
theorem RecRest.pendingEnds {r : PosRec} {k k' : PromptRec} (hk : k.handle ∈ r.queue.map PromptRec.handle)
    (hh : k'.handle = k.handle) :
    RecRest r { r with queue := r.queue.filter (fun x => x.handle != k.handle), done := r.done ++ [k'] } := by
  intro hr
  have hperm := perm_cons_filter_ne (queue_nodup hr) hk
  refine ⟨List.perm_iff_count.2 fun h => ?_, List.length_filter_le _ _⟩
  have hcount := hperm.count_eq h
  simp only [handlesOf, map_filter_handle, List.map_append, List.map_cons, List.map_nil, hh, List.count_append] at hcount ⊢
  omega

/-- R114: the slot's prompt that ends takes its handle to the done list. -/
theorem RecRest.slotEnds (r : PosRec) (res : PromptResult) (stamp : Stamp) :
    RecRest r { r with slot := none, done := r.done ++ (r.slot.map Playing.prompt).toList.map (endedRec res stamp) } := by
  refine fun _ => ⟨List.perm_iff_count.2 fun h => ?_, Nat.le_refl _⟩
  cases hslot : r.slot with
  | none => simp [handlesOf, hslot]
  | some pl =>
    simp only [handlesOf, hslot, Option.map_some, Option.map_none, Option.toList_some, Option.toList_none, List.map_append,
      List.map_cons, List.map_nil, List.count_append, List.count_nil, endedRec]
    omega

/-- R113: the head that enters the free slot takes its handle there. -/
theorem RecRest.headStarts {r : PosRec} {k : PromptRec} {pl : Playing} (hk : k.handle ∈ r.queue.map PromptRec.handle)
    (hfree : r.slot = none) (hh : pl.prompt.handle = k.handle) :
    RecRest r { r with queue := r.queue.filter (fun x => x.handle != k.handle), slot := some pl } := by
  intro hr
  have hperm := perm_cons_filter_ne (queue_nodup hr) hk
  refine ⟨List.perm_iff_count.2 fun h => ?_, List.length_filter_le _ _⟩
  have hcount := hperm.count_eq h
  simp only [handlesOf, map_filter_handle, hfree, Option.map_some, Option.map_none, Option.toList_some, Option.toList_none, hh,
    List.count_append, List.count_nil] at hcount ⊢
  omega

/-! ## The steps of a player (R105 to R113) -/

/-- From s to t the handles of position p rest. -/
def HandlesRest (p : Position) (s t : State) : Prop := RecRest (s.pos p) (t.pos p)

theorem HandlesRest.refl (p : Position) (s : State) : HandlesRest p s s := RecRest.refl _

theorem HandlesRest.trans {p : Position} {s t u : State} (h : HandlesRest p s t) (k : HandlesRest p t u) : HandlesRest p s u :=
  RecRest.trans h k

theorem HandlesRest.setPos {p : Position} {s : State} {r : PosRec} (h : RecRest (s.pos p) r) : HandlesRest p s (s.setPos p r) := by
  rw [HandlesRest, State.pos_setPos_same]
  exact h

theorem endPending_rest {p : Position} {s : State} {k : PromptRec} (res : PromptResult)
    (hk : k.handle ∈ (s.pos p).queue.map PromptRec.handle) : HandlesRest p s (endPending p res k s) := by
  rw [HandlesRest, endPending_pos]
  exact .pendingEnds hk rfl

theorem endSlot_rest (p : Position) (res : PromptResult) (s : State) : HandlesRest p s (endSlot p res s) := by
  rw [HandlesRest, endSlot_pos]
  exact .slotEnds _ res s.frame

/-- Pending prompts of different handles end one after another. -/
theorem endPendings_rest {p : Position} (res : PromptResult) {ks : List PromptRec} {s : State}
    (hnodup : (ks.map PromptRec.handle).Nodup)
    (hks : ∀ k ∈ ks, k.handle ∈ (s.pos p).queue.map PromptRec.handle) : HandlesRest p s (endPendings p res ks s) := by
  induction ks generalizing s with
  | nil => exact .refl p s
  | cons k ks ih =>
    obtain ⟨hk, hnodup'⟩ := List.nodup_cons.1 hnodup
    refine (endPending_rest res (hks k (by simp))).trans (ih hnodup' fun x hx => ?_)
    rw [endPending_pos, map_filter_handle, List.mem_filter]
    exact ⟨hks x (by simp [hx]), by simpa using fun h : x.handle = k.handle => hk (h ▸ List.mem_map_of_mem hx)⟩

theorem expireStep_rest (p : Position) (s : State) : HandlesRest p s (expireStep p s) := by
  intro hnodup
  have hwaited : ((s.pos p).queue.map waited).map PromptRec.handle = (s.pos p).queue.map PromptRec.handle := by
    rw [List.map_map]
    rfl
  have hset : HandlesRest p s (s.setPos p { s.pos p with queue := (s.pos p).queue.map waited }) :=
    .setPos (.same hwaited rfl rfl)
  have hends : HandlesRest p (s.setPos p { s.pos p with queue := (s.pos p).queue.map waited }) (expireStep p s) := by
    refine endPendings_rest .expired ?_ fun k hk => ?_
    · exact (hwaited ▸ queue_nodup hnodup).sublist (List.filter_sublist.map _)
    · rw [State.pos_setPos_same]
      exact List.mem_map_of_mem (List.mem_of_mem_filter hk)
  exact (hset.trans hends) hnodup

theorem putSlot_rest {p : Position} {s : State} {x : Playing} (items : List FetchItem)
    (h : (s.pos p).slot.map (fun x => x.prompt.handle) = some x.prompt.handle) : HandlesRest p s (putSlot p (some x) items s) := by
  have hpos : (putSlot p (some x) items s).pos p = { s.pos p with slot := some x } := (State.pos_setPos_same s p _ :)
  rw [HandlesRest, hpos]
  exact .same rfl h.symm rfl

theorem fetched_handle (p : Position) (pl : Playing) : (fetched p pl).1.prompt.handle = pl.prompt.handle := by
  unfold fetched
  split
  · rfl
  · split
    · rfl
    · split
      · rfl
      · split <;> rfl

theorem placePrompt_rest (p : Position) (s : State) : HandlesRest p s (placePrompt p s) := by
  cases h : (s.pos p).slot with
  | none => rw [placePrompt_empty h]; exact .refl p s
  | some pl =>
    rw [placePrompt_eq h]
    exact putSlot_rest _ (by rw [h, Option.map_some, fetched_handle])

theorem movePointer_handle (n : Nat) (pl : Playing) : (movePointer n pl).prompt.handle = pl.prompt.handle := by
  unfold movePointer
  split <;> rfl

theorem advancePrompt_handle (a : PlayRun) : (advancePrompt a).pl.prompt.handle = a.pl.prompt.handle := by
  unfold advancePrompt
  split
  · rfl
  · split
    · exact movePointer_handle _ _
    · unfold endPass
      dsimp only
      split
      · exact movePointer_handle _ _
      · rfl

theorem promptSample_handle (a : PlayRun) : (promptSample a).pl.prompt.handle = a.pl.prompt.handle := by
  unfold promptSample
  split
  · rfl
  · split
    · exact advancePrompt_handle _
    · rfl

theorem promptPlay_handle (pl : Playing) : (promptPlay pl).pl.prompt.handle = pl.prompt.handle := by
  have hrun := foldl_keeps (g := fun a : PlayRun => a.pl.prompt.handle) (f := fun a (_ : Nat) => promptSample a)
    (fun a _ => promptSample_handle a) (List.range Config.frameLen) { pl := pl, outs := [], missing := false, ended := false }
  unfold promptPlay
  dsimp only
  generalize (List.range Config.frameLen).foldl (fun a (_ : Nat) => promptSample a)
    { pl := pl, outs := [], missing := false, ended := false } = a at hrun ⊢
  split <;> exact hrun

theorem setSlot_rest {p : Position} {s : State} {x : Playing}
    (h : (s.pos p).slot.map (fun x => x.prompt.handle) = some x.prompt.handle) :
    HandlesRest p s (s.setPos p { s.pos p with slot := some x }) := .setPos (.same rfl h.symm rfl)

theorem playSlot_rest {p : Position} {s : State} {pl : Playing}
    (h : (s.pos p).slot.map (fun x => x.prompt.handle) = some pl.prompt.handle) : HandlesRest p s (playSlot p pl s).1 := by
  unfold playSlot
  split
  · have hset := setSlot_rest (x := (promptPlay pl).pl) (h.trans (by rw [promptPlay_handle]))
    dsimp only
    split
    · exact hset.trans (endSlot_rest p _ _)
    · exact hset.trans (placePrompt_rest p _)
  · exact (setSlot_rest h).trans (placePrompt_rest p _)

theorem landPrompt_handle (words : List Word16) (pl : Playing) : (landPrompt words pl).prompt.handle = pl.prompt.handle := by
  unfold landPrompt
  dsimp only
  split <;> rfl

theorem slotStep_rest (ls : List Landed) (p : Position) (s : State) : HandlesRest p s (slotStep ls p s).1 := by
  unfold slotStep
  split
  · exact .refl p s
  next pl hslot =>
    split
    · exact endSlot_rest p _ s
    · split
      · exact endSlot_rest p _ s
      · exact playSlot_rest (by rw [hslot, Option.map_some, landPrompt_handle])
      · exact playSlot_rest (by rw [hslot, Option.map_some])

theorem primePrompt_rest {p : Position} {s : State} {k : PromptRec} (loc : Location)
    (hk : k.handle ∈ (s.pos p).queue.map PromptRec.handle) (hfree : (s.pos p).slot = none) :
    HandlesRest p s (primePrompt p k loc s) := by
  have hstart : HandlesRest p s (s.setPos p { s.pos p with
      queue := (s.pos p).queue.filter (fun x => x.handle != k.handle)
      slot := some { prompt := { k with state := .priming }, loc := loc, half0 := .empty, half1 := .empty, index := 0,
                     phase := .first, next := some (0, 1) } }) := .setPos (.headStarts hk hfree rfl)
  exact hstart.trans (placePrompt_rest p _)

theorem selectHead_rest (ix : Vector (List IndexEntry) 128) (p : Position) (k : Nat) {s : State} (hfree : (s.pos p).slot = none) :
    HandlesRest p s (selectHead ix p k s) := by
  induction k generalizing s with
  | zero => exact .refl p s
  | succ k ih =>
    rw [selectHead]
    split
    · exact .refl p s
    next r rest hqueue =>
      have hr : r.handle ∈ (s.pos p).queue.map PromptRec.handle := by simp [hqueue]
      split
      · split
        · exact primePrompt_rest _ hr hfree
        · exact (endPending_rest _ hr).trans (ih (by rw [endPending_pos]; exact hfree))
      · exact .refl p s

theorem selectStep_rest (ix : Vector (List IndexEntry) 128) (p : Position) (s : State) : HandlesRest p s (selectStep ix p s) := by
  have hpreempt : HandlesRest p s (if preempts s p then endSlot p .preempted s else s) := by
    split
    · exact endSlot_rest p _ s
    · exact .refl p s
  unfold selectStep
  dsimp only
  generalize (if preempts s p then endSlot p .preempted s else s) = t at hpreempt ⊢
  split
  · exact hpreempt
  next hfree => exact hpreempt.trans (selectHead_rest ix p 8 (by simpa using hfree))

theorem playerFrame_rest (ix : Vector (List IndexEntry) 128) (ls : List Landed) (p : Position) (s : State) :
    HandlesRest p s (playerFrame ix ls p s).1 := by
  unfold playerFrame
  split
  · have hduck : ∀ u, HandlesRest p u (duckStep p u) := fun u => .setPos (.same rfl rfl rfl)
    exact (((expireStep_rest p s).trans (slotStep_rest ls p _)).trans (selectStep_rest ix p _)).trans (hduck _)
  · exact .refl p s

theorem cancelAll_rest (p : Position) (s : State) : HandlesRest p s (cancelAll p s) := by
  intro hnodup
  have hslot := endSlot_rest p .cancelled s
  have hqueue : ((endSlot p .cancelled s).pos p).queue = (s.pos p).queue := by rw [endSlot_pos]
  have hends : HandlesRest p (endSlot p .cancelled s) (cancelAll p s) :=
    endPendings_rest .cancelled (queue_nodup hnodup) fun k hk => by rw [hqueue]; exact List.mem_map_of_mem hk
  exact (hslot.trans hends) hnodup

/-- R115, R209: of several positions the prompts all end. -/
theorem cancelEach_pos {ps : List Position} (hps : ps.Nodup) (s : State) (p : Position) :
    (ps.foldl (fun s q => cancelAll q s) s).pos p = if p ∈ ps then
      { s.pos p with queue := [], slot := none, done := (s.pos p).done ++ cancelledRecords s p } else s.pos p := by
  induction ps generalizing s with
  | nil => rfl
  | cons q qs ih =>
    obtain ⟨hq, hqs⟩ := List.nodup_cons.1 hps
    rw [List.foldl_cons, ih hqs]
    by_cases hp : p = q
    · subst hp
      rw [if_neg hq, if_pos (List.mem_cons_self ..), cancelAll_pos]
    · obtain ⟨hrest, hother, _⟩ := cancelAll_step q s
      have hframe : (cancelAll q s).frame = s.frame := (congrArg State.frame hrest :)
      simp only [cancelledRecords, hother p hp, hframe, List.mem_cons, hp, false_or]

theorem cancelPrompts_pos (s : State) (p : Position) : (cancelPrompts s).pos p =
    { s.pos p with queue := [], slot := none, done := (s.pos p).done ++ cancelledRecords s p } := by
  rw [cancelPrompts, cancelEach_pos (List.nodup_finRange 16), if_pos (List.mem_finRange p)]

/-! ## All the handles (R99) -/

/-- R99: the handles of the positions but p. -/
def restHandles (p : Position) (s : State) : List Handle := ((List.finRange 16).erase p).flatMap (fun q => handlesOf (s.pos q))

open List in
theorem positions_handles (p : Position) (s : State) :
    s.positions.toList.flatMap handlesOf ~ handlesOf (s.pos p) ++ restHandles p s := by
  have hall : s.positions.toList.flatMap handlesOf = (List.finRange 16).flatMap (fun q => handlesOf (s.pos q)) := by
    rw [toList_eq_map_finRange, List.flatMap_map]
    rfl
  rw [hall]
  exact (List.perm_cons_erase (List.mem_finRange p)).flatMap_right _

theorem restHandles_congr {p : Position} {s t : State} (h : ∀ q, q ≠ p → handlesOf (t.pos q) = handlesOf (s.pos q)) :
    restHandles p t = restHandles p s :=
  List.flatMap_congr fun q hq => h q fun heq => by
    rw [heq] at hq
    exact (List.nodup_finRange 16).not_mem_erase hq

section
variable {s t : State}

theorem HandlesHeld.nodup (h : HandlesHeld s) (p : Position) : (handlesOf (s.pos p)).Nodup := by
  have hall := h.1.nodup_iff.2 (List.nodup_finRange 128)
  have hpos := (positions_handles p s).nodup_iff.1 (hall.sublist (List.sublist_append_right _ _))
  exact hpos.sublist (List.sublist_append_left _ _)

open List in
/-- One position's handles and the pool have changed. -/
theorem HandlesHeld.change (h : HandlesHeld s) (p : Position) (hother : ∀ q, q ≠ p → t.pos q = s.pos q)
    (hperm : t.free ++ handlesOf (t.pos p) ~ s.free ++ handlesOf (s.pos p)) (hlen : (t.pos p).queue.length ≤ 8)
    (hoff : (t.pos p).enabled = false → (t.pos p).queue = [] ∧ (t.pos p).slot = none) : HandlesHeld t := by
  have hrest : restHandles p t = restHandles p s := restHandles_congr fun q hq => by rw [hother q hq]
  refine ⟨?_, fun q => ?_⟩
  · calc t.free ++ t.positions.toList.flatMap handlesOf
      _ ~ t.free ++ (handlesOf (t.pos p) ++ restHandles p t) := (positions_handles p t).append_left _
      _ = t.free ++ handlesOf (t.pos p) ++ restHandles p s := by rw [hrest, List.append_assoc]
      _ ~ s.free ++ handlesOf (s.pos p) ++ restHandles p s := hperm.append_right _
      _ = s.free ++ (handlesOf (s.pos p) ++ restHandles p s) := List.append_assoc _ _ _
      _ ~ s.free ++ s.positions.toList.flatMap handlesOf := (positions_handles p s).symm.append_left _
      _ ~ List.finRange 128 := h.1
  · by_cases hq : q = p
    · subst hq; exact ⟨hlen, hoff⟩
    · rw [hother q hq]; exact h.2 q

/-- The prompts of every position and the pool have stayed. -/
theorem HandlesHeld.same (h : HandlesHeld s) (hfree : t.free = s.free) (hhandles : ∀ p, handlesOf (t.pos p) = handlesOf (s.pos p))
    (hpos : ∀ p, (t.pos p).queue.length ≤ 8 ∧ ((t.pos p).enabled = false → (t.pos p).queue = [] ∧ (t.pos p).slot = none)) :
    HandlesHeld t := by
  refine ⟨?_, hpos⟩
  have hall : t.positions.toList.flatMap handlesOf = s.positions.toList.flatMap handlesOf := by
    rw [toList_eq_map_finRange, toList_eq_map_finRange, List.flatMap_map, List.flatMap_map]
    exact List.flatMap_congr fun p _ => hhandles p
  rw [hfree, hall]
  exact h.1

/-- A player's step at a position that is enabled, or that empties its queue and slot. -/
theorem HandlesHeld.player (h : HandlesHeld s) {p : Position} (hstep : PlayerStep p s t) (hrest : HandlesRest p s t)
    (hoff : (s.pos p).enabled = false → (t.pos p).queue = [] ∧ (t.pos p).slot = none) : HandlesHeld t := by
  obtain ⟨hperm, hlen⟩ := hrest (h.nodup p)
  have hfree : t.free = s.free := (congrArg State.free hstep.1 :)
  have henabled : (t.pos p).enabled = (s.pos p).enabled := (congrArg PosRec.enabled hstep.2.2.1 :)
  exact h.change p hstep.2.1 (by rw [hfree]; exact hperm.append_left _) (hlen.trans (h.2 p).1) fun hf => hoff (henabled ▸ hf)

/-- Every position's prompts have stayed, and those out of service were so, or hold none. -/
theorem HandlesHeld.alike (h : HandlesHeld s) (hfree : t.free = s.free) (hqueue : ∀ p, (t.pos p).queue = (s.pos p).queue)
    (hslot : ∀ p, (t.pos p).slot = (s.pos p).slot) (hdone : ∀ p, (t.pos p).done = (s.pos p).done)
    (hoff : ∀ p, (t.pos p).enabled = false →
      (s.pos p).enabled = false ∨ (s.pos p).queue = [] ∧ (s.pos p).slot = none) : HandlesHeld t := by
  refine h.same hfree (fun p => by rw [handlesOf, handlesOf, hqueue, hslot, hdone]) fun p => ?_
  rw [hqueue, hslot]
  exact ⟨(h.2 p).1, fun hp => (hoff p hp).elim (h.2 p).2 id⟩

theorem HandlesHeld.cancelAll (h : HandlesHeld s) (p : Position) : HandlesHeld (cancelAll p s) :=
  h.player (cancelAll_step p s) (cancelAll_rest p s) fun _ => by rw [cancelAll_pos]; exact ⟨rfl, rfl⟩

/-- One position's record has changed, but for its prompts. -/
theorem HandlesHeld.setPos (h : HandlesHeld s) {p : Position} {r : PosRec} (hqueue : r.queue = (s.pos p).queue)
    (hslot : r.slot = (s.pos p).slot) (hdone : r.done = (s.pos p).done)
    (hoff : r.enabled = false → (s.pos p).enabled = false ∨ (s.pos p).queue = [] ∧ (s.pos p).slot = none) :
    HandlesHeld (s.setPos p r) := by
  have hpos : ∀ q, (s.setPos p r).pos q = s.pos q ∨ q = p ∧ (s.setPos p r).pos q = r := fun q => by
    rw [pos_setPos]
    split
    next hq => exact .inr ⟨hq.symm, rfl⟩
    next => exact .inl rfl
  refine h.alike rfl (fun q => ?_) (fun q => ?_) (fun q => ?_) fun q => ?_
  all_goals rcases hpos q with heq | ⟨rfl, heq⟩
  all_goals rw [heq]
  all_goals first | assumption | exact fun hq => .inl hq

end

theorem insertPrompt_perm (k : PromptRec) (queue : List PromptRec) : (insertPrompt k queue).Perm (k :: queue) := by
  have hlow : queue.filter (fun x => decide (x.level < k.level)) = queue.filter (fun x => !decide (k.level ≤ x.level)) :=
    List.filter_congr fun x _ => by rw [← decide_not, decide_eq_decide, Nat.not_le]
  rw [insertPrompt, hlow]
  exact List.perm_middle.trans ((List.filter_append_perm _ queue).cons k)

section
variable {s t : State}

/-- R101: a prompt queued takes its handle out of the pool. -/
theorem HandlesHeld.queued (h : HandlesHeld s) {p : Position} {k : PromptRec} (hon : (s.pos p).enabled = true)
    (hroom : (s.pos p).queue.length < 8) (hfree : s.free.min? = some k.handle) : HandlesHeld (promptJoined p k s) := by
  have hpos : (promptJoined p k s).pos p = { s.pos p with queue := insertPrompt k (s.pos p).queue } :=
    (State.pos_setPos_same s p _ :)
  have hin : k.handle ∈ s.free := List.min?_mem hfree
  refine h.change p (fun q hq => (State.pos_setPos_other s p q _ hq :)) ?_ ?_ ?_
  · rw [hpos]
    refine List.perm_iff_count.2 fun x => ?_
    have hpool := (List.perm_cons_erase hin).count_eq x
    have hqueue := ((insertPrompt_perm k (s.pos p).queue).map PromptRec.handle).count_eq x
    simp only [promptJoined, handlesOf, List.map_cons, List.count_append, List.count_cons] at hpool hqueue ⊢
    omega
  · rw [hpos]
    exact (insertPrompt_length k _).trans_le hroom
  · rw [hpos]
    exact fun hoff => absurd (hon.symm.trans hoff) (by decide)

/-- R119: the records drained return their handles to the pool. -/
theorem HandlesHeld.drained (h : HandlesHeld s) (p : Position) : HandlesHeld (drained p s) := by
  have hpos : (Machine.drained p s).pos p = { s.pos p with done := (s.pos p).done.drop 8 } := (State.pos_setPos_same s p _ :)
  refine h.change p (fun q hq => (State.pos_setPos_other s p q _ hq :)) ?_ ?_ ?_
  · rw [hpos]
    refine List.perm_iff_count.2 fun x => ?_
    have hpool := (poolAfter_perm ((s.pos p).done.take 8) s.free).count_eq x
    have hdone := congrArg (fun ks : List PromptRec => (ks.map PromptRec.handle).count x) (List.take_append_drop 8 (s.pos p).done)
    simp only [Machine.drained, handlesOf, List.map_append, List.count_append] at hpool hdone ⊢
    omega
  · rw [hpos]; exact (h.2 p).1
  · rw [hpos]; exact (h.2 p).2

/-- R28: a position goes out of service without prompts. -/
theorem HandlesHeld.disabled (h : HandlesHeld s) (p : Position) (role : Role) : HandlesHeld (disablePosition p role s) := by
  have hcancel := h.cancelAll p
  have hempty : ((Machine.cancelAll p s).pos p).queue = [] ∧ ((Machine.cancelAll p s).pos p).slot = none := by
    rw [cancelAll_pos]; exact ⟨rfl, rfl⟩
  unfold disablePosition closePosition
  generalize Machine.cancelAll p s = u at hcancel hempty
  have hclosed := hcancel.setPos (r := { u.pos p with enabled := false, duck := 32768, mic := stopMic (u.pos p).mic })
    rfl rfl rfl fun _ => .inr hempty
  have hrole := hclosed.setPos (p := p) (r := { (u.setPos p { u.pos p with
    enabled := false, duck := 32768, mic := stopMic (u.pos p).mic }).pos p with role := role }) rfl rfl rfl fun hoff => .inl hoff
  exact hrole.alike rfl (fun _ => rfl) (fun _ => rfl) (fun _ => rfl) fun _ hoff => .inl hoff

/-- R209: the teardown empties every queue and slot before it disables. -/
theorem HandlesHeld.tornDown (h : HandlesHeld s) : HandlesHeld (tearDown s) := by
  have hfree : (stopSources s).free = s.free := by
    have hrest := stopSources_only s
    generalize stopSources s = u at hrest ⊢
    exact (congrArg State.free hrest :)
  have hstopped : HandlesHeld (stopSources s) :=
    h.alike hfree (fun p => by rw [stopSources_pos]) (fun p => by rw [stopSources_pos]) (fun p => by rw [stopSources_pos])
      fun p hp => .inl (by rwa [stopSources_pos] at hp)
  have hpos := tearDown_pos s
  rw [tearDown_eq] at hpos ⊢
  generalize stopSources s = u at hstopped hpos ⊢
  have hcancelled : HandlesHeld (cancelPrompts u) := List.foldlRecOn (motive := HandlesHeld) _ _ hstopped fun u hu p _ => hu.cancelAll p
  have hempty : ∀ p, ((cancelPrompts u).pos p).queue = [] ∧ ((cancelPrompts u).pos p).slot = none :=
    fun p => by rw [cancelPrompts_pos]; exact ⟨rfl, rfl⟩
  generalize cancelPrompts u = v at hcancelled hempty hpos ⊢
  exact hcancelled.alike rfl (fun p => by rw [hpos, tearPosition]) (fun p => by rw [hpos, tearPosition])
    (fun p => by rw [hpos, tearPosition]) fun p _ => .inr (hempty p)

theorem HandlesHeld.played (h : HandlesHeld s) (ix : Vector (List IndexEntry) 128) (ls : List Landed) (p : Position) :
    HandlesHeld (playerFrame ix ls p s).1 := by
  refine h.player (playerFrame_step ix ls p s) (playerFrame_rest ix ls p s) fun hoff => ?_
  have hidle : (playerFrame ix ls p s).1 = s := by rw [playerFrame, if_neg (by rw [hoff]; decide)]
  rw [hidle]
  exact (h.2 p).2 hoff

theorem HandlesHeld.kept (h : HandlesHeld s) (k : Kept s t) : HandlesHeld t :=
  h.alike k.free (fun p => (k.pos p).queue) (fun p => (k.pos p).slot) (fun p => (k.pos p).done)
    fun p hp => .inl ((k.pos p).enabled ▸ hp)

theorem HandlesHeld.applied (h : HandlesHeld s) (op : ChangeOp) : HandlesHeld (applyOp op s) := by
  obtain ⟨hrest, hpos⟩ := applyOp_tables op s
  exact h.alike (congrArg State.free hrest :) (fun p => (congrArg PosRec.queue (hpos p) :))
    (fun p => (congrArg PosRec.slot (hpos p) :)) (fun p => (congrArg PosRec.done (hpos p) :))
    fun p hp => .inl ((congrArg PosRec.enabled (hpos p) :).symm.trans hp)

/-- The positions and the pool have not changed. -/
theorem HandlesHeld.congr (h : HandlesHeld s) (hpos : t.positions = s.positions) (hfree : t.free = s.free) : HandlesHeld t := by
  have hat : t.pos = s.pos := funext fun p => by rw [State.pos, State.pos, hpos]
  exact h.alike hfree (fun p => by rw [hat]) (fun p => by rw [hat]) (fun p => by rw [hat]) fun p hp => .inl (by rwa [hat] at hp)

theorem blankState_handles (pins : Straps) (cause : ResetCause) : HandlesHeld (blankState pins cause) := by
  have hnone : (blankState pins cause).positions.toList.flatMap handlesOf = [] := by
    rw [toList_eq_map_finRange, List.flatMap_map]
    refine List.flatMap_eq_nil_iff.2 fun p _ => ?_
    show handlesOf ((blankState pins cause).pos p) = []
    rw [blankState_pos]
    rfl
  refine ⟨?_, fun p => ?_⟩
  · rw [hnone, List.append_nil]
    exact .refl _
  · rw [blankState_pos]
    exact ⟨Nat.zero_le _, fun _ => ⟨rfl, rfl⟩⟩

theorem HandlesHeld.move (h : HandlesHeld s) (hm : Move s t) : HandlesHeld t := by
  cases hm with
  | kept hk => exact h.kept hk
  | reset pins cause => exact (blankState_handles pins cause).kept (resetPart_kept pins cause s)
  | tornDown => exact h.tornDown
  | opened l slot requested gain hclosed hslot htail => exact h.congr rfl rfl
  | joined op tag hroom hop => cases hc : op.cls <;> (rw [joinList, hc]; exact h.congr rfl rfl)
  | position p on role hfree hroom =>
    unfold positionPut
    split
    · exact h.setPos rfl rfl rfl fun hoff => .inl hoff
    · split
      · exact (h.setPos (p := p) (r := { s.pos p with
          enabled := true, role := role, duck := 32768, mic := startMic (s.pos p).mic }) rfl rfl rfl nofun).congr rfl rfl
      · exact h.disabled p role
  | retailed l requested hlive => exact h.congr rfl rfl
  | queued p k hon hroom hfree => exact h.queued hon hroom hfree
  | ended p res k hk =>
    obtain ⟨x, hx, hxk⟩ := hk
    refine h.player (endPending_step p res k s) (endPending_rest res (hxk ▸ List.mem_map_of_mem hx)) fun hoff => ?_
    exact absurd ((h.2 p).2 hoff).1 (List.ne_nil_of_mem hx)
  | slotMarked p pl hslot =>
    refine h.player (PlayerStep.set rfl) (setSlot_rest (by rw [hslot]; rfl)) fun hoff => ?_
    exact absurd (((h.2 p).2 hoff).2.symm.trans hslot) nofun
  | drained p => exact h.drained p
  | limits ceiling ratio hc hr => exact h.congr rfl rfl
  | discarded cs =>
    exact discardAll_keeps (Inv := HandlesHeld) (fun _ _ h k => h.kept k) (fun _ _ _ _ h _ => h.congr rfl rfl) cs h
  | applied =>
    exact stageApplication_keeps (Inv := HandlesHeld) (fun _ _ h k => h.kept k) (fun _ _ _ _ h _ => h.congr rfl rfl)
      (fun op _ hu => hu.applied op) h
  | played ix ls p => exact h.played ix ls p

end

/-- Settles O56: every move takes a handle from one of the four places to another, or leaves it. -/
theorem handlesStayHeld : Obligations.HandlesStayHeld := by
  unfold Obligations.HandlesStayHeld
  exact step_keeps_moves fun _ _ h hm => h.move hm

end Sys2Proof.Machine
end

section
/-! PROOF. The invariant of the tables (R4, R5, R16): what the group lists, the supervision records and the slot bindings are made
of, what each change does to that, and each move. -/

namespace Sys2Proof.Machine

/-! ## What the tables bind (R4, R5, R16) -/

/-- R4, R5, R16: of a state, who is in service, in which group, on which slot and in which role, the group lists, and the pairs of
supervisor and agent. -/
@[ext] structure Roster where
  inService : Member → Bool
  group : Member → Option Group
  slot : Leg → Option NetSlot
  role : Position → Role
  members : Group → List Member
  pairs : List (Position × Position)

def State.roster (s : State) : Roster :=
  { inService := memberInService s, group := memberGroup s, slot := fun l => (s.leg l).slot, role := fun p => (s.pos p).role,
    members := s.members, pairs := s.supervision.map fun k => (k.supervisor, k.agent) }

/-- R4, R5, R16: TablesAgree of a roster. -/
structure Roster.Agree (r : Roster) : Prop where
  nodup : ∀ g, (r.members g).Nodup
  bound : ∀ g, (r.members g).length ≤ 6
  listed : ∀ g m, m ∈ r.members g ↔ r.group m = some g
  serving : ∀ m, r.group m ≠ none → r.inService m = true
  supervisors : (r.pairs.map Prod.fst).Nodup
  agents : (r.pairs.map Prod.snd).Nodup
  few : r.pairs.length ≤ 8
  roles : ∀ x ∈ r.pairs, r.inService (.pos x.1) = true ∧ r.role x.1 = .supervisor ∧ r.group (.pos x.1) = none ∧
    r.inService (.pos x.2) = true ∧ r.role x.2 = .agent
  slots : ∀ (l j : Leg) (k : NetSlot), l ≠ j → r.inService (.leg l) = true → r.inService (.leg j) = true →
    r.slot l = some k → r.slot j ≠ some k

theorem LegRec.live_iff {r : LegRec} : r.live = true ↔ r.state ≠ .closed := by simp [LegRec.live]

theorem tablesAgree_iff {s : State} : TablesAgree s ↔ s.roster.Agree := by
  have hfst : s.roster.pairs.map Prod.fst = s.supervision.map SupRec.supervisor := by simp [State.roster]
  have hsnd : s.roster.pairs.map Prod.snd = s.supervision.map SupRec.agent := by simp [State.roster]
  have hlen : s.roster.pairs.length = s.supervision.length := List.length_map ..
  constructor
  · rintro ⟨hgroups, hlegs, hposs, hsup, hagent, hfew, hroles, hslots⟩
    refine ⟨fun g => (hgroups g).1, fun g => (hgroups g).2.1, ?_, ?_, hfst ▸ hsup, hsnd ▸ hagent, hlen ▸ hfew, ?_, ?_⟩
    · rintro g (l | p)
      · exact (hgroups g).2.2.1 l
      · exact (hgroups g).2.2.2 p
    · rintro (l | p) h
      · exact LegRec.live_iff.2 (hlegs l h)
      · exact hposs p h
    · intro x hx
      obtain ⟨k, hk, rfl⟩ := List.mem_map.1 hx
      exact hroles k hk
    · intro l j k hne hl hj
      exact hslots l j k hne (LegRec.live_iff.1 hl) (LegRec.live_iff.1 hj)
  · intro h
    refine ⟨fun g => ⟨h.nodup g, h.bound g, fun l => h.listed g (.leg l), fun p => h.listed g (.pos p)⟩,
      fun l hl => LegRec.live_iff.1 (h.serving (.leg l) hl), fun p hp => h.serving (.pos p) hp, hfst ▸ h.supervisors,
      hsnd ▸ h.agents, hlen ▸ h.few, fun k hk => h.roles _ (List.mem_map_of_mem hk), fun l j k hne hl hj => ?_⟩
    exact h.slots l j k hne (LegRec.live_iff.2 hl) (LegRec.live_iff.2 hj)

/-! ## A change on the tables (R18 to R26) -/

open Function in
/-- What a change does to the roster. -/
def Roster.after (r : Roster) : ChangeOp → Roster
  | .legClose l =>
    if r.inService (.leg l) = true then
      { r with
        inService := update r.inService (.leg l) false
        group := update r.group (.leg l) none
        slot := update r.slot l none
        members := fun g => if r.group (.leg l) = some g then (r.members g).filter (· != .leg l) else r.members g }
    else r
  | .groupAdd g m => { r with group := update r.group m (some g), members := update r.members g (r.members g ++ [m]) }
  | .groupRemove g m =>
    { r with group := update r.group m none, members := update r.members g ((r.members g).filter (· != m)) }
  | .supervise sup agent _ _ => if sup ∈ r.pairs.map Prod.fst then r else { r with pairs := r.pairs ++ [(sup, agent)] }
  | .unsupervise sup => { r with pairs := r.pairs.filter (fun x => x.1 != sup) }
  | _ => r

/-- Several changes, from the head. -/
def Roster.run (cs : List Change) (r : Roster) : Roster := cs.foldl (fun r c => r.after c.op) r

/-- R162: only ROUTING changes act on the roster. -/
theorem Roster.after_of_cls {op : ChangeOp} (h : op.cls ≠ .routing) (r : Roster) : r.after op = r := by
  cases op with
  | sendGain t gain => rfl
  | micSet p trim offset floor sidetone => rfl
  | echoSet l bulk shift nlp => rfl
  | _ => exact absurd rfl h

theorem Roster.run_of_cls {cs : List Change} (h : ∀ c ∈ cs, c.op.cls ≠ .routing) (r : Roster) : r.run cs = r := by
  induction cs with
  | nil => rfl
  | cons c cs ih =>
    show (r.after c.op).run cs = r
    rw [Roster.after_of_cls (h c (by simp)), ih fun d hd => h d (by simp [hd])]

/-- What a leg brings to the roster. -/
def LegRec.seat (r : LegRec) : Bool × Option NetSlot × Option Group := (r.live, r.slot, r.group)

/-- What a position brings to it. -/
def PosRec.post (r : PosRec) : Bool × Role × Option Group := (r.enabled, r.role, r.group)

section
variable {s t : State}

theorem roster_congr (hleg : ∀ l, (t.leg l).seat = (s.leg l).seat) (hpos : ∀ p, (t.pos p).post = (s.pos p).post)
    (hmembers : ∀ g, t.members g = s.members g)
    (hpairs : t.supervision.map (fun k => (k.supervisor, k.agent)) = s.supervision.map fun k => (k.supervisor, k.agent)) :
    t.roster = s.roster := by
  refine Roster.ext ?_ ?_ ?_ ?_ (funext hmembers) hpairs
  · funext m
    cases m with
    | leg l => exact congrArg Prod.fst (hleg l)
    | pos p => exact congrArg Prod.fst (hpos p)
  · funext m
    cases m with
    | leg l => exact congrArg (fun x => x.2.2) (hleg l)
    | pos p => exact congrArg (fun x => x.2.2) (hpos p)
  · exact funext fun l => congrArg (fun x => x.2.1) (hleg l)
  · exact funext fun p => congrArg (fun x => x.2.1) (hpos p)

end

theorem update_leg_pos {α : Type} (f : Member → α) (l : Leg) (p : Position) (v : α) :
    Function.update f (.leg l) v (.pos p) = f (.pos p) := Function.update_of_ne (by simp) _ _

theorem update_pos_leg {α : Type} (f : Member → α) (p : Position) (l : Leg) (v : α) :
    Function.update f (.pos p) v (.leg l) = f (.leg l) := Function.update_of_ne (by simp) _ _

open Function in
/-- One leg's record. -/
theorem setLeg_roster_eq (s : State) (l : Leg) (r : LegRec) : (s.setLeg l r).roster =
    { s.roster with
      inService := update s.roster.inService (.leg l) r.live
      group := update s.roster.group (.leg l) r.group
      slot := update s.roster.slot l r.slot } := by
  have hleg : ∀ k, (s.setLeg l r).leg k = update s.leg l r k := fun k => by
    rw [leg_setLeg, update_apply]
    simp only [eq_comm]
  have hat : ∀ {α : Type} (f : LegRec → α) (k : Leg), f ((s.setLeg l r).leg k) = update (fun i => f (s.leg i)) l (f r) k := fun f k => by
    rw [hleg, update_apply, update_apply]
    split <;> rfl
  have hmember : ∀ {α : Type} (f : LegRec → α) (g : Member → α) (_ : ∀ k, g (.leg k) = f (s.leg k)) (k : Leg),
      f ((s.setLeg l r).leg k) = update g (.leg l) (f r) (.leg k) := fun f g hg k => by
    rw [hleg]
    by_cases hk : k = l
    · rw [hk, update_self, update_self]
    · rw [update_of_ne hk, update_of_ne (by simpa using hk), hg]
  refine Roster.ext (funext fun m => ?_) (funext fun m => ?_) (funext fun k => hat LegRec.slot k) rfl rfl rfl
  · cases m with
    | leg k => exact hmember LegRec.live (memberInService s) (fun _ => rfl) k
    | pos p => exact (update_leg_pos (memberInService s) l p r.live).symm
  · cases m with
    | leg k => exact hmember LegRec.group (memberGroup s) (fun _ => rfl) k
    | pos p => exact (update_leg_pos (memberGroup s) l p r.group).symm

open Function in
/-- One position's record. -/
theorem setPos_roster_eq (s : State) (p : Position) (r : PosRec) : (s.setPos p r).roster =
    { s.roster with
      inService := update s.roster.inService (.pos p) r.enabled
      group := update s.roster.group (.pos p) r.group
      role := update s.roster.role p r.role } := by
  have hpos : ∀ q, (s.setPos p r).pos q = update s.pos p r q := fun q => by
    rw [pos_setPos, update_apply]
    simp only [eq_comm]
  have hat : ∀ {α : Type} (f : PosRec → α) (q : Position), f ((s.setPos p r).pos q) = update (fun i => f (s.pos i)) p (f r) q :=
    fun f q => by
      rw [hpos, update_apply, update_apply]
      split <;> rfl
  have hmember : ∀ {α : Type} (f : PosRec → α) (g : Member → α) (_ : ∀ q, g (.pos q) = f (s.pos q)) (q : Position),
      f ((s.setPos p r).pos q) = update g (.pos p) (f r) (.pos q) := fun f g hg q => by
    rw [hpos]
    by_cases hq : q = p
    · rw [hq, update_self, update_self]
    · rw [update_of_ne hq, update_of_ne (by simpa using hq), hg]
  refine Roster.ext (funext fun m => ?_) (funext fun m => ?_) rfl (funext fun q => hat PosRec.role q) rfl rfl
  · cases m with
    | leg k => exact (update_pos_leg (memberInService s) p k r.enabled).symm
    | pos q => exact hmember PosRec.enabled (memberInService s) (fun _ => rfl) q
  · cases m with
    | leg k => exact (update_pos_leg (memberGroup s) p k r.group).symm
    | pos q => exact hmember PosRec.group (memberGroup s) (fun _ => rfl) q

theorem setMembers_roster (s : State) (g : Group) (ms : List Member) :
    (s.setMembers g ms).roster = { s.roster with members := Function.update s.roster.members g ms } := by
  refine Roster.ext rfl rfl rfl rfl (funext fun k => ?_) rfl
  show (s.setMembers g ms).members k = Function.update s.members g ms k
  rw [members_setMembers, Function.update_apply]
  simp only [eq_comm]

/-- An update by the value that stands leaves a function as it is. -/
theorem update_same {α β : Type} [DecidableEq α] {f : α → β} {a : α} {b : β} (h : b = f a) : Function.update f a b = f := by
  rw [h, Function.update_eq_self]

theorem setLeg_roster {s : State} {l : Leg} {r : LegRec} (h : r.seat = (s.leg l).seat) : (s.setLeg l r).roster = s.roster := by
  obtain ⟨hlive, hslot, hgroup⟩ : r.live = (s.leg l).live ∧ r.slot = (s.leg l).slot ∧ r.group = (s.leg l).group := by
    simpa [LegRec.seat] using h
  rw [setLeg_roster_eq]
  exact Roster.ext (update_same hlive) (update_same hgroup) (update_same hslot) rfl rfl rfl

theorem setPos_roster {s : State} {p : Position} {r : PosRec} (h : r.post = (s.pos p).post) : (s.setPos p r).roster = s.roster := by
  obtain ⟨hon, hrole, hgroup⟩ : r.enabled = (s.pos p).enabled ∧ r.role = (s.pos p).role ∧ r.group = (s.pos p).group := by
    simpa [PosRec.post] using h
  rw [setPos_roster_eq]
  exact Roster.ext (update_same hon) (update_same hgroup) rfl (update_same hrole) rfl rfl

/-- A member's own group field, and one group's list. -/
theorem setMemberGroup_roster (s : State) (g : Group) (ms : List Member) (m : Member) (og : Option Group) :
    (setMemberGroup m og (s.setMembers g ms)).roster =
      { s.roster with
        group := Function.update s.roster.group m og, members := Function.update s.roster.members g ms } := by
  have hset := setMembers_roster s g ms
  cases m with
  | leg l =>
    have hroster := setLeg_roster_eq (s.setMembers g ms) l { (s.setMembers g ms).leg l with group := og }
    rw [hset] at hroster
    exact hroster.trans (Roster.ext (update_same rfl) rfl (update_same rfl) rfl rfl rfl)
  | pos p =>
    have hroster := setPos_roster_eq (s.setMembers g ms) p { (s.setMembers g ms).pos p with group := og }
    rw [hset] at hroster
    exact hroster.trans (Roster.ext (update_same rfl) rfl rfl (update_same rfl) rfl rfl)

theorem closeLeg_roster (l : Leg) (s : State) : (closeLeg l s).roster = s.roster.after (.legClose l) := by
  by_cases hclosed : (s.leg l).state = .closed
  · rw [closeLeg_closed hclosed, Roster.after, if_neg]
    exact fun hlive => LegRec.live_iff.1 hlive hclosed
  · have hlive : s.roster.inService (.leg l) = true := LegRec.live_iff.2 hclosed
    rw [Roster.after, if_pos hlive, closeLeg, if_neg hclosed]
    dsimp only
    rw [setLeg_roster_eq]
    cases hgroup : (s.leg l).group with
    | none =>
      refine Roster.ext rfl rfl rfl rfl (funext fun g => ?_) rfl
      exact (if_neg (by rw [show s.roster.group (.leg l) = none from hgroup]; nofun)).symm
    | some k =>
      have hleft : (leaveGroup k (.leg l) s).roster = _ := setMemberGroup_roster s k _ (.leg l) none
      refine (congrArg (fun r : Roster => ({ r with
        inService := Function.update r.inService (.leg l) false
        group := Function.update r.group (.leg l) none
        slot := Function.update r.slot l none } : Roster)) hleft).trans ?_
      refine Roster.ext rfl (Function.update_idem _ _ _) rfl rfl (funext fun g => ?_) rfl
      have hpick : (if s.roster.group (.leg l) = some g then (s.roster.members g).filter (· != .leg l) else s.roster.members g) =
          Function.update s.roster.members k ((s.roster.members k).filter (· != .leg l)) g := by
        rw [show s.roster.group (.leg l) = some k from hgroup]
        by_cases hk : k = g
        · subst hk; rw [if_pos rfl, Function.update_self]
        · rw [if_neg (by simpa using hk), Function.update_of_ne (Ne.symm hk)]
      exact hpick.symm

theorem heldRec_seat (m : Source) (r : LegRec) : (heldRec m r).seat = r.seat := by
  obtain ⟨state, slot⟩ := r
  cases state <;> rfl

theorem resumedRec_seat (r : LegRec) : (resumedRec r).seat = r.seat := by
  obtain ⟨state, slot⟩ := r
  cases state <;> rfl

theorem echoRec_seat (bulk shift : Option Nat) (nlp : Option Bool) (r : LegRec) : (echoRec bulk shift nlp r).seat = r.seat := by
  unfold echoRec
  split <;> rfl

theorem putSupervision_roster (sup agent : Position) (mode : SupMode) (coach : Option (Nat × Nat)) (s : State) :
    (putSupervision sup agent mode coach s).roster = s.roster.after (.supervise sup agent mode coach) := by
  have hnamed : (asSupervisor s sup).isSome = true ↔ sup ∈ s.roster.pairs.map Prod.fst := by
    simp [asSupervisor, State.roster, List.find?_isSome, List.mem_map]
  unfold putSupervision Roster.after
  by_cases h : sup ∈ s.roster.pairs.map Prod.fst
  · rw [if_pos (hnamed.2 h)]
    dsimp only
    rw [if_pos h]
    refine roster_congr (fun _ => rfl) (fun _ => rfl) (fun _ => rfl) ?_
    show List.map _ (List.map _ s.supervision) = _
    rw [List.map_map]
    refine List.map_congr_left fun k _ => ?_
    simp only [Function.comp]
    split
    · cases coach <;> rfl
    · rfl
  · rw [if_neg (fun hs => h (hnamed.1 hs))]
    dsimp only
    rw [if_neg h]
    refine Roster.ext rfl rfl rfl rfl rfl ?_
    exact List.map_append

/-- What a change does to a state's roster. -/
theorem applyOp_roster (op : ChangeOp) (s : State) : (applyOp op s).roster = s.roster.after op := by
  cases op with
  | legClose l => exact closeLeg_roster l s
  | groupAdd g m => exact setMemberGroup_roster s g _ m (some g)
  | groupRemove g m => exact setMemberGroup_roster s g _ m none
  | hold l m => rw [applyOp, holdLeg_eq]; exact setLeg_roster (heldRec_seat m _)
  | resume l => rw [applyOp, resumeLeg_eq]; exact setLeg_roster (resumedRec_seat _)
  | mute p on => exact setPos_roster rfl
  | supervise sup agent mode coach => exact putSupervision_roster sup agent mode coach s
  | unsupervise sup =>
    refine Roster.ext rfl rfl rfl rfl rfl ?_
    show List.map _ (List.filter _ s.supervision) = List.filter _ (List.map _ s.supervision)
    rw [List.filter_map]
    rfl
  | sendGain t gain =>
    cases t with
    | leg l => exact setLeg_roster rfl
    | pos p => exact setPos_roster rfl
  | micSet p trim offset floor sidetone => exact setPos_roster rfl
  | echoSet l bulk shift nlp =>
    rw [applyOp, setEcho_eq]
    split
    · exact setLeg_roster (s := s) (l := l) (echoRec_seat bulk shift nlp _)
    · exact setLeg_roster (echoRec_seat bulk shift nlp _)

theorem applyAll_roster (cs : List Change) (s : State) : (applyAll cs s).roster = s.roster.run cs := by
  induction cs generalizing s with
  | nil => rfl
  | cons c cs ih => exact (ih _).trans (congrArg (Roster.run cs) (applyOp_roster c.op s))

/-- R163: what the pending ROUTING changes would make of the roster. -/
theorem projected_roster {s : State} (h : ClassesHeld s) : (projected s).roster = s.roster.run s.routing.list := by
  obtain ⟨_, hlevels, hecho⟩ := h
  rw [projected, applyAll_roster, applyAll_roster, applyAll_roster,
    Roster.run_of_cls (cs := s.levels.list) fun c hc => by rw [hlevels c hc]; decide,
    Roster.run_of_cls (cs := s.echo.list) fun c hc => by rw [hecho c hc]; decide]

/-! ## The checks of a change keep the agreement (R17 to R26) -/

/-- R19 to R26: what the checks of a staged request have found on a roster. -/
def Roster.Admits (r : Roster) : ChangeOp → Prop
  | .groupAdd g m => r.inService m = true ∧ r.group m = none ∧ (∀ x ∈ r.pairs, m ≠ .pos x.1) ∧ (r.members g).length < 6
  | .groupRemove g m => r.group m = some g
  | .supervise sup agent _ _ =>
    sup ∈ r.pairs.map Prod.fst ∨
      r.inService (.pos sup) = true ∧ r.role sup = .supervisor ∧ r.group (.pos sup) = none ∧
        r.inService (.pos agent) = true ∧ r.role agent = .agent ∧ agent ∉ r.pairs.map Prod.snd ∧ r.pairs.length < 8
  | _ => True

theorem mem_pairs {s : State} {x : Position × Position} :
    x ∈ s.roster.pairs ↔ ∃ k ∈ s.supervision, k.supervisor = x.1 ∧ k.agent = x.2 := by
  simp [State.roster, List.mem_map, Prod.ext_iff]

theorem noSupervisor_iff {s : State} {p : Position} : asSupervisor s p = none ↔ ∀ x ∈ s.roster.pairs, x.1 ≠ p := by
  simp [asSupervisor, State.roster, List.find?_eq_none]

theorem noAgent_iff {s : State} {p : Position} : asAgent s p = none ↔ ∀ x ∈ s.roster.pairs, x.2 ≠ p := by
  simp [asAgent, State.roster, List.find?_eq_none]

theorem Admitted.roster {s : State} {op : ChangeOp} (h : Admitted s op) : s.roster.Admits op := by
  cases op with
  | groupAdd g m =>
    obtain ⟨hserving, hgroup, hsup, hroom⟩ := h
    refine ⟨hserving, hgroup, fun x hx hm => ?_, hroom⟩
    subst hm
    have hnone : asSupervisor s x.1 = none := by simpa [memberSupervises] using hsup
    exact noSupervisor_iff.1 hnone x hx rfl
  | groupRemove g m => exact h
  | supervise sup agent mode coach =>
    obtain ⟨⟨hon, hon'⟩, ⟨hrole, hrole'⟩, hgroup, hmatch⟩ := h
    cases hsup : asSupervisor s sup with
    | some k =>
      refine .inl (List.mem_map.2 ⟨(k.supervisor, k.agent), ?_, ?_⟩)
      · exact List.mem_map_of_mem (List.mem_of_find?_eq_some hsup)
      · simpa using List.find?_some hsup
    | none =>
      rw [hsup] at hmatch
      obtain ⟨hagent, hroom⟩ := hmatch
      refine .inr ⟨hon, hrole, hgroup, hon', hrole', fun hin => ?_, (List.length_map _).trans_lt hroom⟩
      obtain ⟨x, hx, hxa⟩ := List.mem_map.1 hin
      exact noAgent_iff.1 hagent x hx hxa
  | _ => trivial

namespace Roster
variable {r : Roster}

theorem Agree.closes (h : r.Agree) (l : Leg) : (r.after (.legClose l)).Agree := by
  rw [after]
  split
  swap
  · exact h
  have hfilter : ∀ g, (if r.group (.leg l) = some g then (r.members g).filter (· != .leg l) else r.members g) =
      (r.members g).filter (· != .leg l) := fun g => by
    split
    · rfl
    next hg =>
      refine (List.filter_eq_self.2 fun m hm => ?_).symm
      have hne : m ≠ .leg l := fun heq => hg (heq ▸ (h.listed g m).1 hm)
      simpa using hne
  simp only [hfilter]
  refine ⟨fun g => (h.nodup g).filter _, fun g => (List.length_filter_le _ _).trans (h.bound g), fun g m => ?_, fun m hm => ?_,
    h.supervisors, h.agents, h.few, fun x hx => ?_, fun k j c hkj hk hj hslot => ?_⟩
  · dsimp only
    rw [List.mem_filter, h.listed, Function.update_apply]
    by_cases heq : m = .leg l <;> simp [heq]
  · have hne : m ≠ .leg l := fun heq => hm (by simp [heq])
    dsimp only at hm ⊢
    rw [Function.update_of_ne hne] at hm ⊢
    exact h.serving m hm
  · exact h.roles x hx
  · have hne : ∀ i, Function.update r.inService (.leg l) false (.leg i) = true → i ≠ l ∧ r.inService (.leg i) = true := fun i hi => by
      by_cases heq : i = l
      · subst heq; simp at hi
      · rw [Function.update_of_ne (by simpa using heq)] at hi
        exact ⟨heq, hi⟩
    obtain ⟨hkl, hk'⟩ := hne k hk
    obtain ⟨hjl, hj'⟩ := hne j hj
    dsimp only at hslot ⊢
    rw [Function.update_of_ne hkl] at hslot
    rw [Function.update_of_ne hjl]
    exact h.slots k j c hkj hk' hj' hslot

theorem Agree.adds (h : r.Agree) {g : Group} {m : Member} (hserving : r.inService m = true) (hgroup : r.group m = none)
    (hsup : ∀ x ∈ r.pairs, m ≠ .pos x.1) (hroom : (r.members g).length < 6) : (r.after (.groupAdd g m)).Agree := by
  have hout : ∀ k, m ∉ r.members k := fun k hm => absurd ((h.listed k m).1 hm) (by rw [hgroup]; exact nofun)
  refine ⟨fun k => ?_, fun k => ?_, fun k x => ?_, fun x hx => ?_, h.supervisors, h.agents, h.few, fun x hx => ?_, h.slots⟩
  all_goals simp only [after, Function.update_apply] at *
  · split
    · exact List.nodup_append.2 ⟨h.nodup g, by simp, by rintro a ha b hb rfl; exact hout g (by simpa using List.mem_singleton.1 hb ▸ ha)⟩
    · exact h.nodup k
  · split
    · rw [List.length_append]; exact hroom
    · exact h.bound k
  · by_cases hk : k = g
    · subst hk
      by_cases hx : x = m
      · subst hx; simp
      · simp [hx, h.listed]
    · by_cases hx : x = m
      · subst hx; simp [hk, hout, Ne.symm hk]
      · simp [hk, hx, h.listed]
  · by_cases heq : x = m
    · rw [heq]; exact hserving
    · rw [if_neg heq] at hx; exact h.serving x hx
  · rw [if_neg (fun heq => hsup x hx heq.symm)]
    exact h.roles x hx

theorem Agree.removes (h : r.Agree) {g : Group} {m : Member} (hgroup : r.group m = some g) : (r.after (.groupRemove g m)).Agree := by
  refine ⟨fun k => ?_, fun k => ?_, fun k x => ?_, fun x hx => ?_, h.supervisors, h.agents, h.few, fun x hx => ?_, h.slots⟩
  all_goals simp only [after, Function.update_apply] at *
  · split
    · exact (h.nodup g).filter _
    · exact h.nodup k
  · split
    · exact (List.length_filter_le _ _).trans (h.bound g)
    · exact h.bound k
  · by_cases hx : x = m
    · subst hx
      by_cases hk : k = g
      · simp [hk]
      · simp [hk, h.listed, hgroup, Ne.symm hk]
    · by_cases hk : k = g
      · simp [hk, hx, h.listed]
      · simp [hk, hx, h.listed]
  · by_cases heq : x = m
    · rw [if_pos heq] at hx; exact absurd rfl hx
    · rw [if_neg heq] at hx; exact h.serving x hx
  · obtain ⟨hon, hrole, hnone, hagent⟩ := h.roles x hx
    exact ⟨hon, hrole, by split <;> [rfl; exact hnone], hagent⟩

theorem Agree.supervises (h : r.Agree) {sup agent : Position} (hnew : sup ∉ r.pairs.map Prod.fst)
    (hon : r.inService (.pos sup) = true ∧ r.role sup = .supervisor ∧ r.group (.pos sup) = none ∧
      r.inService (.pos agent) = true ∧ r.role agent = .agent)
    (hagent : agent ∉ r.pairs.map Prod.snd) (hroom : r.pairs.length < 8) :
    ({ r with pairs := r.pairs ++ [(sup, agent)] } : Roster).Agree := by
  have hjoin : ∀ {l : List Position} {a : Position}, l.Nodup → a ∉ l → (l ++ [a]).Nodup := fun hl ha =>
    List.nodup_append.2 ⟨hl, by simp, by rintro x hx y hy rfl; exact ha (List.mem_singleton.1 hy ▸ hx)⟩
  refine ⟨h.nodup, h.bound, h.listed, h.serving, ?_, ?_, ?_, fun x hx => ?_, h.slots⟩
  · rw [List.map_append]; exact hjoin h.supervisors hnew
  · rw [List.map_append]; exact hjoin h.agents hagent
  · rw [List.length_append]; exact hroom
  · rcases List.mem_append.1 hx with hx | hx
    · exact h.roles x hx
    · rw [List.mem_singleton.1 hx]; exact hon

/-- R163: a change that passes its checks keeps the agreement. -/
theorem Agree.after (h : r.Agree) {op : ChangeOp} (hop : r.Admits op) : (r.after op).Agree := by
  cases op with
  | legClose l => exact h.closes l
  | groupAdd g m =>
    obtain ⟨hserving, hgroup, hsup, hroom⟩ := hop
    exact h.adds hserving hgroup hsup hroom
  | groupRemove g m => exact h.removes hop
  | supervise sup agent mode coach =>
    by_cases hnew : sup ∈ r.pairs.map Prod.fst
    · rw [Roster.after, if_pos hnew]
      exact h
    · rw [Roster.after, if_neg hnew]
      obtain ⟨hon, hrole, hgroup, hon', hrole', hagent, hroom⟩ := hop.resolve_left hnew
      exact h.supervises hnew ⟨hon, hrole, hgroup, hon', hrole'⟩ hagent hroom
  | unsupervise sup =>
    have hsub : (r.pairs.filter (fun x => x.1 != sup)).Sublist r.pairs := List.filter_sublist
    exact ⟨h.nodup, h.bound, h.listed, h.serving, h.supervisors.sublist (hsub.map _), h.agents.sublist (hsub.map _),
      hsub.length_le.trans h.few, fun x hx => h.roles x (hsub.subset hx), h.slots⟩
  | _ => exact h

/-! ## A position's service and role (R27, R28) -/

/-- R27, R28: position p in or out of service, in this role. -/
def serve (p : Position) (on : Bool) (role : Role) (r : Roster) : Roster :=
  { r with inService := Function.update r.inService (.pos p) on, role := Function.update r.role p role }

theorem serve_after (p : Position) (on : Bool) (role : Role) (op : ChangeOp) : (r.serve p on role).after op = (r.after op).serve p on role := by
  cases op with
  | legClose l =>
    have hin : (r.serve p on role).inService (.leg l) = r.inService (.leg l) := update_pos_leg r.inService p l on
    simp only [Roster.after, hin]
    split
    · refine Roster.ext ?_ rfl rfl rfl rfl rfl
      exact Function.update_comm (a := .pos p) (b := .leg l) (by simp) on false r.inService
    · rfl
  | supervise sup agent mode coach =>
    by_cases h : sup ∈ r.pairs.map Prod.fst
    · have h' : sup ∈ (r.serve p on role).pairs.map Prod.fst := h
      rw [Roster.after, Roster.after, if_pos h, if_pos h']
    · have h' : sup ∉ (r.serve p on role).pairs.map Prod.fst := h
      rw [Roster.after, Roster.after, if_neg h, if_neg h']
      rfl
  | _ => rfl

theorem serve_run (p : Position) (on : Bool) (role : Role) (cs : List Change) :
    (r.serve p on role).run cs = (r.run cs).serve p on role := by
  induction cs generalizing r with
  | nil => rfl
  | cons c cs ih => exact (congrArg (run cs) (serve_after p on role c.op)).trans ih

/-- R27, R28: a position in no group and no supervision record. -/
def Idle (p : Position) (r : Roster) : Prop := r.group (.pos p) = none ∧ ∀ x ∈ r.pairs, x.1 ≠ p ∧ x.2 ≠ p

theorem Agree.serve (h : r.Agree) {p : Position} (hidle : r.Idle p) (on : Bool) (role : Role) : (r.serve p on role).Agree := by
  obtain ⟨hgroup, hpairs⟩ := hidle
  refine ⟨h.nodup, h.bound, h.listed, fun m hm => ?_, h.supervisors, h.agents, h.few, fun x hx => ?_, fun l j k hne hl hj => ?_⟩
  · have hne : m ≠ .pos p := fun heq => hm (heq ▸ hgroup)
    exact (Function.update_of_ne hne _ _).trans (h.serving m hm)
  · obtain ⟨hsup, hagent⟩ := hpairs x hx
    simp only [Roster.serve, Function.update_of_ne hsup, Function.update_of_ne hagent]
    rw [Function.update_of_ne (by simpa using hsup), Function.update_of_ne (by simpa using hagent)]
    exact h.roles x hx
  · simp only [Roster.serve] at hl hj
    rw [update_pos_leg] at hl hj
    exact h.slots l j k hne hl hj

theorem Agree.idle_of_off (h : r.Agree) {p : Position} (hoff : r.inService (.pos p) = false) : r.Idle p := by
  refine ⟨by_contra fun hg => absurd (h.serving _ hg) (by rw [hoff]; decide), fun x hx => ⟨?_, ?_⟩⟩
  · rintro rfl
    exact absurd (h.roles x hx).1 (by rw [hoff]; decide)
  · rintro rfl
    exact absurd (h.roles x hx).2.2.2.1 (by rw [hoff]; decide)

/-- R27: no change moves a position's service or role. -/
theorem after_post (op : ChangeOp) (p : Position) : (r.after op).inService (.pos p) = r.inService (.pos p) := by
  cases op with
  | legClose l =>
    simp only [Roster.after]
    split
    · exact update_leg_pos r.inService l p false
    · rfl
  | supervise sup agent mode coach => simp only [Roster.after]; split <;> rfl
  | _ => rfl

theorem run_post (cs : List Change) (p : Position) : (r.run cs).inService (.pos p) = r.inService (.pos p) := by
  induction cs generalizing r with
  | nil => rfl
  | cons c cs ih => exact ih.trans (after_post c.op p)

/-! ## A leg that opens (R16) -/

/-- R16: leg l in service on this slot. -/
def seated (l : Leg) (slot : NetSlot) (r : Roster) : Roster :=
  { r with inService := Function.update r.inService (.leg l) true, slot := Function.update r.slot l (some slot) }

/-- R16: q is r but for leg l, which is out of service in r: in q it may be on the slot, and it stands in no group in which it does
not stand in r. -/
structure Beside (l : Leg) (slot : NetSlot) (r q : Roster) : Prop where
  out : r.inService (.leg l) = false
  serving : ∀ m, m ≠ .leg l → q.inService m = r.inService m
  slots : ∀ j, j ≠ l → q.slot j = r.slot j
  seat : q.inService (.leg l) = true → q.slot l = some slot
  group : ∀ m, m ≠ .leg l → q.group m = r.group m
  own : q.group (.leg l) = none ∨ q.group (.leg l) = r.group (.leg l)
  role : q.role = r.role
  pairs : q.pairs = r.pairs
  others : ∀ g, (q.members g).filter (· != .leg l) = (r.members g).filter (· != .leg l)
  fewer : ∀ g, (q.members g).Sublist (r.members g)

variable {q : Roster} {l : Leg} {slot : NetSlot}

theorem Beside.of_seated (hout : r.inService (.leg l) = false) : Beside l slot r (r.seated l slot) where
  out := hout
  serving := fun _ hm => Function.update_of_ne hm _ _
  slots := fun _ hj => Function.update_of_ne hj _ _
  seat := fun _ => Function.update_self ..
  group := fun _ _ => rfl
  own := .inr rfl
  role := rfl
  pairs := rfl
  others := fun _ => rfl
  fewer := fun _ => .refl _

theorem filter_ne_comm (a b : Member) (ms : List Member) :
    (ms.filter (· != a)).filter (· != b) = (ms.filter (· != b)).filter (· != a) := by
  rw [List.filter_filter, List.filter_filter]
  simp only [Bool.and_comm]

/-- The opened leg closes again. -/
theorem Beside.closesSelf (h : Beside l slot r q) : Beside l slot (r.after (.legClose l)) (q.after (.legClose l)) := by
  have hr : r.after (.legClose l) = r := by rw [Roster.after, if_neg (by rw [h.out]; decide)]
  rw [hr, Roster.after]
  split
  swap
  · exact h
  have hsub : ∀ g, (if q.group (.leg l) = some g then (q.members g).filter (· != .leg l) else q.members g).Sublist (q.members g) :=
    fun g => by split <;> [exact List.filter_sublist; exact .refl _]
  refine ⟨h.out, fun m hm => ?_, fun j hj => ?_, fun hl => ?_, fun m hm => ?_, .inl (Function.update_self ..), h.role, h.pairs,
    fun g => ?_, fun g => (hsub g).trans (h.fewer g)⟩
  · exact (Function.update_of_ne hm _ _).trans (h.serving m hm)
  · exact (Function.update_of_ne hj _ _).trans (h.slots j hj)
  · exact absurd hl (by simp)
  · exact (Function.update_of_ne hm _ _).trans (h.group m hm)
  · refine Eq.trans ?_ (h.others g)
    dsimp only
    split
    · rw [List.filter_filter]; simp only [Bool.and_self]
    · rfl

/-- Another leg closes. -/
theorem Beside.closesOther (h : Beside l slot r q) {j : Leg} (hj : j ≠ l) : Beside l slot (r.after (.legClose j)) (q.after (.legClose j)) := by
  have hne : (Member.leg j) ≠ .leg l := by simpa using hj
  have hne' : (Member.leg l) ≠ .leg j := hne.symm
  simp only [Roster.after, h.serving _ hne, h.group _ hne]
  split
  swap
  · exact h
  refine ⟨?_, fun m hm => ?_, fun i hi => ?_, fun hl => ?_, fun m hm => ?_, ?_, h.role, h.pairs, fun g => ?_, fun g => ?_⟩
  · exact (Function.update_of_ne hne' _ _).trans h.out
  · simp only [Function.update_apply, h.serving m hm]
  · simp only [Function.update_apply, h.slots i hi]
  · dsimp only at hl
    rw [Function.update_of_ne hne'] at hl
    exact (Function.update_of_ne (Ne.symm hj) _ _).trans (h.seat hl)
  · simp only [Function.update_apply, h.group m hm]
  · simp only [Function.update_of_ne hne']
    exact h.own
  · dsimp only
    split
    · rw [filter_ne_comm, h.others, filter_ne_comm]
    · exact h.others g
  · dsimp only
    split
    · exact (h.fewer g).filter _
    · exact h.fewer g

theorem Beside.adds (h : Beside l slot r q) (g : Group) (m : Member) :
    Beside l slot (r.after (.groupAdd g m)) (q.after (.groupAdd g m)) := by
  refine ⟨h.out, h.serving, h.slots, h.seat, fun x hx => ?_, ?_, h.role, h.pairs, fun k => ?_, fun k => ?_⟩
  all_goals simp only [Roster.after, Function.update_apply]
  · rw [h.group x hx]
  · split
    · exact .inr rfl
    · exact h.own
  · split
    · rw [List.filter_append, List.filter_append, h.others]
    · exact h.others k
  · split
    · exact (h.fewer g).append_right _
    · exact h.fewer k

theorem Beside.removes (h : Beside l slot r q) (g : Group) (m : Member) :
    Beside l slot (r.after (.groupRemove g m)) (q.after (.groupRemove g m)) := by
  refine ⟨h.out, h.serving, h.slots, h.seat, fun x hx => ?_, ?_, h.role, h.pairs, fun k => ?_, fun k => ?_⟩
  all_goals simp only [Roster.after, Function.update_apply]
  · rw [h.group x hx]
  · split
    · exact .inl rfl
    · exact h.own
  · split
    · rw [filter_ne_comm, h.others, filter_ne_comm]
    · exact h.others k
  · split
    · exact (h.fewer g).filter _
    · exact h.fewer k

theorem Beside.after (h : Beside l slot r q) (op : ChangeOp) : Beside l slot (r.after op) (q.after op) := by
  cases op with
  | legClose j =>
    by_cases hj : j = l
    · subst hj; exact h.closesSelf
    · exact h.closesOther hj
  | groupAdd g m => exact h.adds g m
  | groupRemove g m => exact h.removes g m
  | supervise sup agent mode coach =>
    simp only [Roster.after, h.pairs]
    split
    · exact h
    · exact ⟨h.out, h.serving, h.slots, h.seat, h.group, h.own, h.role, rfl, h.others, h.fewer⟩
  | unsupervise sup =>
    exact ⟨h.out, h.serving, h.slots, h.seat, h.group, h.own, h.role, by simp only [Roster.after, h.pairs], h.others, h.fewer⟩
  | _ => exact h

theorem Beside.run (h : Beside l slot r q) (cs : List Change) : Beside l slot (r.run cs) (q.run cs) := by
  induction cs generalizing r q with
  | nil => exact h
  | cons c cs ih => exact ih (h.after c.op)

/-- R16: with the slot free among the others, the roster with the leg opened agrees too. -/
theorem Beside.agree (h : Beside l slot r q) (hr : r.Agree)
    (hfree : ∀ j, j ≠ l → r.inService (.leg j) = true → r.slot j ≠ some slot) : q.Agree := by
  have hnone : r.group (.leg l) = none := by_contra fun hg => absurd (hr.serving _ hg) (by rw [h.out]; decide)
  have hown : q.group (.leg l) = none := h.own.elim id fun heq => heq.trans hnone
  have hout : ∀ g, .leg l ∉ r.members g := fun g hm => absurd ((hr.listed g _).1 hm) (by rw [hnone]; exact nofun)
  have hself : ∀ {ms : List Member}, .leg l ∉ ms → ms.filter (· != .leg l) = ms := fun hm =>
    List.filter_eq_self.2 fun x hx => by simpa using fun heq : x = .leg l => hm (heq ▸ hx)
  have hmembers : ∀ g, q.members g = r.members g := fun g => by
    rw [← hself (hout g), ← h.others g, hself fun hm => hout g ((h.fewer g).subset hm)]
  have hgroup : q.group = r.group := funext fun m => by
    by_cases hm : m = .leg l
    · rw [hm, hown, hnone]
    · exact h.group m hm
  refine ⟨fun g => hmembers g ▸ hr.nodup g, fun g => hmembers g ▸ hr.bound g, fun g m => ?_, fun m hm => ?_,
    h.pairs ▸ hr.supervisors, h.pairs ▸ hr.agents, h.pairs ▸ hr.few, fun x hx => ?_, fun i j k hij hi hj hslot => ?_⟩
  · rw [hmembers, hgroup]; exact hr.listed g m
  · rw [hgroup] at hm
    have hne : m ≠ .leg l := fun heq => hm (heq ▸ hnone)
    rw [h.serving m hne]
    exact hr.serving m hm
  · rw [h.pairs] at hx
    rw [h.serving (.pos x.1) (by simp), h.serving (.pos x.2) (by simp), h.role, hgroup]
    exact hr.roles x hx
  · have hother : ∀ {a : Leg}, a ≠ l → q.inService (.leg a) = true → r.inService (.leg a) = true := fun ha hq => by
      rwa [h.serving _ (by simpa using ha)] at hq
    by_cases hil : i = l
    · subst hil
      have hji : j ≠ i := hij.symm
      rw [h.seat hi, Option.some.injEq] at hslot
      subst hslot
      rw [h.slots j hji]
      exact hfree j hji (hother hji hj)
    · rw [h.slots i hil] at hslot
      by_cases hjl : j = l
      · subst hjl
        rw [h.seat hj]
        rintro heq
        exact hfree i hil (hother hil hi) (hslot.trans heq.symm)
      · rw [h.slots j hjl]
        exact hr.slots i j k hij (hother hil hi) (hother hjl hj) hslot

/-- A leg in service after a change was so before, on the same slot. -/
theorem after_seat (op : ChangeOp) {j : Leg} (h : (r.after op).inService (.leg j) = true) :
    r.inService (.leg j) = true ∧ (r.after op).slot j = r.slot j := by
  cases op with
  | legClose k =>
    simp only [Roster.after] at h ⊢
    split at h
    next hk =>
      rw [if_pos hk]
      have hne : j ≠ k := by rintro rfl; simp at h
      dsimp only at h
      rw [Function.update_of_ne (by simpa using hne)] at h
      exact ⟨h, Function.update_of_ne hne _ _⟩
    next hk => rw [if_neg hk]; exact ⟨h, rfl⟩
  | supervise sup agent mode coach =>
    simp only [Roster.after] at h ⊢
    split at h
    next hk => rw [if_pos hk]; exact ⟨h, rfl⟩
    next hk => rw [if_neg hk]; exact ⟨h, rfl⟩
  | _ => exact ⟨h, rfl⟩

theorem run_seat (cs : List Change) {j : Leg} (h : (r.run cs).inService (.leg j) = true) :
    r.inService (.leg j) = true ∧ (r.run cs).slot j = r.slot j := by
  induction cs generalizing r with
  | nil => exact ⟨h, rfl⟩
  | cons c cs ih =>
    obtain ⟨hafter, hslot⟩ := ih h
    obtain ⟨hr, hslot'⟩ := after_seat c.op hafter
    exact ⟨hr, hslot.trans hslot'⟩

theorem run_out (cs : List Change) {j : Leg} (h : r.inService (.leg j) = false) : (r.run cs).inService (.leg j) = false := by
  by_contra hin
  exact absurd (run_seat cs (by simpa using hin)).1 (by rw [h]; decide)

end Roster

/-! ## The moves -/

/-- R4, R5, R16, R163: the roster agrees, and so does what the pending ROUTING changes would make of it. -/
def RostersAgree (s : State) : Prop := s.roster.Agree ∧ (s.roster.run s.routing.list).Agree

theorem tablesHeld_iff {s : State} (h : ClassesHeld s) : TablesHeld s ↔ RostersAgree s := by
  rw [TablesHeld, tablesAgree_iff, tablesAgree_iff, projected_roster h, RostersAgree]

section
variable {s t : State}

theorem RostersAgree.same (h : RostersAgree s) (hroster : t.roster = s.roster) (hlist : t.routing.list = s.routing.list) :
    RostersAgree t := by
  rw [RostersAgree, hroster, hlist]
  exact h

theorem Kept.roster (h : Kept s t) : t.roster = s.roster := by
  refine roster_congr (fun l => ?_) (fun p => ?_) (fun g => by rw [State.members, State.members, h.groups]) (by rw [h.supervision])
  · rw [LegRec.seat, LegRec.seat, (h.leg l).live, (h.leg l).slot, (h.leg l).group]
  · rw [PosRec.post, PosRec.post, (h.pos p).enabled, (h.pos p).role, (h.pos p).group]

theorem RostersAgree.kept (h : RostersAgree s) (k : Kept s t) : RostersAgree t := h.same k.roster k.routing

theorem PlayersOnly.roster (h : PlayersOnly s t) : t.roster = s.roster ∧ t.routing = s.routing := by
  obtain ⟨hrest, hpos⟩ := h
  refine ⟨roster_congr (fun l => ?_) (fun p => (congrArg PosRec.post (hpos p) :)) (fun g => ?_) ?_, (congrArg State.routing hrest :)⟩
  · rw [show t.leg l = s.leg l from (congrArg (fun u : State => u.leg l) hrest :)]
  · exact (congrArg (fun u : State => u.members g) hrest :)
  · rw [show t.supervision = s.supervision from (congrArg State.supervision hrest :)]

theorem RostersAgree.players (h : RostersAgree s) (k : PlayersOnly s t) : RostersAgree t :=
  h.same k.roster.1 (by rw [k.roster.2])

/-- A roster of nobody. -/
def Roster.Empty (r : Roster) : Prop :=
  (∀ m, r.inService m = false ∧ r.group m = none) ∧ (∀ g, r.members g = []) ∧ r.pairs = []

theorem Roster.Empty.agree {r : Roster} (h : r.Empty) : r.Agree := by
  obtain ⟨hserving, hmembers, hpairs⟩ := h
  refine ⟨fun g => by rw [hmembers]; exact List.nodup_nil, fun g => by rw [hmembers]; exact Nat.zero_le _, fun g m => ?_,
    fun m hm => absurd (hserving m).2 hm, by rw [hpairs]; exact List.nodup_nil, by rw [hpairs]; exact List.nodup_nil,
    by rw [hpairs]; exact Nat.zero_le _, by rw [hpairs]; exact nofun, fun l j k _ hl => absurd hl ?_⟩
  · rw [hmembers, (hserving m).2]
    exact iff_of_false List.not_mem_nil nofun
  · rw [(hserving _).1]; decide

theorem RostersAgree.of_empty (h : s.roster.Empty) (hlist : s.routing.list = []) : RostersAgree s := by
  rw [RostersAgree, hlist]
  exact ⟨h.agree, h.agree⟩

/-- R203, R209: every leg closed, every position out of service, no group and no record. -/
theorem emptyRoster (hleg : ∀ l, s.leg l = blankLeg) (hpos : ∀ p, (s.pos p).enabled = false ∧ (s.pos p).group = none)
    (hmembers : ∀ g, s.members g = []) (hsup : s.supervision = []) : s.roster.Empty := by
  refine ⟨fun m => ?_, hmembers, congrArg (List.map _) hsup⟩
  cases m with
  | leg l =>
    show (s.leg l).live = false ∧ (s.leg l).group = none
    rw [hleg]
    exact ⟨rfl, rfl⟩
  | pos p => exact hpos p

theorem blankState_roster (pins : Straps) (cause : ResetCause) : RostersAgree (blankState pins cause) := by
  refine .of_empty (emptyRoster (blankState_leg pins cause) (fun p => ?_) (fun g => ?_) rfl) rfl
  · rw [blankState_pos]; exact ⟨rfl, rfl⟩
  · simp [State.members, blankState]

theorem tearDown_members (s : State) (g : Group) : (tearDown s).members g = [] := by
  rw [tearDown_eq]
  generalize cancelPrompts (stopSources s) = u
  exact vmap_get _ _ _

theorem tearDown_supervision (s : State) : (tearDown s).supervision = [] := by
  rw [tearDown_eq]
  generalize cancelPrompts (stopSources s) = u
  rfl

theorem tearDown_roster (s : State) : RostersAgree (tearDown s) := by
  have hpos : ∀ p, ((tearDown s).pos p).enabled = false ∧ ((tearDown s).pos p).group = none := fun p => by
    rw [tearDown_pos]; exact ⟨rfl, rfl⟩
  exact .of_empty (emptyRoster (tearDown_leg s) hpos (tearDown_members s) (tearDown_supervision s)) (tearDown_list s .routing)

theorem legOpened_roster (l : Leg) (slot : NetSlot) (tail gain : Nat) (hgroup : s.roster.group (.leg l) = none) :
    (legOpened l slot tail gain s).roster = s.roster.seated l slot := by
  refine (setLeg_roster_eq s l (openedLeg (s.leg l) slot tail gain)).trans ?_
  exact Roster.ext rfl (update_same hgroup.symm) rfl rfl rfl rfl

theorem RostersAgree.opened (h : RostersAgree s) {l : Leg} {slot : NetSlot} {tail gain : Nat}
    (hclosed : (s.leg l).state = .closed) (hslot : slotTaken s l slot = false) : RostersAgree (legOpened l slot tail gain s) := by
  obtain ⟨hnow, hnext⟩ := h
  have hout : s.roster.inService (.leg l) = false := by
    show (s.leg l).live = false
    rw [LegRec.live, hclosed]
    rfl
  have hgroup : s.roster.group (.leg l) = none := by_contra fun hg => absurd (hnow.serving _ hg) (by rw [hout]; decide)
  have hfree : ∀ j, j ≠ l → s.roster.inService (.leg j) = true → s.roster.slot j ≠ some slot := fun j hj hlive heq => by
    have hnot := List.any_eq_false.1 hslot j (List.mem_finRange j)
    refine hnot ?_
    rw [show (s.leg j).live = true from hlive, show (s.leg j).slot = some slot from heq]
    simpa using hj
  have hbeside : s.roster.Beside l slot (s.roster.seated l slot) := .of_seated hout
  rw [RostersAgree, legOpened_roster l slot tail gain hgroup]
  refine ⟨hbeside.agree hnow hfree, (hbeside.run s.routing.list).agree hnext fun j hj hlive => ?_⟩
  obtain ⟨hlive', hslot'⟩ := Roster.run_seat _ hlive
  rw [hslot']
  exact hfree j hj hlive'

theorem RostersAgree.joined (h : RostersAgree s) (hclasses : ClassesHeld s) {op : ChangeOp} (tag : Byte)
    (hop : Admitted (projected s) op) : RostersAgree (joinList op tag s) := by
  have hroster : (joinList op tag s).roster = s.roster :=
    roster_congr (fun l => by rw [joinList, State.leg_setStage]) (fun p => by rw [joinList, State.pos_setStage])
      (fun g => by rw [joinList, State.members_setStage]) (by rw [joinList, State.setStage_supervision])
  by_cases hc : op.cls = .routing
  · have hlist : (joinList op tag s).routing.list = s.routing.list ++ [{ tag := tag, arrival := s.frame, op := op }] := by
      rw [joinList, hc]; rfl
    have hadmits := hop.roster
    rw [projected_roster hclasses] at hadmits
    rw [RostersAgree, hroster, hlist, Roster.run, List.foldl_append]
    exact ⟨h.1, h.2.after hadmits⟩
  · refine h.same hroster ?_
    rw [joinList]
    cases hcls : op.cls with
    | routing => exact absurd hcls hc
    | levels => rfl
    | echo => rfl

theorem engaged_false {p : Position} (h : engaged s p = false) : s.roster.Idle p := by
  simp only [engaged, Bool.or_eq_false_iff, Option.isSome_eq_false_iff, Option.isNone_iff_eq_none] at h
  obtain ⟨⟨hgroup, hsup⟩, hagent⟩ := h
  exact ⟨hgroup, fun x hx => ⟨noSupervisor_iff.1 hsup x hx, noAgent_iff.1 hagent x hx⟩⟩

/-- R27, R28: one position's service and role have changed, and it was idle. -/
theorem RostersAgree.serve (h : RostersAgree s) {p : Position} {on : Bool} {role : Role}
    (hidle : s.roster.Idle p ∧ (s.roster.run s.routing.list).Idle p) (hroster : t.roster = s.roster.serve p on role)
    (hlist : t.routing.list = s.routing.list) : RostersAgree t := by
  rw [RostersAgree, hroster, hlist, Roster.serve_run]
  exact ⟨h.1.serve hidle.1 on role, h.2.serve hidle.2 on role⟩

theorem setPos_serve {p : Position} {r : PosRec} (hgroup : r.group = (s.pos p).group) :
    (s.setPos p r).roster = s.roster.serve p r.enabled r.role := by
  rw [setPos_roster_eq]
  exact Roster.ext rfl (update_same hgroup) rfl rfl rfl rfl

theorem disablePosition_roster (p : Position) (role : Role) (s : State) :
    (disablePosition p role s).roster = s.roster.serve p false role ∧
      (disablePosition p role s).routing = s.routing := by
  obtain ⟨hroster, hrouting⟩ := (cancelAll_step p s).players.roster
  unfold disablePosition closePosition
  generalize cancelAll p s = u at hroster hrouting
  refine ⟨?_, hrouting⟩
  dsimp only
  rw [State.pos_setPos_same, State.setPos_setPos, ← hroster]
  exact setPos_serve (s := u) (p := p) (r := { u.pos p with
    enabled := false, role := role, duck := 32768, mic := stopMic (u.pos p).mic }) rfl

theorem RostersAgree.position (h : RostersAgree s) (hclasses : ClassesHeld s) {p : Position} {on : Bool} {role : Role}
    (hfree : ¬ ((s.pos p).enabled = true ∧ (on = false ∨ role ≠ (s.pos p).role) ∧ engagedAnywhere s p = true)) :
    RostersAgree (positionPut p on role s) := by
  have hidle : (s.pos p).enabled = false ∨ on = false ∨ role ≠ (s.pos p).role →
      s.roster.Idle p ∧ (s.roster.run s.routing.list).Idle p := by
    intro hwhy
    by_cases hoff : (s.pos p).enabled = false
    · exact ⟨h.1.idle_of_off hoff, h.2.idle_of_off ((Roster.run_post _ p).trans hoff)⟩
    · have hon : (s.pos p).enabled = true := by simpa using hoff
      have hnot : engagedAnywhere s p = false := by
        simpa using fun he => hfree ⟨hon, hwhy.resolve_left hoff, he⟩
      obtain ⟨hnow, hnext⟩ := Bool.or_eq_false_iff.1 hnot
      exact ⟨engaged_false hnow, projected_roster hclasses ▸ engaged_false hnext⟩
  unfold positionPut
  split
  next heq =>
    by_cases hchange : (s.pos p).enabled = false ∨ role ≠ (s.pos p).role
    · exact h.serve (hidle (hchange.imp_right .inr)) (setPos_serve rfl) rfl
    · have hrole : role = (s.pos p).role := by_contra fun hne => hchange (.inr hne)
      exact h.same (setPos_roster (by rw [hrole])) rfl
  next hne =>
    split
    next hon =>
      have hoff : (s.pos p).enabled = false := by simpa [hon] using hne
      exact h.serve (hidle (.inl hoff)) (setPos_serve (s := s) (p := p) (r := { s.pos p with
        enabled := true, role := role, duck := 32768, mic := startMic (s.pos p).mic }) rfl) rfl
    next hon =>
      obtain ⟨hroster, hrouting⟩ := disablePosition_roster p role s
      exact h.serve (hidle (.inr (.inl (by simpa using hon)))) hroster (by rw [hrouting])

/-! ### Discard and application (R166, R173) -/

theorem setStage_roster (c : ChangeClass) (st : Stage) (s : State) : (s.setStage c st).roster = s.roster :=
  roster_congr (fun l => by rw [State.leg_setStage]) (fun p => by rw [State.pos_setStage])
    (fun g => by rw [State.members_setStage]) (by rw [State.setStage_supervision])

theorem RostersAgree.emptied (h : RostersAgree s) (c : ChangeClass) (st : Stage) (hst : st.list = []) :
    RostersAgree (s.setStage c st) := by
  rw [RostersAgree, setStage_roster]
  cases c with
  | routing =>
    show _ ∧ (s.roster.run st.list).Agree
    rw [hst]
    exact ⟨h.1, h.1⟩
  | levels => exact h
  | echo => exact h

theorem clearClosing_kept (cs : List Change) (s : State) : Kept s (clearClosing cs s) := by
  refine Kept.fold (fun v x => ?_) _ _
  obtain ⟨tag, arrival, op⟩ := x
  cases op
  case legClose l => exact .setLeg ⟨rfl, rfl, rfl, rfl, id⟩
  all_goals exact .refl v

theorem RostersAgree.discarded (h : RostersAgree s) (cs : List ChangeClass) : RostersAgree (discardAll cs s) :=
  List.foldlRecOn (motive := RostersAgree) _ _ h fun u hu c _ =>
    (hu.kept (clearClosing_kept (u.stage c).list u)).emptied c (u.stage c).emptied rfl

/-- R166: a change applied within its class acts on the roster as it does alone, and leaves the ROUTING list. -/
theorem applyChange_roster (a : Applied) (c : Change) :
    (applyChange a c).state.roster = a.state.roster.after c.op ∧ (applyChange a c).state.routing = a.state.routing := by
  have hroster := applyOp_roster c.op a.state
  have hrouting : (applyOp c.op a.state).routing = a.state.routing := applyOp_stage c.op a.state .routing
  have hstate : (applyChange a c).state = applyOp c.op a.state ∨ ∃ l e, (applyChange a c).state =
      (applyOp c.op a.state).withStages (applyOp c.op a.state).routing l e := by
    unfold applyChange
    dsimp only
    split
    · exact .inr ⟨_, _, rfl⟩
    · split <;> exact .inl rfl
    · exact .inl rfl
  rcases hstate with heq | ⟨l, e, heq⟩
  · rw [heq]; exact ⟨hroster, hrouting⟩
  · rw [heq]; exact ⟨hroster, hrouting⟩

theorem applyChanges_roster (cs : List Change) (a : Applied) :
    (cs.foldl applyChange a).state.roster = a.state.roster.run cs ∧ (cs.foldl applyChange a).state.routing = a.state.routing := by
  induction cs generalizing a with
  | nil => exact ⟨rfl, rfl⟩
  | cons c cs ih =>
    obtain ⟨hroster, hrouting⟩ := applyChange_roster a c
    obtain ⟨hroster', hrouting'⟩ := ih (applyChange a c)
    exact ⟨by rw [List.foldl_cons, hroster', hroster]; rfl, hrouting'.trans hrouting⟩

/-- R166: a class that applies makes the active roster the one projected, or leaves both. -/
theorem RostersAgree.applyClass {a : Applied} (h : RostersAgree a.state) (hclasses : ClassesHeld a.state) (c : ChangeClass) :
    RostersAgree (applyClass a c).state := by
  have hcleared := setStage_roster c (a.state.stage c).emptied a.state
  obtain ⟨hroster, hrouting⟩ := applyChanges_roster (a.state.stage c).list
    { a with state := a.state.setStage c (a.state.stage c).emptied }
  obtain ⟨_, hlevels, hecho⟩ := hclasses
  rw [RostersAgree, show (Machine.applyClass a c).state.roster = _ from hroster,
    show (Machine.applyClass a c).state.routing = _ from hrouting, hcleared]
  cases c with
  | routing => exact ⟨h.2, h.2⟩
  | levels =>
    rw [Roster.run_of_cls fun x hx => by rw [hlevels x hx]; decide]
    exact h
  | echo =>
    rw [Roster.run_of_cls fun x hx => by rw [hecho x hx]; decide]
    exact h

/-- The settings' bounds and the agreement together. -/
def SettledTables (s : State) : Prop := SettingsHeld s ∧ RostersAgree s

theorem SettledTables.classes (h : SettledTables s) : ClassesHeld s := h.1.2.2.2

theorem SettledTables.applyInOrder (cs : List ChangeClass) {x : Applied × List (ChangeClass × List Change)}
    (hx : SettledTables x.1.state) : SettledTables (applyInOrder cs x).1.state := by
  induction cs generalizing x with
  | nil => exact hx
  | cons c cs ih =>
    refine ih (x := (Machine.applyClass x.1 c, _)) ⟨?_, hx.2.applyClass hx.classes c⟩
    exact applyClass_keeps (Inv := SettingsHeld) (fun _ _ _ _ h hs => h.shrinks hs)
      (fun op u hu => hu.same (applyOp_settings op u).1 (applyOp_settings op u).2 fun c => (applyOp_stage op u c) ▸ .refl _) hx.1 c

theorem RostersAgree.applied (h : SettledTables s) : RostersAgree (stageApplication s).1 := by
  have hraise : ∀ c cs n u, RostersAgree u → RostersAgree (raiseApplied c cs n u) := fun c cs n u hu => by
    rw [(raiseApplied_eq c cs n u).1]
    exact hu.kept (.setLink u _)
  have hclear : ∀ st : Stage, (if (st.nextFrame || st.latch) = true then { st with latch := false } else st).list = st.list :=
    fun st => by split <;> rfl
  have happlied := (SettledTables.applyInOrder (applyOrder s)
    (x := ({ state := s, levelsDropped := 0, echoDropped := 0, fresh := [] }, [])) h).2
  have hcleared := RostersAgree.kept (t := clearLatches _) happlied
    (.same rfl rfl rfl rfl rfl (hclear _) (hclear _) (hclear _) rfl)
  exact hraise _ _ _ _ (hraise _ _ _ _ (hraise _ _ _ _ hcleared))

theorem SettledTables.move (h : SettledTables s) (hm : Move s t) : SettledTables t := by
  refine ⟨h.1.move hm, ?_⟩
  have hclasses := h.classes
  have hagree := h.2
  cases hm with
  | kept hk => exact hagree.kept hk
  | reset pins cause => exact (blankState_roster pins cause).kept (resetPart_kept pins cause s)
  | tornDown => exact tearDown_roster s
  | opened l slot requested gain hclosed hslot htail => exact hagree.opened hclosed hslot
  | joined op tag hroom hop => exact hagree.joined hclasses tag hop
  | position p on role hfree hroom => exact hagree.position hclasses hfree
  | retailed l requested hlive => exact hagree.same (setLeg_roster (s := s) (l := l) rfl) rfl
  | queued p k hon hroom hfree => exact hagree.same (setPos_roster (s := s) (p := p) rfl) rfl
  | ended p res k hk => exact hagree.players (endPending_step p res k s).players
  | slotMarked p pl hslot => exact hagree.same (setPos_roster rfl) rfl
  | drained p => exact hagree.same (setPos_roster (s := s) (p := p) rfl) rfl
  | limits ceiling ratio hc hr => exact hagree.same rfl rfl
  | discarded cs => exact hagree.discarded cs
  | applied => exact RostersAgree.applied h
  | played ix ls p => exact hagree.players (playerFrame_step ix ls p s).players

end

/-- Settles O37: a change is staged only where it fits the projected tables, the ROUTING list applies whole or not at all, and a
request that acts at once touches nothing a pending change engages. -/
theorem tablesStayHeld : Obligations.TablesStayHeld := by
  unfold Obligations.TablesStayHeld
  intro s t htables hlimits hstep
  have hsettings := (limitsHeld_iff.1 hlimits).1
  have hs : SettledTables s := ⟨hsettings, (tablesHeld_iff hsettings.2.2.2).1 htables⟩
  have ht : SettledTables t := step_keeps_moves (fun _ _ h hm => h.move hm) s t hs hstep
  exact (tablesHeld_iff ht.classes).2 ht.2

end Sys2Proof.Machine
end

section
/-! PROOF. The reset state's invariants (R203), rows whose entry raises notices (R195, R210), and the prompts that end together: STOP
(R209, R210) and POSITION_SET (R27, R28, R115). -/

namespace Sys2Proof.Machine

/-! ## The reset state (R203) -/

theorem reset_kept : Kept (blankState { pos1 := false, pos0 := false, test := false, scan := false } .powerOn) State.reset :=
  .setLink _ _

/-- Settles O2: a reset leaves every table empty and every count at 0. -/
theorem resetMeetsTheInvariants : Obligations.ResetMeetsTheInvariants := by
  unfold Obligations.ResetMeetsTheInvariants
  have hsettings := (blankState_settings _ _).kept reset_kept
  refine ⟨by unfold LinkBounded; decide, ⟨List.pairwise_singleton _ _, by decide⟩, limitsHeld_iff.2 ⟨hsettings, by unfold CountsHeld; decide⟩,
    (blankState_activity _ _).kept reset_kept, (blankState_budget _ _).kept reset_kept,
    (tablesHeld_iff hsettings.2.2.2).2 ((blankState_roster _ _).kept reset_kept), (blankState_handles _ _).kept reset_kept⟩

/-! ## Rows whose entry raises (R195, R210) -/

theorem raiseAll_setLink_queues (rs : List (Nat × Detail)) (s : State) (q : List Request) (x : List Reply) :
    (raiseAll rs (s.setLink { s.link with requests := q, replies := x })).link =
      { (raiseAll rs s).link with requests := q, replies := x } := by
  induction rs generalizing s with
  | nil => rfl
  | cons y ys ih =>
    obtain ⟨n, d⟩ := y
    have hraise : raise n d (s.setLink { s.link with requests := q, replies := x }) =
        (raise n d s).setLink { (raise n d s).link with requests := q, replies := x } := rfl
    rw [raiseAll_cons, raiseAll_cons, hraise]
    exact ih (raise n d s)

section
variable {c : Instr} {k : Byte} {r : Request} {rest : List Request} {s : State} {body : List Byte} {result : ResultCode}
  {entry : Request → State → Except ResultCode Taken} {f : State → State} {rs after : List (Nat × Detail)}

/-- R195, R210: a due request whose entry raises notices, and whose reply more follow. -/
theorem row_voiced (hexec : ∀ s, exec c s = .next (executeHead k entry s)) (hdue : HeadDue k r rest s)
    (hfit : bodyFits k.toNat r.body = some true) (hs : Serving s ∨ takenAlways k = true) (hf : Voices rs f s)
    (he : ∀ x : Link, entry r (s.setLink x) = .ok { body := body, state := f (s.setLink x), result := result, raises := after }) :
    exec c s = .next ((f s).setLink { (raiseAll (rs ++ after) s).link with
      requests := rest
      replies := s.link.replies ++ [{ kind := r.kind + 0x80#8, tag := r.tag, result := result, body := body }] }) := by
  have ⟨_, hqueue, hkind, _⟩ := hdue
  rw [← hkind] at hfit hs
  have hrest : dropRequest s = s.setLink { s.link with requests := rest } := by rw [dropRequest_eq, hqueue]; rfl
  have hlink : (raiseAll rs (s.setLink { s.link with requests := rest })).link = { (raiseAll rs s).link with requests := rest } := by
    have h := raiseAll_setLink_queues rs s rest s.link.replies
    rw [show ({ s.link with requests := rest } : Link) = { s.link with requests := rest, replies := s.link.replies } from rfl, h]
    have hrep := (raiseAll_queues rs s).2.1
    rw [← hrep]
  rw [hexec, executeHead_due hdue, answer_taken (s := dropRequest s) hfit hs, hrest, he, settleAnswer, hf.2, hlink]
  refine congrArg Host.Outcome.next ?_
  rw [raiseAll_eq]
  have hafter := raiseAll_setLink_queues after ((f s).setLink (raiseAll rs s).link) rest
    (s.link.replies ++ [{ kind := r.kind + 0x80#8, tag := r.tag, result := result, body := body }])
  have hboth : (raiseAll after ((f s).setLink (raiseAll rs s).link)).link = (raiseAll (rs ++ after) s).link := by
    rw [raiseAll_append]
    exact raiseAll_congr after rfl (by simpa using hf.1)
  rw [hboth] at hafter
  have hreplies := (raiseAll_queues rs s).2.1
  refine congrArg (State.setLink (f s)) ((raiseAll_congr after ?_ ?_).trans hafter)
  · rw [← hreplies]; rfl
  · rfl

end

/-! ## Fetch items given up (R95, R114) -/

/-- R95, R114: from s to t these requesters have given up their fetch items, and what their reads bring is to be discarded. -/
def GivesUp (gone : Requester → Bool) (s t : State) : Prop :=
  t.fetch = s.fetch.filter (fun it => !gone it.requester) ∧
    t.reads = s.reads.map (fun x => { x with dropped := x.dropped || gone x.item.requester })

theorem GivesUp.none (s : State) : GivesUp (fun _ => false) s s := by
  refine ⟨by simp, ?_⟩
  simp only [Bool.or_false]
  exact (List.map_id s.reads).symm

theorem GivesUp.trans {g h : Requester → Bool} {s t u : State} (hst : GivesUp g s t) (htu : GivesUp h t u) :
    GivesUp (fun r => g r || h r) s u := by
  obtain ⟨hfetch, hreads⟩ := hst
  obtain ⟨hfetch', hreads'⟩ := htu
  refine ⟨?_, ?_⟩
  · rw [hfetch', hfetch, List.filter_filter]
    simp only [Bool.not_or, Bool.and_comm]
  · rw [hreads', hreads, List.map_map]
    simp only [Function.comp_def, Bool.or_assoc]

theorem GivesUp.congr {g h : Requester → Bool} {s t : State} (hg : GivesUp g s t) (heq : ∀ r, g r = h r) : GivesUp h s t :=
  (funext heq : g = h) ▸ hg

theorem GivesUp.withdraw (r : Requester) (s : State) : GivesUp (· == r) s (withdraw r s) := by
  refine ⟨rfl, List.map_congr_left fun x _ => ?_⟩
  by_cases h : x.item.requester == r
  · simp only [h, if_true, Bool.or_true]
  · simp only [h, if_false, Bool.or_false, Bool.false_eq_true]

/-- The fetch list and the reads have stayed. -/
theorem GivesUp.same {g : Requester → Bool} {s t u : State} (h : GivesUp g s t) (hfetch : u.fetch = t.fetch)
    (hreads : u.reads = t.reads) : GivesUp g s u := ⟨hfetch.trans h.1, hreads.trans h.2⟩

theorem endSlot_givesUp (p : Position) (res : PromptResult) (s : State) :
    GivesUp (fun r => (s.pos p).slot.isSome && r == .prompt p) s (endSlot p res s) := by
  cases h : (s.pos p).slot with
  | none => rw [endSlot_none p res s h]; exact .none s
  | some pl =>
    have hw := GivesUp.withdraw (.prompt p) (s.setPos p { s.pos p with slot := none })
    simp only [endSlot, h]
    rw [finishPrompt_eq]
    exact GivesUp.same hw rfl rfl

theorem endPending_fetch (p : Position) (res : PromptResult) (k : PromptRec) (s : State) :
    (endPending p res k s).fetch = s.fetch ∧ (endPending p res k s).reads = s.reads := by
  rw [endPending, finishPrompt_eq]
  exact ⟨rfl, rfl⟩

theorem cancelAll_givesUp (p : Position) (s : State) :
    GivesUp (fun r => (s.pos p).slot.isSome && r == .prompt p) s (cancelAll p s) :=
  (endSlot_givesUp p .cancelled s).same
    (foldl_keeps (g := State.fetch) (f := fun u k => endPending p .cancelled k u) (fun u k => (endPending_fetch p _ k u).1) _ _)
    (foldl_keeps (g := State.reads) (f := fun u k => endPending p .cancelled k u) (fun u k => (endPending_fetch p _ k u).2) _ _)

/-! ## The prompts of one position end (R115) -/

theorem cancelledRecords_length (s : State) (p : Position) : (cancelledRecords s p).length = promptsOf (s.pos p) := by
  rw [cancelledRecords, List.length_map, List.length_append, Nat.add_comm, promptsOf]
  cases (s.pos p).slot <;> rfl

/-- R103, R115: one PROMPT_DONE for each prompt that ends. -/
theorem cancelAll_voices (p : Position) (s : State) : Voices (doneRaises s p) (cancelAll p) s := by
  have h := (cancelAll_ends p s).voices
  have hgrown : ((cancelAll p s).pos p).done.length - (s.pos p).done.length = promptsOf (s.pos p) := by
    rw [cancelAll_pos]
    dsimp only
    rw [List.length_append, Nat.add_sub_cancel_left, cancelledRecords_length]
  rwa [hgrown] at h

/-! ## POSITION_SET (R27, R28) -/

/-- R28: the record of position p and the commitment once its prompts have ended. -/
def outOfService (p : Position) (role : Role) (s : State) : State :=
  (s.setPos p { s.pos p with enabled := false, role := role, duck := 32768, mic := stopMic (s.pos p).mic }).setWork
    { s.work with commitment := s.work.commitment - Config.positionCost }

theorem disablePosition_eq (p : Position) (role : Role) (s : State) :
    disablePosition p role s = outOfService p role (cancelAll p s) := by
  unfold disablePosition closePosition outOfService
  generalize cancelAll p s = u
  dsimp only
  rw [State.pos_setPos_same, State.setPos_setPos]
  rfl

theorem disablePosition_work (p : Position) (role : Role) (s : State) :
    (disablePosition p role s).work = { s.work with commitment := s.work.commitment - 24 } := by
  have hwork := (congrArg State.work (cancelAll_step p s).1 :)
  rw [disablePosition_eq]
  generalize cancelAll p s = u at hwork
  show ({ u.work with commitment := u.work.commitment - Config.positionCost } : Work) = _
  rw [show u.work = s.work from hwork]
  rfl

/-- R28: what a disable leaves of the positions, of the fetch list and of the reads, and of the rest. -/
theorem disablePosition_only (p : Position) (role : Role) (s : State) :
    (disablePosition p role s).pos p = { s.pos p with
      enabled := false, role := role, duck := 32768, queue := [], slot := none,
      mic := { (s.pos p).mic with vadHangover := 0, vad := false }, done := (s.pos p).done ++ cancelledRecords s p } ∧
    (∀ q, q ≠ p → (disablePosition p role s).pos q = s.pos q) ∧
    GivesUp (fun r => (s.pos p).slot.isSome && r == .prompt p) s (disablePosition p role s) ∧
    { disablePosition p role s with
      positions := s.positions, work := s.work, fetch := s.fetch, reads := s.reads, link := s.link } = s := by
  have hself := cancelAll_pos p s
  obtain ⟨hrest, hother, _⟩ := cancelAll_step p s
  have hgives := cancelAll_givesUp p s
  rw [disablePosition_eq]
  generalize cancelAll p s = u at hself hrest hother hgives ⊢
  refine ⟨?_, fun q hq => (State.pos_setPos_other u p q _ hq).trans (hother q hq), hgives,
    (congrArg (fun v : State => ({ v with work := s.work } : State)) hrest :)⟩
  show ((u.setPos p _).pos p) = _
  rw [State.pos_setPos_same, hself]
  rfl

/-- R28: the notices of a disable are those of its prompts. -/
theorem disablePosition_voices (p : Position) (role : Role) (s : State) :
    Voices (doneRaises s p) (disablePosition p role) s := by
  have hquiet : Voices [] (outOfService p role) (cancelAll p s) := .quiet rfl fun _ => rfl
  have h := (cancelAll_voices p s).comp hquiet
  rw [List.append_nil] at h
  exact h.congr fun x => disablePosition_eq p role _

section
variable {r : Request} {s : State} {p : Position} {on : Bool} {role : Role}

theorem positionSetEntry_passed (hpart : s.part = .running) (hon : onOff (byteAt r.body 1) = some on)
    (hrole : roleOf (byteAt r.body 2) = some role) (hp : activePosition s (byteAt r.body 0) = .ok p)
    (hfree : ¬ ((s.pos p).enabled = true ∧ (on = false ∨ role ≠ (s.pos p).role) ∧ engagedAnywhere s p = true))
    (hroom : ¬ ((s.pos p).enabled = false ∧ on = true ∧ s.work.ceiling < s.work.commitment + Config.positionCost)) :
    positionSetEntry r s = .ok
      { body := flag on ++ u8 role.code ++ u16 (positionPut p on role s).work.commitment, state := positionPut p on role s } := by
  simp only [positionSetEntry, whenRunning, bind, Except.bind, require_eq_ok hpart, hon, hrole, need_some, hp,
    require_eq_ok hfree, require_eq_ok hroom]
  rfl

theorem positionSetEntry_conflict (hpart : s.part = .running) (hon : onOff (byteAt r.body 1) = some on)
    (hrole : roleOf (byteAt r.body 2) = some role) (hp : activePosition s (byteAt r.body 0) = .ok p)
    (hengaged : (s.pos p).enabled = true ∧ (on = false ∨ role ≠ (s.pos p).role) ∧ engagedAnywhere s p = true) :
    positionSetEntry r s = .error .conflict := by
  simp only [positionSetEntry, whenRunning, bind, Except.bind, require_eq_ok hpart, hon, hrole, need_some, hp]
  rw [require, if_neg (not_not_intro hengaged)]

theorem positionSetEntry_noBudget (hpart : s.part = .running) (hon : onOff (byteAt r.body 1) = some on)
    (hrole : roleOf (byteAt r.body 2) = some role) (hp : activePosition s (byteAt r.body 0) = .ok p)
    (hfull : (s.pos p).enabled = false ∧ on = true ∧ s.work.ceiling < s.work.commitment + Config.positionCost) :
    positionSetEntry r s = .error .noBudget := by
  have hfree : ¬ ((s.pos p).enabled = true ∧ (on = false ∨ role ≠ (s.pos p).role) ∧ engagedAnywhere s p = true) := fun ⟨h, _⟩ =>
    absurd (h.symm.trans hfull.1) (by decide)
  simp only [positionSetEntry, whenRunning, bind, Except.bind, require_eq_ok hpart, hon, hrole, need_some, hp,
    require_eq_ok hfree]
  rw [require, if_neg (not_not_intro hfull)]

end

theorem engagedAnywhere_setLink (s : State) (x : Link) (p : Position) : engagedAnywhere (s.setLink x) p = engagedAnywhere s p := by
  unfold engagedAnywhere
  rw [projected_setLink]
  rfl

theorem roleOf_code (role : Role) : roleOf role.code = some role := by cases role <;> rfl

theorem Role.code_lt (role : Role) : role.code < 256 := by cases role <;> decide

section
variable {s : State} {r : Request} {rest : List Request} {p : Position} {on : Bool} {role : Role}

/-- R213: the fields of a POSITION_SET body, read back. -/
theorem positionSet_fields (hbody : r.body = u8 p.val ++ flag on ++ u8 role.code) (hp : p.val < activeCount s.straps) :
    onOff (byteAt r.body 1) = some on ∧ roleOf (byteAt r.body 2) = some role ∧ activePosition s (byteAt r.body 0) = .ok p := by
  have hfirst : byteAt r.body 0 = p.val := by rw [hbody]; exact byteAt_u8 (by omega)
  have hsecond : byteAt r.body 1 = if on then 1 else 0 := by rw [hbody]; exact byteAt_flag on
  have hthird : byteAt r.body 2 = role.code := by rw [hbody]; cases on <;> exact byteAt_u8 role.code_lt
  rw [hfirst, hsecond, hthird]
  exact ⟨onOff_flag on, roleOf_code role, activePosition_ok hp⟩

/-- R27: a POSITION_SET that ends no prompt is taken as positionPut says. -/
theorem positionSet_taken (hdue : HeadDue 0x19#8 r rest s) (hpart : s.part = .running)
    (hbody : r.body = u8 p.val ++ flag on ++ u8 role.code) (hp : p.val < activeCount s.straps) {u : State}
    (hfree : ¬ ((s.pos p).enabled = true ∧ (on = false ∨ role ≠ (s.pos p).role) ∧ engagedAnywhere s p = true))
    (hroom : ¬ ((s.pos p).enabled = false ∧ on = true ∧ s.work.ceiling < s.work.commitment + Config.positionCost))
    (hput : ∀ x : Link, positionPut p on role (s.setLink x) = u.setLink x) (hlink : u.link = s.link) :
    exec .positionSet s = .next (answered r rest .ok (flag on ++ u8 role.code ++ u16 u.work.commitment) u) := by
  obtain ⟨hon, hrole, hpos⟩ := positionSet_fields hbody hp
  refine row_accepted (entry := positionSetEntry) (fun _ => rfl) hdue (by rw [hbody]; cases on <;> rfl) (.inl (.inr hpart)) hlink
    fun x => ?_
  rw [positionSetEntry_passed (s := s.setLink x) hpart hon hrole hpos (by rw [engagedAnywhere_setLink]; exact hfree) hroom, hput]
  rfl

end

/-- Settles O29: the checks decide between the three effects of positionPut, and a disable ends the prompts through cancelAll. -/
theorem positionSetEnablesAndDisables : Obligations.PositionSetEnablesAndDisables := by
  unfold Obligations.PositionSetEnablesAndDisables
  refine ⟨fun s r rest p on role hdue hpart hbody hp => ?_, fun p s => ?_⟩
  · obtain ⟨hon, hrole, hpos⟩ := positionSet_fields hbody hp
    have hfit : bodyFits (0x19#8).toNat r.body = some true := by rw [hbody]; cases on <;> rfl
    refine ⟨fun hsame hidle => ?_, fun hoff hset hroom => ?_, fun hoff hset hfull => ?_, fun hset hoff hengaged => ?_,
      fun hset hoff hnow hnext => ?_⟩
    · have hput : ∀ x : Link, positionPut p on role (s.setLink x) = (s.setPos p { s.pos p with role := role }).setLink x :=
        fun x => if_pos hsame
      refine positionSet_taken hdue hpart hbody hp ?_ ?_ hput rfl
      · rintro ⟨henabled, hwhy, hengaged⟩
        have htrue : on = true := hsame ▸ henabled
        obtain ⟨hnow, hnext⟩ := hidle htrue (hwhy.resolve_left (by rw [htrue]; decide))
        rw [engagedAnywhere, hnow, hnext] at hengaged
        exact absurd hengaged (by decide)
      · rintro ⟨hoff, htrue, _⟩
        exact absurd (hoff.symm.trans (hsame.trans htrue)) (by decide)
    · subst hset
      have hput : ∀ x : Link, positionPut p true role (s.setLink x) = (enablePosition p role s).setLink x := fun x =>
        (if_neg (by rw [show ((s.setLink x).pos p).enabled = false from hoff]; decide)).trans rfl
      refine positionSet_taken hdue hpart hbody hp ?_ ?_ hput rfl
      · rintro ⟨hon', _⟩
        exact absurd (hon'.symm.trans hoff) (by decide)
      · rintro ⟨_, _, hlt⟩
        exact absurd hroom (Nat.not_le_of_lt hlt)
    · exact row_refused (entry := positionSetEntry) (fun _ => rfl) hdue hfit (.inl (.inr hpart)) fun x =>
        positionSetEntry_noBudget (s := s.setLink x) hpart hon hrole hpos ⟨hoff, hset, hfull⟩
    · refine row_refused (entry := positionSetEntry) (fun _ => rfl) hdue hfit (.inl (.inr hpart)) fun x =>
        positionSetEntry_conflict (s := s.setLink x) hpart hon hrole hpos ⟨hset, .inl hoff, ?_⟩
      rw [engagedAnywhere_setLink, engagedAnywhere]
      simpa using hengaged
    · subst hoff
      have hput : ∀ x : Link, positionPut p false role (s.setLink x) = disablePosition p role (s.setLink x) := fun x =>
        (if_neg (by rw [show ((s.setLink x).pos p).enabled = true from hset]; decide)).trans rfl
      have hcommitment : ∀ x : Link, (disablePosition p role (s.setLink x)).work =
          { s.work with commitment := s.work.commitment - 24 } := fun x => disablePosition_work p role (s.setLink x)
      have taken := row_voiced (c := .positionSet) (entry := positionSetEntry) (after := []) (f := disablePosition p role) (result := .ok)
        (body := flag false ++ u8 role.code ++ u16 (s.work.commitment - 24)) (fun _ => rfl) hdue hfit (.inl (.inr hpart))
        (disablePosition_voices p role s) fun x => by
          rw [positionSetEntry_passed (s := s.setLink x) hpart hon hrole hpos ?_ ?_, hput, hcommitment]
          · rintro ⟨_, _, hengaged⟩
            rw [engagedAnywhere_setLink, engagedAnywhere, hnow, hnext] at hengaged
            exact absurd hengaged (by decide)
          · rintro ⟨hoff, _⟩
            exact absurd (hset.symm.trans hoff) (by decide)
      rw [List.append_nil] at taken
      obtain ⟨hself, hother, ⟨hfetch, hreads⟩, hrest⟩ := disablePosition_only p role s
      exact ⟨_, taken, hself, hother, disablePosition_work p role s, hfetch, hreads,
        (congrArg (fun u : State => u.setLink s.link) hrest :), by rw [hdue.2.2.1]; rfl⟩
  · obtain ⟨hrest, hother, _⟩ := cancelAll_step p s
    obtain ⟨hfetch, hreads⟩ := cancelAll_givesUp p s
    exact ⟨cancelAll_pos p s, hother, (congrArg State.free hrest :), hfetch, hreads, (cancelAll_voices p s).link⟩

/-! ## STOP (R209, R210) -/

/-- R209: the sources stopped one after another. -/
theorem stopEach_src {ms : List Source} (hms : ms.Nodup) (s : State) (m : Source) :
    (ms.foldl (fun s k => stopSource k s) s).src m = if m ∈ ms then stoppedSource (s.src m) else s.src m := by
  induction ms generalizing s with
  | nil => rfl
  | cons k ks ih =>
    obtain ⟨hk, hks⟩ := List.nodup_cons.1 hms
    rw [List.foldl_cons, ih hks]
    by_cases hm : m = k
    · subst hm
      rw [if_neg hk, if_pos (List.mem_cons_self ..)]
      exact State.src_setSrc_same s m _
    · have hother : (stopSource k s).src m = s.src m := State.src_setSrc_other s k m _ hm
      simp only [hother, List.mem_cons, hm, false_or]

theorem stopSources_src (s : State) (m : Source) : (stopSources s).src m = stoppedSource (s.src m) := by
  rw [stopSources, stopEach_src (List.nodup_finRange 4), if_pos (List.mem_finRange m)]

theorem stopEach_givesUp (ms : List Source) (s : State) :
    GivesUp (fun r => ms.any fun m => r == .source m) s (ms.foldl (fun s m => stopSource m s) s) := by
  induction ms generalizing s with
  | nil => exact .none s
  | cons m ms ih =>
    have hone : GivesUp (· == .source m) s (stopSource m s) := .withdraw (.source m) (s.setSrc m (stoppedSource (s.src m)))
    exact (hone.trans (ih _)).congr fun r => rfl

theorem cancelEach_givesUp {ps : List Position} (hps : ps.Nodup) (s : State) :
    GivesUp (fun r => ps.any fun p => (s.pos p).slot.isSome && r == .prompt p) s (ps.foldl (fun s p => cancelAll p s) s) := by
  induction ps generalizing s with
  | nil => exact .none s
  | cons p ps ih =>
    obtain ⟨hp, hps'⟩ := List.nodup_cons.1 hps
    refine ((cancelAll_givesUp p s).trans (ih hps' _)).congr fun r => ?_
    have hrest : (ps.any fun q => ((cancelAll p s).pos q).slot.isSome && r == .prompt q) =
        ps.any fun q => (s.pos q).slot.isSome && r == .prompt q := by
      rw [Bool.eq_iff_iff, List.any_eq_true, List.any_eq_true]
      exact exists_congr fun q => and_congr_right fun hq => by rw [(cancelAll_step p s).2.1 q fun heq => hp (heq ▸ hq)]
    rw [hrest, List.any_cons]

/-- R103, R115: each position's PROMPT_DONEs, in the order of the positions. -/
theorem cancelEach_voices {ps : List Position} (hps : ps.Nodup) (s : State) :
    Voices (ps.flatMap (doneRaises s)) (fun u => ps.foldl (fun s p => cancelAll p s) u) s := by
  induction ps generalizing s with
  | nil => exact .quiet rfl fun _ => rfl
  | cons p ps ih =>
    obtain ⟨hp, hps'⟩ := List.nodup_cons.1 hps
    have hsame : ps.flatMap (doneRaises (cancelAll p s)) = ps.flatMap (doneRaises s) := List.flatMap_congr fun q hq => by
      rw [doneRaises, doneRaises, (cancelAll_step p s).2.1 q fun heq => hp (heq ▸ hq)]
    rw [List.flatMap_cons, ← hsame]
    exact (cancelAll_voices p s).comp (ih hps' _)

theorem tearDown_raises (s : State) : Voices ((List.finRange 16).flatMap (doneRaises s)) tearDown s := by
  have hstop : Voices [] stopSources s := .quiet (stopSources_frame s) (stopSources_link s)
  have hsame : (List.finRange 16).flatMap (doneRaises (stopSources s)) = (List.finRange 16).flatMap (doneRaises s) :=
    List.flatMap_congr fun p _ => by rw [doneRaises, doneRaises, stopSources_pos]
  have hcancel := cancelEach_voices (List.nodup_finRange 16) (stopSources s)
  rw [hsame] at hcancel
  have htables : Voices [] clearTables (cancelPrompts (stopSources s)) :=
    .quiet (clearTables_frame _) fun _ => clearTables_setLink _ _
  have h := ((hstop.comp hcancel).comp htables).congr (f := tearDown) fun _ => tearDown_eq _
  rwa [List.nil_append, List.append_nil] at h

theorem tearDown_givesUp (s : State) : GivesUp (tornDown s) s (tearDown s) := by
  have hstop : GivesUp _ s (stopSources s) := stopEach_givesUp (List.finRange 4) s
  have hcancel : GivesUp _ (stopSources s) (cancelPrompts (stopSources s)) :=
    cancelEach_givesUp (List.nodup_finRange 16) (stopSources s)
  have hboth := (hstop.trans hcancel).congr (h := tornDown s) fun r => by
    cases r with
    | source m => simp [tornDown]
    | prompt p =>
      rw [Bool.eq_iff_iff]
      simp [tornDown, stopSources_pos]
    | scan => simp [tornDown]
  rw [tearDown_eq]
  generalize cancelPrompts (stopSources s) = u at hboth ⊢
  exact hboth.same rfl rfl

/-- R209: what the teardown leaves of the rest. -/
theorem tearDown_rest (s : State) :
    { tearDown s with
      part := s.part, legs := s.legs, groups := s.groups, supervision := s.supervision, sources := s.sources,
      positions := s.positions, routing := s.routing, levels := s.levels, echo := s.echo, work := s.work, fetch := s.fetch,
      reads := s.reads, link := s.link } = s := by
  have hstop := stopSources_only s
  rw [tearDown_eq]
  generalize stopSources s = t at hstop
  have hcancel := (cancelPrompts_players t).rest
  generalize cancelPrompts t = u at hcancel
  have hboth : withSources s { u with positions := s.positions } = s :=
    ((congrArg (fun v : State => withSources s { v with positions := s.positions }) hcancel :)).trans
      (congrArg (fun v : State => ({ v with positions := s.positions } : State)) hstop :)
  exact (congrArg (fun v : State => ({ v with
    part := s.part, legs := s.legs, groups := s.groups, supervision := s.supervision, routing := s.routing, levels := s.levels,
    echo := s.echo, work := s.work } : State)) hboth :)

theorem tearDown_stage (s : State) (c : ChangeClass) :
    (tearDown s).stage c = { s.stage c with list := [], latch := false } := by
  have hstop := stopSources_only s
  rw [tearDown_eq]
  generalize stopSources s = t at hstop
  have hcancel := (cancelPrompts_players t).rest
  generalize cancelPrompts t = u at hcancel
  have hstage : u.stage c = s.stage c :=
    (congrArg (fun v : State => v.stage c) hcancel :).trans (congrArg (fun v : State => v.stage c) hstop :)
  rw [← hstage]
  cases c <;> rfl

theorem tearDown_src (s : State) (m : Source) : (tearDown s).src m = stoppedSource (s.src m) := by
  have hsrc := stopSources_src s m
  rw [tearDown_eq]
  generalize stopSources s = t at hsrc
  have hcancel := (cancelPrompts_players t).rest
  generalize cancelPrompts t = u at hcancel
  exact (congrArg (fun v : State => v.src m) hcancel :).trans hsrc

/-- R209: the record the teardown leaves of a position, with its prompts in the done list. -/
theorem tearDown_position (s : State) (p : Position) : (tearDown s).pos p = { s.pos p with
    enabled := false, group := none, duck := 32768, queue := [], slot := none,
    mic := { (s.pos p).mic with vadHangover := 0, vad := false }, done := (s.pos p).done ++ cancelledRecords s p } := by
  have hrecords : cancelledRecords (stopSources s) p = cancelledRecords s p := by
    rw [cancelledRecords, cancelledRecords, stopSources_pos, stopSources_frame]
  rw [tearDown_pos, cancelPrompts_pos, stopSources_pos, hrecords]
  rfl

theorem stopEntry_passed {r : Request} {s : State} (hpart : s.part = .running) :
    stopEntry r s = .ok
      { body := u8 (vcount LegRec.live s.legs) ++ u8 ((s.positions.toList.map promptsOf).sum) ++
          u8 (s.routing.list.length + s.levels.list.length + s.echo.list.length)
        state := tearDown s, raises := [(0, .partState .standby 0 .stop)] } := by
  have hsum : s.positions.toList.foldl (fun n r => n + promptsOf r) 0 = (s.positions.toList.map promptsOf).sum := by
    rw [List.sum_eq_foldl, List.foldl_map]
  simp only [stopEntry, whenRunning, bind, Except.bind, require_eq_ok hpart, hsum]
  rfl

/-- Settles O20: the entry tears down, ends every position's prompts in turn, and raises PART_STATE behind its reply. -/
theorem stopTearsDown : Obligations.StopTearsDown := by
  unfold Obligations.StopTearsDown
  intro s r rest hdue hbody
  have hfit : bodyFits (0x04#8).toNat r.body = some true := by rw [hbody]; rfl
  refine ⟨fun hpart => ?_, fun hpart => ?_⟩
  · refine row_refused (entry := stopEntry) (fun _ => rfl) hdue hfit (.inl (.inl hpart)) fun x => ?_
    have hnot : ¬ (s.setLink x).part = .running := by rw [show (s.setLink x).part = .standby from hpart]; decide
    simp only [stopEntry, whenRunning, bind, Except.bind, require, if_neg hnot]
  · have taken := row_voiced (c := .stop) (entry := stopEntry) (result := .ok)
      (body := u8 (vcount LegRec.live s.legs) ++ u8 ((s.positions.toList.map promptsOf).sum) ++
        u8 (s.routing.list.length + s.levels.list.length + s.echo.list.length))
      (after := [(0, .partState .standby 0 .stop)]) (fun _ => rfl) hdue hfit (.inl (.inr hpart))
      (tearDown_raises s) fun x => stopEntry_passed (s := s.setLink x) hpart
    obtain ⟨hfetch, hreads⟩ := tearDown_givesUp s
    have hpart' : (tearDown s).part = .standby := by rw [tearDown_eq]; rfl
    have hleg := tearDown_leg s
    have hmembers := tearDown_members s
    have hsup := tearDown_supervision s
    have hsrc := tearDown_src s
    have hpos := tearDown_position s
    have hstage := tearDown_stage s
    have hwork := tearDown_work s
    have hrest := tearDown_rest s
    generalize tearDown s = u at taken hfetch hreads hpart' hleg hmembers hsup hsrc hpos hstage hwork hrest
    refine ⟨_, taken, hpart', hleg, hmembers, hsup, hsrc, hpos, fun c => (State.stage_setLink _ _ c).trans (hstage c), hwork, hfetch,
      hreads, ?_, by rw [hdue.2.2.1]; rfl⟩
    exact (congrArg (fun v : State => v.setLink s.link) hrest :)

end Sys2Proof.Machine
end

section
/-! PROOF. The halves of a clip buffer (R87), and the prompts: PROMPT_CANCEL (R118), PROMPT_EXPIRE (R106) and the four steps of a
player at a frame start (R105 to R114, R14). -/

namespace Sys2Proof.Machine

/-! ## The halves of a clip buffer (R87, R89, R90) -/

theorem Half.samplesOf_eq_some {h : Half} {b : Nat} {v : List Sample} : h.samplesOf b = some v ↔ h = .full b v := by
  cases h with
  | full k w =>
    by_cases hk : k = b
    · subst hk; simp [Half.samplesOf]
    · simp [Half.samplesOf, hk]
  | _ => simp [Half.samplesOf]

theorem heldBlock_eq_some {h0 h1 : Half} {b : Nat} {v : List Sample} : heldBlock h0 h1 b = some v ↔ IsHeld h0 h1 b v := by
  rw [heldBlock, Option.or_eq_some_iff, Half.samplesOf_eq_some, Half.samplesOf_eq_some, IsHeld, Option.eq_none_iff_forall_ne_some]
  simp only [ne_eq, Half.samplesOf_eq_some, and_comm]

theorem heldBlock_eq_none {h0 h1 : Half} {b : Nat} : heldBlock h0 h1 b = none ↔ ∀ v, ¬ IsHeld h0 h1 b v := by
  rw [Option.eq_none_iff_forall_ne_some]
  simp only [ne_eq, heldBlock_eq_some]

theorem Half.leave_eq (b : Nat) (h : Half) : h.leave b = leftHalf b h := by
  cases h with
  | full k v =>
    by_cases hk : k = b
    · simp [Half.leave, Half.samplesOf, leftHalf, hk]
    · simp [Half.leave, Half.samplesOf, leftHalf, hk]
  | _ => rfl

theorem Half.land_eq (words : List Word16) (h : Half) : h.land (samplesIn words) = landedHalf words h := by cases h <;> rfl

theorem Half.isWaiting_iff {h : Half} : h.isWaiting = true ↔ ∃ k, h = .waiting k := by cases h <;> simp [Half.isWaiting]

theorem Half.isFailed_iff {h : Half} : h.isFailed = true ↔ ∃ k, h = .failed k := by cases h <;> simp [Half.isFailed]

theorem Half.isEmpty_iff {h : Half} : h.isEmpty = true ↔ h = .empty := by cases h <;> simp [Half.isEmpty]

/-- R89, R110: one of two halves waits. -/
theorem waits_iff {h0 h1 : Half} : (h0.isWaiting || h1.isWaiting) = true ↔ ∃ k, h0 = .waiting k ∨ h1 = .waiting k := by
  rw [Bool.or_eq_true, Half.isWaiting_iff, Half.isWaiting_iff, exists_or]

theorem blockItem_eq (r : Requester) (loc : Location) (b : Nat) : blockItem r loc b = clipItem r loc b := rfl

/-! ## A prompt's samples (R108, R109) -/

theorem movePointer_eq (next : Nat) (x : Playing) :
    movePointer next x = { x with
      index := next, phase := .first
      half0 := if next / 256 = x.index / 256 then x.half0 else leftHalf (x.index / 256) x.half0
      half1 := if next / 256 = x.index / 256 then x.half1 else leftHalf (x.index / 256) x.half1 } := by
  unfold movePointer
  split <;> simp only [Half.leave_eq]

theorem advancePrompt_moves (a : PlayRun) (hended : a.ended = false) : PromptMoves a.pl (advancePrompt a).pl (advancePrompt a).ended := by
  unfold PromptMoves advancePrompt
  dsimp only
  by_cases hphase : a.pl.loc.rate = .khz8 ∧ a.pl.phase = .first
  · rw [if_pos hphase, if_pos hphase]
    exact ⟨rfl, hended⟩
  · rw [if_neg hphase, if_neg hphase]
    by_cases hin : a.pl.index + 1 < a.pl.loc.length
    · rw [if_pos hin, if_pos hin]
      exact ⟨movePointer_eq _ _, hended⟩
    · rw [if_neg hin, if_neg hin]
      by_cases hpass : a.pl.prompt.played + 1 < a.pl.prompt.repeats
      · rw [if_pos hpass, endPass, if_pos hpass]
        exact ⟨movePointer_eq _ _, hended⟩
      · rw [if_neg hpass, endPass, if_neg hpass]
        exact ⟨rfl, rfl⟩

theorem advancePrompt_rest (a : PlayRun) : (advancePrompt a).outs = a.outs ∧ (advancePrompt a).missing = a.missing := by
  unfold advancePrompt endPass
  dsimp only
  repeat' split
  all_goals exact ⟨rfl, rfl⟩

theorem promptSample_outs (a : PlayRun) : ∃ v, (promptSample a).outs = v :: a.outs := by
  unfold promptSample
  split
  · exact ⟨_, rfl⟩
  · split
    · exact ⟨_, (advancePrompt_rest _).1⟩
    · exact ⟨_, rfl⟩

/-- R108: the run of a PLAYING prompt after n samples. -/
def promptRun (x : Playing) (n : Nat) : PlayRun :=
  (List.range n).foldl (fun a _ => promptSample a) { pl := x, outs := [], missing := false, ended := false }

theorem promptRun_succ (x : Playing) (n : Nat) : promptRun x (n + 1) = promptSample (promptRun x n) := by
  rw [promptRun, List.range_succ, List.foldl_append]
  rfl

/-- R108: the sample n of a PLAYING prompt. -/
def promptOut (x : Playing) (n : Nat) : Sample := (promptRun x (n + 1)).outs.headD 0

theorem promptRun_outs (x : Playing) (n : Nat) : (promptRun x n).outs.reverse = (List.range n).map (promptOut x) := by
  induction n with
  | zero => rfl
  | succ n ih =>
    obtain ⟨v, hv⟩ := promptSample_outs (promptRun x n)
    have hout : promptOut x n = v := by rw [promptOut, promptRun_succ, hv]; rfl
    rw [promptRun_succ, hv, List.reverse_cons, ih, List.range_succ, List.map_append, ← hout]
    rfl

/-- R108: from the first missing sample or the last play-through's end on the prompt gives 0 and stays. -/
theorem promptSample_idle {a : PlayRun} (h : a.missing = true ∨ a.ended = true) : promptSample a = { a with outs := 0 :: a.outs } := by
  have hidle : (a.ended || a.missing) = true := by rcases h with h | h <;> simp [h]
  rw [promptSample, if_pos hidle]

theorem promptSample_held {a : PlayRun} (hmissing : a.missing = false) (hended : a.ended = false) {w : List Sample}
    (hw : IsHeld a.pl.half0 a.pl.half1 (a.pl.index / 256) w) :
    promptSample a = advancePrompt { a with outs := w.getD (a.pl.index % 256) 0 :: a.outs } := by
  simp only [promptSample, hmissing, hended, Bool.or_false, Bool.false_eq_true, if_false, heldBlock_eq_some.2 hw]

theorem promptSample_missing {a : PlayRun} (hmissing : a.missing = false) (hended : a.ended = false)
    (hnone : ∀ w, ¬ IsHeld a.pl.half0 a.pl.half1 (a.pl.index / 256) w) :
    promptSample a = { a with outs := 0 :: a.outs, missing := true } := by
  simp only [promptSample, hmissing, hended, Bool.or_false, Bool.false_eq_true, if_false, heldBlock_eq_none.2 hnone]

/-- R108: a frame with a missing sample counts as one underrun. -/
def underrunCounted (a : PlayRun) : PlayRun :=
  if a.missing then
    { a with pl := { a.pl with prompt := { a.pl.prompt with underruns := satInc 65535 a.pl.prompt.underruns } } }
  else a

theorem underrunCounted_outs (a : PlayRun) : (underrunCounted a).outs = a.outs ∧ (underrunCounted a).ended = a.ended := by
  unfold underrunCounted
  split <;> exact ⟨rfl, rfl⟩

theorem underrunCounted_pl (a : PlayRun) : (underrunCounted a).pl = if a.missing = true then
    { a.pl with prompt := { a.pl.prompt with
      underruns := if a.pl.prompt.underruns < 65535 then a.pl.prompt.underruns + 1 else 65535 } }
    else a.pl := by
  unfold underrunCounted
  split <;> rfl

theorem promptPlay_eq (x : Playing) : promptPlay x = underrunCounted (promptRun x 64) := by
  unfold promptPlay underrunCounted promptRun
  rw [show Config.frameLen = 64 from rfl]

/-- R108, R109: the 64 samples of a PLAYING prompt, one after the other. -/
theorem promptPlay_plays (x : Playing) : PromptPlays x (promptPlay x).pl (promptPlay x).outs.reverse (promptPlay x).ended := by
  refine ⟨fun n => (promptRun x n).pl, fun n => (promptRun x n).missing, fun n => (promptRun x n).ended, promptOut x, rfl, rfl, rfl,
    fun n _ => ⟨fun hidle => ?_, fun hmissing hended => ⟨fun w hw => ?_, fun hnone => ?_⟩⟩, ?_, ?_, ?_⟩
  · have hstep := promptSample_idle (a := promptRun x n) hidle
    simp only [promptOut, promptRun_succ, hstep]
    exact ⟨rfl, trivial, trivial, trivial⟩
  · have hstep := promptSample_held (a := promptRun x n) hmissing hended hw
    have hmoves := advancePrompt_moves { promptRun x n with outs := w.getD ((promptRun x n).pl.index % 256) 0 :: (promptRun x n).outs } hended
    obtain ⟨houts, hmiss⟩ := advancePrompt_rest
      { promptRun x n with outs := w.getD ((promptRun x n).pl.index % 256) 0 :: (promptRun x n).outs }
    simp only [promptOut, promptRun_succ, hstep]
    exact ⟨by rw [houts]; rfl, hmiss.trans hmissing, hmoves⟩
  · have hstep := promptSample_missing (a := promptRun x n) hmissing hended hnone
    simp only [promptOut, promptRun_succ, hstep]
    exact ⟨rfl, trivial, trivial, hended⟩
  · rw [promptPlay_eq, ← promptRun_outs, (underrunCounted_outs _).1]
  · rw [promptPlay_eq, (underrunCounted_outs _).2]
  · rw [promptPlay_eq, underrunCounted_pl]

/-! ## A prompt's fetch (R110) -/

theorem fetched_fetches (p : Position) (x : Playing) : PromptFetches p x (fetched p x).1 (fetched p x).2 := by
  constructor
  · rintro (hwaits | hnext | ⟨h0, h1⟩)
    · unfold fetched
      split
      · exact ⟨rfl, rfl⟩
      · rw [if_pos (waits_iff.2 hwaits)]; exact ⟨rfl, rfl⟩
    · simp only [fetched, hnext, and_self]
    · unfold fetched
      split
      · exact ⟨rfl, rfl⟩
      · split
        · exact ⟨rfl, rfl⟩
        · rw [if_neg (mt Half.isEmpty_iff.1 h0), if_neg (mt Half.isEmpty_iff.1 h1)]
          exact ⟨rfl, rfl⟩
  · intro b k hwaits hnext next
    have hnot : ¬ (x.half0.isWaiting || x.half1.isWaiting) = true := mt waits_iff.1 hwaits
    refine ⟨fun h0 => ?_, fun h0 h1 => ?_⟩
    · simp only [fetched, hnext, if_neg hnot, if_pos (Half.isEmpty_iff.2 h0)]
      exact ⟨rfl, rfl⟩
    · simp only [fetched, hnext, if_neg hnot, if_neg (mt Half.isEmpty_iff.1 h0), if_pos (Half.isEmpty_iff.2 h1)]
      exact ⟨rfl, rfl⟩

theorem fetched_own (p : Position) (x : Playing) : ∀ it ∈ (fetched p x).2, it.requester = .prompt p := by
  unfold fetched
  split
  · exact nofun
  · split
    · exact nofun
    · split
      · exact fun it hit => by rw [List.mem_singleton.1 hit]; rfl
      · split
        · exact fun it hit => by rw [List.mem_singleton.1 hit]; rfl
        · exact nofun

/-! ## The playing-slot step (R107 to R110) -/

/-- R107, R114: at position p the slot has become this, with this ending and these items placed. -/
structure SlotDone (p : Position) (slot : Option Playing) (ends : Option (PromptRec × PromptResult)) (placed : List FetchItem)
    (s t : State) : Prop where
  pos : t.pos p = { s.pos p with
    slot := slot, done := (s.pos p).done ++ ends.toList.map (fun e => endedRec e.2 s.frame e.1) }
  fetch : t.fetch = (if ends.isSome then s.fetch.filter (fun it => it.requester != .prompt p) else s.fetch) ++ placed
  reads : t.reads = if ends.isSome then
    s.reads.map (fun x => if x.item.requester = .prompt p then { x with dropped := true } else x) else s.reads

section
variable {p : Position} {slot : Option Playing} {ends : Option (PromptRec × PromptResult)} {placed : List FetchItem} {s t : State}

theorem SlotDone.of_setSlot {z : Option Playing} (h : SlotDone p slot ends placed (s.setPos p { s.pos p with slot := z }) t) :
    SlotDone p slot ends placed s t := by
  obtain ⟨hpos, hfetch, hreads⟩ := h
  refine ⟨hpos.trans ?_, hfetch, hreads⟩
  rw [State.pos_setPos_same]
  rfl

theorem SlotDone.ended {x : Playing} (hslot : (s.pos p).slot = some x) (res : PromptResult) :
    SlotDone p none (some (x.prompt, res)) [] s (endSlot p res s) := by
  refine ⟨?_, ?_, ?_⟩
  · rw [endSlot_pos, hslot]
    rfl
  · simp only [endSlot, hslot]
    rw [finishPrompt_eq, List.append_nil]
    rfl
  · simp only [endSlot, hslot]
    rw [finishPrompt_eq]
    simp only [Option.isSome_some, if_true, withdraw, beq_iff_eq, raise]
    rfl

theorem SlotDone.fetches {x : Playing} (hslot : (s.pos p).slot = some x) :
    SlotDone p (some (fetched p x).1) none (fetched p x).2 s (placePrompt p s) := by
  rw [placePrompt_eq hslot]
  refine ⟨?_, rfl, rfl⟩
  rw [Option.toList_none, List.map_nil, List.append_nil]
  exact State.pos_setPos_same s p _

end

/-- R107 to R110: the step at the slot x has left this. -/
structure SlotTurn (ls : List Landed) (p : Position) (x : Playing) (slot : Option Playing) (ends : Option (PromptRec × PromptResult))
    (placed : List FetchItem) (s : State) (out : State × Option (List Sample × Nat)) : Prop where
  done : SlotDone p slot ends placed s out.1
  steps : SlotSteps p (landingFor (.prompt p) ls) x slot ends placed out.2
  own : ∀ it ∈ placed, it.requester = .prompt p
  free : slot = none → placed = []

/-- R107 to R110: what the prompt in the slot, once landed, does. -/
theorem playSlot_turn (p : Position) (l : Playing) (s : State) :
    ∃ slot ends placed, SlotDone p slot ends placed s (playSlot p l s).1 ∧
      (∀ it ∈ placed, it.requester = .prompt p) ∧ (slot = none → placed = []) ∧
      (l.prompt.state ≠ .playing → ends = none ∧ (playSlot p l s).2 = none ∧ ∃ y, slot = some y ∧ PromptFetches p l y placed) ∧
      (l.prompt.state = .playing → ∃ y v complete, PromptPlays l y v complete ∧ (playSlot p l s).2 = some (v, l.prompt.gain) ∧
        (complete = true → slot = none ∧ ends = some (y.prompt, .complete) ∧ placed = []) ∧
        (complete = false → ends = none ∧ ∃ z, slot = some z ∧ PromptFetches p y z placed)) := by
  have hself : ∀ z : Playing, ((s.setPos p { s.pos p with slot := some z }).pos p).slot = some z := fun z => by
    rw [State.pos_setPos_same]
  by_cases hplay : l.prompt.state = .playing
  · by_cases hend : (promptPlay l).ended = true
    · have hdone := (SlotDone.ended (hself (promptPlay l).pl) .complete).of_setSlot
      simp only [playSlot, if_pos hplay, hend, if_true]
      exact ⟨none, _, [], hdone, nofun, fun _ => rfl, fun h => absurd hplay h, fun _ =>
        ⟨_, _, _, promptPlay_plays l, rfl, fun _ => ⟨rfl, rfl, rfl⟩, fun h => absurd (h.symm.trans hend) (by decide)⟩⟩
    · have hdone := (SlotDone.fetches (hself (promptPlay l).pl)).of_setSlot
      simp only [playSlot, if_pos hplay, if_neg hend]
      exact ⟨_, none, _, hdone, fetched_own p _, nofun, fun h => absurd hplay h, fun _ =>
        ⟨_, _, _, promptPlay_plays l, rfl, fun h => absurd h hend, fun _ => ⟨rfl, _, rfl, fetched_fetches p _⟩⟩⟩
  · have hdone := (SlotDone.fetches (hself l)).of_setSlot
    simp only [playSlot, if_neg hplay]
    exact ⟨_, none, _, hdone, fetched_own p l, nofun, fun _ => ⟨rfl, trivial, _, rfl, fetched_fetches p l⟩, fun h => absurd h hplay⟩

theorem landPrompt_eq (words : List Word16) (x : Playing) :
    let z := { x with half0 := landedHalf words x.half0, half1 := landedHalf words x.half1 }
    let starts := x.prompt.state = .priming ∧ ∃ v, IsHeld z.half0 z.half1 0 v
    (starts → landPrompt words x = { z with prompt := { x.prompt with state := .playing } }) ∧
      (¬ starts → landPrompt words x = z) := by
  have hstarts : ∀ h0 h1 : Half, (heldBlock h0 h1 0).isSome = true ↔ ∃ v, IsHeld h0 h1 0 v := fun h0 h1 => by
    simp only [Option.isSome_iff_exists, heldBlock_eq_some]
  unfold landPrompt
  dsimp only
  rw [Half.land_eq, Half.land_eq]
  exact ⟨fun ⟨hstate, hheld⟩ => if_pos ⟨hstate, (hstarts _ _).2 hheld⟩, fun h => if_neg fun ⟨hstate, hheld⟩ =>
    h ⟨hstate, (hstarts _ _).1 hheld⟩⟩

theorem slotStep_turn (ls : List Landed) {p : Position} {s : State} {x : Playing} (hslot : (s.pos p).slot = some x) :
    ∃ slot ends placed, SlotTurn ls p x slot ends placed s (slotStep ls p s) := by
  by_cases hcancel : x.prompt.cancel = true
  · have hstep : slotStep ls p s = (endSlot p .cancelled s, none) := by simp [slotStep, hslot, hcancel]
    rw [hstep]
    exact ⟨none, _, [], SlotDone.ended hslot .cancelled,
      ⟨fun _ => ⟨rfl, rfl, rfl, rfl⟩, fun o h => absurd (h.symm.trans hcancel) (by decide),
        fun h => absurd (h.symm.trans hcancel) (by decide)⟩, nofun, fun _ => rfl⟩
  · have hplain : x.prompt.cancel = false := by simpa using hcancel
    cases hland : landingFor (.prompt p) ls with
    | none =>
      have hstep : slotStep ls p s = playSlot p x s := by simp [slotStep, hslot, hcancel, hland]
      obtain ⟨slot, ends, placed, hdone, hown, hfree, hwait, hplay⟩ := playSlot_turn p x s
      rw [hstep]
      refine ⟨slot, ends, placed, hdone, ?_, hown, hfree⟩
      rw [hland]
      exact ⟨fun h => absurd h hcancel, fun o _ h => absurd h nofun, fun _ _ => ⟨x, fun _ => rfl, nofun, hwait, hplay⟩⟩
    | some o =>
      cases o with
      | error o =>
        have hstep : slotStep ls p s = (endSlot p .clipFault s, none) := by simp [slotStep, hslot, hcancel, hland]
        rw [hstep]
        refine ⟨none, _, [], SlotDone.ended hslot .clipFault, ?_, nofun, fun _ => rfl⟩
        rw [hland]
        exact ⟨fun h => absurd h hcancel, fun _ _ _ => ⟨rfl, rfl, rfl, rfl⟩, fun _ h => absurd rfl (h o)⟩
      | ok words =>
        have hstep : slotStep ls p s = playSlot p (landPrompt words x) s := by simp [slotStep, hslot, hcancel, hland]
        obtain ⟨slot, ends, placed, hdone, hown, hfree, hwait, hplay⟩ := playSlot_turn p (landPrompt words x) s
        rw [hstep]
        refine ⟨slot, ends, placed, hdone, ?_, hown, hfree⟩
        rw [hland]
        refine ⟨fun h => absurd h hcancel, fun _ _ h => absurd h nofun, fun _ _ =>
          ⟨landPrompt words x, nofun, fun words' heq => ?_, hwait, hplay⟩⟩
        cases heq
        exact landPrompt_eq words x

/-! ## Expiry and selection (R106, R111 to R113) -/

/-- Of records with handles of their own, those whose handles none of a part of them has are the others. -/
theorem filter_all_ne {ks gone : List PromptRec} (hnodup : (ks.map PromptRec.handle).Nodup) (hgone : ∀ k ∈ gone, k ∈ ks) :
    ks.filter (fun x => gone.all fun k => x.handle != k.handle) = ks.filter (fun x => decide (x ∉ gone)) := by
  refine List.filter_congr fun x hx => ?_
  rw [Bool.eq_iff_iff, List.all_eq_true, decide_eq_true_iff]
  refine ⟨fun h hin => absurd (h x hin) (by simp), fun h k hk => ?_⟩
  rw [bne_iff_ne]
  exact fun heq => h (List.inj_on_of_nodup_map hnodup hx (hgone k hk) heq ▸ hk)

/-- R106: a record whose wait, as raised, has reached its deadline. -/
theorem expires_eq (k : PromptRec) : expires k = decide (k.deadline ≠ 0 ∧ k.deadline ≤ k.wait) := by
  rw [expires, Bool.eq_iff_iff, Bool.and_eq_true, bne_iff_ne, decide_eq_true_iff, decide_eq_true_iff]

theorem endPendings_fetch (p : Position) (res : PromptResult) (ks : List PromptRec) (s : State) :
    (endPendings p res ks s).fetch = s.fetch ∧ (endPendings p res ks s).reads = s.reads :=
  ⟨foldl_keeps (g := State.fetch) (f := fun u k => endPending p res k u) (fun u k => (endPending_fetch p res k u).1) _ _,
    foldl_keeps (g := State.reads) (f := fun u k => endPending p res k u) (fun u k => (endPending_fetch p res k u).2) _ _⟩

theorem expireStep_pos {p : Position} {s : State} (hnodup : ((s.pos p).queue.map PromptRec.handle).Nodup) :
    (expireStep p s).pos p = { s.pos p with
      queue := ((s.pos p).queue.map waited).filter (fun k => !expires k)
      done := (s.pos p).done ++ (((s.pos p).queue.map waited).filter expires).map (endedRec .expired s.frame) } := by
  have hwaited : (((s.pos p).queue.map waited).map PromptRec.handle).Nodup := by rwa [List.map_map]
  show (endPendings p .expired _ (s.setPos p { s.pos p with queue := (s.pos p).queue.map waited })).pos p = _
  rw [endPendings_pos, State.pos_setPos_same]
  dsimp only
  rw [filter_all_ne hwaited fun k hk => List.mem_of_mem_filter hk]
  have hleft : ((s.pos p).queue.map waited).filter (fun x => decide (x ∉ ((s.pos p).queue.map waited).filter expires)) =
      ((s.pos p).queue.map waited).filter (fun k => !expires k) := List.filter_congr fun x hx => by
    rw [Bool.eq_iff_iff, decide_eq_true_iff, List.mem_filter]
    simp [hx]
  rw [hleft]
  rfl

theorem expireStep_fetch (p : Position) (s : State) : (expireStep p s).fetch = s.fetch ∧ (expireStep p s).reads = s.reads :=
  endPendings_fetch p .expired _ _

/-- R112, R113: the head enters the free slot where its start condition holds and its clip is found. -/
def startHead (ix : Vector (List IndexEntry) 128) (p : Position) (s : State) : State :=
  match (s.pos p).queue with
  | [] => s
  | k :: _ =>
    if startHolds s p k then
      match lookupClip ix k.clip with
      | some e => primePrompt p k e.loc s
      | none => s
    else s

/-- R112: a head that would start but whose clip is gone. -/
def headGone (ix : Vector (List IndexEntry) 128) (p : Position) (s : State) (k : PromptRec) : Bool :=
  startHolds s p k && (lookupClip ix k.clip).isNone

/-- R112: a start condition asks nothing that the players move. -/
theorem startHolds_players {s t : State} (h : PlayersOnly s t) (p : Position) (k : PromptRec) :
    startHolds t p k = startHolds s p k := by
  obtain ⟨hrest, hpos⟩ := h
  have hself := hpos p
  have hmic : (t.pos p).mic = (s.pos p).mic := (congrArg PosRec.mic hself :)
  have hgroup : (t.pos p).group = (s.pos p).group := (congrArg PosRec.group hself :)
  have hleg : t.leg = s.leg := funext fun l => (congrArg (fun u : State => u.leg l) hrest :)
  have hmembers : t.members = s.members := funext fun g => (congrArg (fun u : State => u.members g) hrest :)
  simp only [startHolds, callersQuiet, hmic, hgroup, hleg, hmembers]

theorem headGone_players {s t : State} (h : PlayersOnly s t) (ix : Vector (List IndexEntry) 128) (p : Position) :
    headGone ix p t = headGone ix p s := funext fun k => by rw [headGone, headGone, startHolds_players h]

/-- R112, R113: the heads whose clips are gone end NOT_FOUND, and then the head may start. -/
theorem selectHead_eq (ix : Vector (List IndexEntry) 128) (p : Position) {n : Nat} {s : State}
    (hnodup : ((s.pos p).queue.map PromptRec.handle).Nodup) (hlen : (s.pos p).queue.length ≤ n) :
    selectHead ix p n s = startHead ix p (endPendings p .notFound ((s.pos p).queue.takeWhile (headGone ix p s)) s) := by
  induction n generalizing s with
  | zero =>
    have hnil : (s.pos p).queue = [] := List.length_eq_zero_iff.1 (Nat.le_zero.1 hlen)
    rw [hnil]
    show s = startHead ix p s
    rw [startHead, hnil]
  | succ n ih =>
    cases hq : (s.pos p).queue with
    | nil =>
      show _ = startHead ix p s
      simp only [selectHead, startHead, hq]
    | cons k ks =>
      by_cases hstart : startHolds s p k = true
      · cases hclip : lookupClip ix k.clip with
        | some e =>
          have hstop : headGone ix p s k = false := by simp [headGone, hclip]
          rw [List.takeWhile_cons, hstop]
          show _ = startHead ix p s
          simp only [selectHead, startHead, hq, hstart, hclip]
        | none =>
          have hgone : headGone ix p s k = true := by simp [headGone, hstart, hclip]
          rw [hq] at hnodup hlen
          have hqueue : ((endPending p .notFound k s).pos p).queue = ks := by
            rw [endPending_pos, hq]
            dsimp only
            rw [List.filter_cons_of_neg (by simp), List.filter_eq_self.2 fun x hx => ?_]
            rw [bne_iff_ne]
            exact fun heq => (List.nodup_cons.1 hnodup).1 (heq ▸ List.mem_map_of_mem hx)
          have hsame := headGone_players (endPending_step p .notFound k s).players ix p
          have hrest := ih (s := endPending p .notFound k s) (by rw [hqueue]; exact (List.nodup_cons.1 hnodup).2)
            (by rw [hqueue]; exact Nat.le_of_succ_le_succ hlen)
          rw [hqueue, hsame] at hrest
          rw [List.takeWhile_cons, hgone]
          simp only [selectHead, hq, hstart, hclip, if_true, hrest]
          rfl
      · have hstop : headGone ix p s k = false := by simp [headGone, hstart]
        rw [List.takeWhile_cons, hstop]
        show _ = startHead ix p s
        simp only [selectHead, startHead, hq, hstart, Bool.false_eq_true, if_false]

/-- R112: the queue once the heads whose clips are gone have left it. -/
theorem endGone_queue {p : Position} {s : State} (hnodup : ((s.pos p).queue.map PromptRec.handle).Nodup) (f : PromptRec → Bool) :
    ((endPendings p .notFound ((s.pos p).queue.takeWhile f) s).pos p).queue =
      (s.pos p).queue.drop ((s.pos p).queue.takeWhile f).length := by
  have hsplit := List.takeWhile_append_dropWhile (p := f) (l := (s.pos p).queue)
  rw [endPendings_pos]
  dsimp only
  generalize (s.pos p).queue.takeWhile f = gone at hsplit ⊢
  rw [← hsplit] at hnodup ⊢
  rw [filter_all_ne hnodup fun k hk => List.mem_append_left _ hk, List.drop_left, List.filter_append,
    List.filter_eq_nil_iff.2 fun x hx => by simpa using hx, List.nil_append]
  have hdisjoint := List.disjoint_of_nodup_append (List.Nodup.of_map _ hnodup)
  exact List.filter_eq_self.2 fun x hx => decide_eq_true fun hin => hdisjoint hin hx

/-- R112: a start condition, written out. -/
theorem startHolds_eq (s : State) (p : Position) (k : PromptRec) :
    startHolds s p k = (k.start == .now || (!(s.pos p).mic.vad && (match (s.pos p).group with
      | none => true
      | some g => (List.finRange 24).all (fun l => !((s.members g).contains (.leg l) && (s.leg l).ec.callerActive))))) := by
  have hcallers : callersQuiet s p = (match (s.pos p).group with
      | none => true
      | some g => (List.finRange 24).all (fun l => !((s.members g).contains (.leg l) && (s.leg l).ec.callerActive))) := by
    unfold callersQuiet
    cases (s.pos p).group with
    | none => rfl
    | some g =>
      rw [Bool.eq_iff_iff, List.all_eq_true, List.all_eq_true]
      refine ⟨fun h l _ => ?_, fun h m hm => ?_⟩
      · by_cases hin : Member.leg l ∈ s.members g
        · have hquiet : (s.leg l).ec.callerActive = false := by simpa using h _ hin
          rw [hquiet, Bool.and_false]
          rfl
        · rw [List.contains_eq_mem, decide_eq_false hin]
          rfl
      · cases m with
        | pos q => rfl
        | leg l =>
          have hl := h l (List.mem_finRange l)
          rw [List.contains_eq_mem, decide_eq_true hm, Bool.true_and] at hl
          exact hl
  rw [startHolds, hcallers]
  cases k.start <;> rfl

/-- R111: the state once the head has preempted the prompt in the slot, where it does. -/
def cutState (p : Position) (s : State) : State := if preempts s p then endSlot p .preempted s else s

/-- R112: the heads that end NOT_FOUND at this selection. -/
def goneAt (ix : Vector (List IndexEntry) 128) (p : Position) (s : State) : List PromptRec :=
  if preempts s p || (s.pos p).slot.isNone then (s.pos p).queue.takeWhile (headGone ix p s) else []

theorem preempts_slot {p : Position} {s : State} (h : preempts s p = true) : ∃ x, (s.pos p).slot = some x := by
  cases hslot : (s.pos p).slot with
  | some x => exact ⟨x, rfl⟩
  | none =>
    unfold preempts at h
    rw [hslot] at h
    cases hq : (s.pos p).queue <;> rw [hq] at h <;> cases h

/-- R111: what a preemption leaves. -/
theorem cutState_done (p : Position) (s : State) :
    SlotDone p (if preempts s p then none else (s.pos p).slot)
      (if preempts s p then (s.pos p).slot.map (fun x => (x.prompt, .preempted)) else none) [] s (cutState p s) := by
  unfold cutState
  by_cases h : preempts s p = true
  · obtain ⟨x, hx⟩ := preempts_slot h
    rw [if_pos h, if_pos h, if_pos h, hx]
    exact .ended hx .preempted
  · rw [if_neg h, if_neg h, if_neg h]
    refine ⟨?_, by simp, rfl⟩
    rw [Option.toList_none, List.map_nil, List.append_nil]

theorem cutState_players (p : Position) (s : State) : PlayersOnly s (cutState p s) := by
  unfold cutState
  split
  · exact (endSlot_step p .preempted s).players
  · exact .refl s

/-- R111, R112: the selection, its preemption and its endings done, starts the head where the slot is free. -/
theorem selectStep_eq (ix : Vector (List IndexEntry) 128) {p : Position} {s : State}
    (hnodup : ((s.pos p).queue.map PromptRec.handle).Nodup) (hlen : (s.pos p).queue.length ≤ 8) :
    let u := endPendings p .notFound (goneAt ix p s) (cutState p s)
    selectStep ix p s = if preempts s p || (s.pos p).slot.isNone then startHead ix p u else u := by
  have hpos := (cutState_done p s).pos
  have hqueue : ((cutState p s).pos p).queue = (s.pos p).queue := by rw [hpos]
  have hslot : ((cutState p s).pos p).slot = if preempts s p then none else (s.pos p).slot := by rw [hpos]
  have hhead := selectHead_eq ix p (n := 8) (s := cutState p s) (by rwa [hqueue]) (by rwa [hqueue])
  rw [hqueue, headGone_players (cutState_players p s)] at hhead
  have hstep : selectStep ix p s = if ((cutState p s).pos p).slot.isSome then cutState p s else selectHead ix p 8 (cutState p s) := rfl
  intro u
  by_cases hfree : (preempts s p || (s.pos p).slot.isNone) = true
  · have hnone : ((cutState p s).pos p).slot.isSome = false := by
      rw [hslot]
      cases hp : preempts s p with
      | true => rfl
      | false =>
        rw [hp, Bool.false_or] at hfree
        simpa using hfree
    rw [hstep, hnone, if_pos hfree, hhead]
    show _ = startHead ix p (endPendings p .notFound (goneAt ix p s) (cutState p s))
    rw [goneAt, if_pos hfree]
    rfl
  · have hkeep : preempts s p = false ∧ (s.pos p).slot.isNone = false := Bool.or_eq_false_iff.1 (Bool.eq_false_iff.2 hfree)
    have hsome : ((cutState p s).pos p).slot.isSome = true := by
      rw [hslot, hkeep.1]
      simpa using hkeep.2
    rw [hstep, hsome, if_neg hfree]
    show _ = endPendings p .notFound (goneAt ix p s) (cutState p s)
    rw [goneAt, if_neg hfree]
    rfl

/-- R113: a prompt that enters the slot. -/
def enteredSlot (k : PromptRec) (loc : Location) : Playing :=
  { prompt := { k with state := .priming }, loc := loc, half0 := .empty, half1 := .empty, index := 0, phase := .first,
    next := some (0, 1) }

/-- R113: the head enters the slot and places block 0. -/
theorem primePrompt_turn {p : Position} {s : State} {k : PromptRec} {ks : List PromptRec} (loc : Location)
    (hqueue : (s.pos p).queue = k :: ks) (hnodup : ((s.pos p).queue.map PromptRec.handle).Nodup) :
    ∃ y item, (primePrompt p k loc s).pos p = { s.pos p with queue := ks, slot := some y } ∧
      (primePrompt p k loc s).fetch = s.fetch ++ [item] ∧ (primePrompt p k loc s).reads = s.reads ∧
      PromptFetches p (enteredSlot k loc) y [item] := by
  have hrest : (s.pos p).queue.filter (fun x => x.handle != k.handle) = ks := by
    rw [hqueue] at hnodup ⊢
    rw [List.filter_cons_of_neg (by simp), List.filter_eq_self.2 fun x hx => ?_]
    rw [bne_iff_ne]
    exact fun heq => (List.nodup_cons.1 hnodup).1 (heq ▸ List.mem_map_of_mem hx)
  have hprime : primePrompt p k loc s =
      placePrompt p (s.setPos p { s.pos p with queue := ks, slot := some (enteredSlot k loc) }) := by
    rw [← hrest]
    rfl
  have hset : ((s.setPos p { s.pos p with queue := ks, slot := some (enteredSlot k loc) }).pos p).slot = some (enteredSlot k loc) := by
    rw [State.pos_setPos_same]
  obtain ⟨hpos, hitems, hreads⟩ := SlotDone.fetches hset
  rw [State.pos_setPos_same, Option.toList_none, List.map_nil, List.append_nil] at hpos
  rw [hprime]
  exact ⟨_, _, hpos, hitems, hreads, fetched_fetches p (enteredSlot k loc)⟩

/-- R112, R113: the start of the head, or none. -/
theorem startHead_turn (ix : Vector (List IndexEntry) 128) {p : Position} {s : State}
    (hnodup : ((s.pos p).queue.map PromptRec.handle).Nodup) :
    (∀ k e, (s.pos p).queue.head? = some k → startHolds s p k = true → lookupClip ix k.clip = some e →
      ∃ y item, (startHead ix p s).pos p = { s.pos p with queue := (s.pos p).queue.tail, slot := some y } ∧
        (startHead ix p s).fetch = s.fetch ++ [item] ∧ (startHead ix p s).reads = s.reads ∧
        PromptFetches p (enteredSlot k e.loc) y [item]) ∧
      ((∀ k, (s.pos p).queue.head? = some k → startHolds s p k = true → lookupClip ix k.clip = none) → startHead ix p s = s) := by
  cases hq : (s.pos p).queue with
  | nil =>
    refine ⟨fun k e h => absurd h nofun, fun _ => ?_⟩
    rw [startHead, hq]
  | cons k ks =>
    refine ⟨fun j e hj hstart hclip => ?_, fun h => ?_⟩
    · cases hj
      have hprime : startHead ix p s = primePrompt p k e.loc s := by simp only [startHead, hq, hstart, hclip, if_true]
      rw [hprime]
      exact primePrompt_turn e.loc hq hnodup
    · by_cases hstart : startHolds s p k = true
      · simp only [startHead, hq, hstart, h k rfl hstart, if_true]
      · simp only [startHead, hq, hstart, Bool.false_eq_true, if_false]

/-! ## The duck gain (R14) -/

theorem moveDuck_eq (target d : Nat) :
    moveDuck target d = if target < d then max target (d - 2048) else min target (d + 1024) := by
  unfold moveDuck
  split
  · rfl
  · split
    · rfl
    · omega

/-- R14: the duck target of a position of s with this in its slot. -/
def duckAim (s : State) (p : Position) (slot : Option Playing) : Nat :=
  min 32768 (min
    (match slot with | some x => if x.prompt.state = .playing then x.prompt.duck else 32768 | none => 32768)
    (match s.supervision.find? (fun k => k.agent == p) with
      | some k =>
        if k.mode = .whisper ∧ (s.pos k.supervisor).mic.vad = true ∧ (s.pos k.supervisor).enabled = true ∧
            (s.pos k.supervisor).muted = false ∧ ¬ (s.quietLevel = true ∧ s.quietMask.getLsbD k.supervisor.val = true) then
          k.coachDuck
        else 32768
      | none => 32768))

theorem duckTarget_players {s t : State} (h : PlayersOnly s t) (p : Position) :
    duckTarget t p = duckAim s p (t.pos p).slot := by
  obtain ⟨hrest, hpos⟩ := h
  have hagent : asAgent t p = s.supervision.find? (fun k => k.agent == p) :=
    (congrArg (fun u : State => asAgent u p) hrest :)
  have hmic : ∀ q, (t.pos q).mic = (s.pos q).mic := fun q => (congrArg PosRec.mic (hpos q) :)
  have havail : ∀ q, micAvailable t q = true ↔ (s.pos q).enabled = true ∧ (s.pos q).muted = false ∧
      ¬ (s.quietLevel = true ∧ s.quietMask.getLsbD q.val = true) := fun q => by
    have henabled : (t.pos q).enabled = (s.pos q).enabled := (congrArg PosRec.enabled (hpos q) :)
    have hmuted : (t.pos q).muted = (s.pos q).muted := (congrArg PosRec.muted (hpos q) :)
    have hlevel : t.quietLevel = s.quietLevel := (congrArg State.quietLevel hrest :)
    have hmask : quietBit t q = s.quietMask.getLsbD q.val := (congrArg (fun u : State => quietBit u q) hrest :)
    rw [micAvailable, henabled, hmuted, hlevel, hmask]
    simp only [Bool.and_eq_true, Bool.not_eq_true', Bool.and_eq_false_iff, and_assoc, not_and_or, Bool.not_eq_true]
  simp only [duckTarget, duckAim, hagent, hmic, havail] <;> rfl

/-! ## The player's frame (R105) -/

/-- R107 to R110: the slot's step, whether a prompt is in the slot or not. -/
theorem slotStep_cases (ls : List Landed) (p : Position) (s : State) :
    ∃ slot ends placed, SlotDone p slot ends placed s (slotStep ls p s).1 ∧
      ((s.pos p).slot = none → slot = none ∧ ends = none ∧ placed = [] ∧ (slotStep ls p s).2 = none) ∧
      (∀ x, (s.pos p).slot = some x → SlotSteps p (landingFor (.prompt p) ls) x slot ends placed (slotStep ls p s).2) ∧
      (∀ it ∈ placed, it.requester = .prompt p) ∧ (slot = none → placed = []) := by
  cases hslot : (s.pos p).slot with
  | some x =>
    obtain ⟨slot, ends, placed, hdone, hsteps, hown, hfree⟩ := slotStep_turn ls hslot
    refine ⟨slot, ends, placed, hdone, fun h => absurd h (Option.some_ne_none x), fun y hy => ?_, hown, hfree⟩
    rwa [← Option.some.inj hy]
  | none =>
    have hstep : slotStep ls p s = (s, none) := by simp [slotStep, hslot]
    rw [hstep]
    have hdone : SlotDone p none none [] s s := by
      refine ⟨?_, (List.append_nil _).symm, rfl⟩
      rw [Option.toList_none, List.map_nil, List.append_nil, ← hslot]
    exact ⟨none, none, [], hdone, fun _ => ⟨rfl, rfl, rfl, rfl⟩, fun x h => absurd h.symm (Option.some_ne_none x),
      fun it h => absurd h List.not_mem_nil, fun _ => rfl⟩

theorem slotStep_players (ls : List Landed) (p : Position) (s : State) : PlayersOnly s (slotStep ls p s).1 :=
  (slotStep_step ls p s).players

theorem expireStep_players (p : Position) (s : State) : PlayersOnly s (expireStep p s) := (expireStep_step p s).players

/-- R114: of the items placed by a player that then gives up its item, none is left. -/
theorem filter_own {p : Position} {placed : List FetchItem} (h : ∀ it ∈ placed, it.requester = .prompt p) :
    placed.filter (fun it => it.requester != .prompt p) = [] :=
  List.filter_eq_nil_iff.2 fun it hit => by simp [h it hit]

/-- R114: a read once dropped stays so. -/
theorem drop_drop (p : Position) (rs : List Read) :
    (rs.map (fun x => if x.item.requester = .prompt p then { x with dropped := true } else x)).map
      (fun x => if x.item.requester = .prompt p then { x with dropped := true } else x) =
      rs.map (fun x => if x.item.requester = .prompt p then { x with dropped := true } else x) := by
  rw [List.map_map]
  refine List.map_congr_left fun x _ => ?_
  simp only [Function.comp]
  by_cases h : x.item.requester = .prompt p <;> simp [h]

/-- R111: the ending a preemption makes. -/
def cutEnds (p : Position) (s : State) : Option (PromptRec × PromptResult) :=
  if preempts s p then (s.pos p).slot.map (fun x => (x.prompt, .preempted)) else none

/-- R111, R112: the state once the selection's endings are done. -/
def selectedState (ix : Vector (List IndexEntry) 128) (p : Position) (s : State) : State :=
  endPendings p .notFound (goneAt ix p s) (cutState p s)

theorem selectedState_players (ix : Vector (List IndexEntry) 128) (p : Position) (s : State) : PlayersOnly s (selectedState ix p s) :=
  (cutState_players p s).trans
    (PlayerStep.fold (f := fun u k => endPending p .notFound k u) (fun u k => endPending_step p .notFound k u) _ _).players

theorem goneAt_queue {ix : Vector (List IndexEntry) 128} {p : Position} {s : State}
    (hnodup : ((s.pos p).queue.map PromptRec.handle).Nodup) :
    ((selectedState ix p s).pos p).queue = (s.pos p).queue.drop (goneAt ix p s).length := by
  have hqueue : ((cutState p s).pos p).queue = (s.pos p).queue := by rw [(cutState_done p s).pos]
  rw [selectedState, goneAt]
  split
  · have h := endGone_queue (p := p) (s := cutState p s) (by rwa [hqueue]) (headGone ix p s)
    rwa [hqueue] at h
  · exact hqueue

/-- R111, R112: what the selection's endings leave. -/
theorem selectedState_turn (ix : Vector (List IndexEntry) 128) {p : Position} {s : State}
    (hnodup : ((s.pos p).queue.map PromptRec.handle).Nodup) :
    (selectedState ix p s).pos p = { s.pos p with
      queue := (s.pos p).queue.drop (goneAt ix p s).length
      slot := if preempts s p then none else (s.pos p).slot
      done := (s.pos p).done ++ (cutEnds p s).toList.map (fun e => endedRec e.2 s.frame e.1) ++
        (goneAt ix p s).map (endedRec .notFound s.frame) } ∧
    (selectedState ix p s).fetch =
      (if preempts s p then s.fetch.filter (fun it => it.requester != .prompt p) else s.fetch) ∧
    (selectedState ix p s).reads = if preempts s p then
      s.reads.map (fun x => if x.item.requester = .prompt p then { x with dropped := true } else x) else s.reads := by
  obtain ⟨hpos, hfetch, hreads⟩ := cutState_done p s
  have hframe : (cutState p s).frame = s.frame := (congrArg State.frame (cutState_players p s).rest :)
  have hsome : (if preempts s p then (s.pos p).slot.map (fun x => (x.prompt, PromptResult.preempted)) else none).isSome =
      preempts s p := by
    cases h : preempts s p with
    | false => rfl
    | true =>
      obtain ⟨x, hx⟩ := preempts_slot h
      rw [hx]
      rfl
  obtain ⟨hfetch', hreads'⟩ := endPendings_fetch p .notFound (goneAt ix p s) (cutState p s)
  rw [hsome] at hfetch hreads
  refine ⟨?_, ?_, hreads'.trans hreads⟩
  · have hqueue := goneAt_queue (ix := ix) hnodup
    rw [selectedState] at hqueue ⊢
    rw [endPendings_pos] at hqueue ⊢
    rw [← hqueue, hpos, hframe]
    rfl
  · exact hfetch'.trans (hfetch.trans (List.append_nil _))

/-- R112, R113, R14: what the head's start and the duck gain leave once the selection's endings are done, v being the state then. -/
theorem player_finishes (ix : Vector (List IndexEntry) 128) {p : Position} {s u : State} (hplayers : PlayersOnly s u)
    (hnodup : ((u.pos p).queue.map PromptRec.handle).Nodup) (hlen : (u.pos p).queue.length ≤ 8) :
    let v := selectedState ix p u
    let t := duckStep p (selectStep ix p u)
    (∀ k e, (v.pos p).slot = none → (v.pos p).queue.head? = some k → startHolds s p k = true → lookupClip ix k.clip = some e →
      ∃ y item, (t.pos p).slot = some y ∧ (t.pos p).queue = (v.pos p).queue.tail ∧ t.fetch = v.fetch ++ [item] ∧
        PromptFetches p (enteredSlot k e.loc) y [item]) ∧
    ((v.pos p).slot ≠ none ∨ (∀ k, (v.pos p).queue.head? = some k → startHolds s p k = false) →
      (t.pos p).slot = (v.pos p).slot ∧ (t.pos p).queue = (v.pos p).queue ∧ t.fetch = v.fetch) ∧
    (t.pos p).done = (v.pos p).done ∧ t.reads = v.reads ∧
    (t.pos p).duck = moveDuck (duckAim s p (t.pos p).slot) (v.pos p).duck := by
  intro v t
  have hvplayers : PlayersOnly s v := hplayers.trans (selectedState_players ix p u)
  have hvslot : (v.pos p).slot = if preempts u p then none else (u.pos p).slot := by
    rw [(selectedState_turn ix hnodup).1]
  have hvnodup : ((v.pos p).queue.map PromptRec.handle).Nodup := by
    rw [(selectedState_turn ix hnodup).1]
    exact hnodup.sublist ((List.drop_sublist _ _).map _)
  have hfree : (preempts u p || (u.pos p).slot.isNone) = true ↔ (v.pos p).slot = none := by
    rw [hvslot]
    cases preempts u p <;> simp
  have hsel : selectStep ix p u = if (v.pos p).slot = none then startHead ix p v else v := by
    rw [selectStep_eq ix hnodup hlen]
    simp only [hfree]
    rfl
  have htpos : (t.pos p) = { (selectStep ix p u).pos p with
      duck := moveDuck (duckTarget (selectStep ix p u) p) ((selectStep ix p u).pos p).duck } := State.pos_setPos_same _ _ _
  have htfetch : t.fetch = (selectStep ix p u).fetch := rfl
  have htreads : t.reads = (selectStep ix p u).reads := rfl
  have hstarts : ∀ k, startHolds v p k = startHolds s p k := startHolds_players hvplayers p
  obtain ⟨hprimes, hstays⟩ := startHead_turn ix (s := v) hvnodup
  have htarget : duckTarget (selectStep ix p u) p = duckAim s p (t.pos p).slot := by
    rw [duckTarget_players (hplayers.trans (selectStep_step ix p u).players), htpos]
  rw [htarget] at htpos
  generalize duckAim s p (t.pos p).slot = target at htpos
  rw [htpos, htfetch, htreads, hsel]
  refine ⟨fun k e hnone hhead hstart hclip => ?_, fun hstay => ?_, ?_⟩
  · obtain ⟨y, item, hpos, hfetch, _, hfetches⟩ := hprimes k e hhead ((hstarts k).trans hstart) hclip
    rw [if_pos hnone, hpos]
    exact ⟨y, item, rfl, rfl, hfetch, hfetches⟩
  · have hsame : (if (v.pos p).slot = none then startHead ix p v else v) = v := by
      split
      next hnone =>
        refine hstays fun k hhead hstart => absurd ((hstarts k).symm.trans hstart) ?_
        rw [hstay.resolve_left (not_not_intro hnone) k hhead]
        decide
      next => rfl
    rw [hsame]
    exact ⟨rfl, rfl, rfl⟩
  · split
    swap
    · exact ⟨rfl, rfl, rfl⟩
    by_cases hprime : ∃ k e, (v.pos p).queue.head? = some k ∧ startHolds v p k = true ∧ lookupClip ix k.clip = some e
    · obtain ⟨k, e, hhead, hstart, hclip⟩ := hprime
      obtain ⟨y, item, hpos, _, hreads, _⟩ := hprimes k e hhead hstart hclip
      rw [hpos]
      exact ⟨rfl, hreads, rfl⟩
    · rw [hstays fun k hhead hstart => Option.eq_none_iff_forall_ne_some.2 fun e hclip => hprime ⟨k, e, hhead, hstart, hclip⟩]
      exact ⟨rfl, rfl, rfl⟩

/-- R105 to R114, R14: the frame of an enabled position's player. -/
theorem playerFrame_takes (ix : Vector (List IndexEntry) 128) (ls : List Landed) (p : Position) (s : State)
    (hon : (s.pos p).enabled = true) (hnodup : ((s.pos p).queue.map PromptRec.handle).Nodup) (hlen : (s.pos p).queue.length ≤ 8) :
    let r := s.pos p
    let t := (playerFrame ix ls p s).1
    let raised := r.queue.map waited
    let waiting := raised.filter (fun k => !expires k)
    ∃ (slot : Option Playing) (ends : Option (PromptRec × PromptResult)) (placed : List FetchItem),
      (r.slot = none → slot = none ∧ ends = none ∧ placed = [] ∧ (playerFrame ix ls p s).2 = none) ∧
      (∀ x, r.slot = some x → SlotSteps p (landingFor (.prompt p) ls) x slot ends placed (playerFrame ix ls p s).2) ∧
      let cuts := match waiting.head?, slot with
        | some k, some x => k.level == 3 && decide (x.prompt.level < 3) && startHolds s p k
        | _, _ => false
      let gone := if cuts || slot.isNone then waiting.takeWhile (headGone ix p s) else []
      let left := waiting.drop gone.length
      let endings := (raised.filter expires).map (fun k => (k, PromptResult.expired)) ++ ends.toList ++
        (if cuts then (slot.map (fun x => (x.prompt, PromptResult.preempted))).toList else []) ++
        gone.map (fun k => (k, PromptResult.notFound))
      let kept := if ends.isSome || cuts then s.fetch.filter (fun it => it.requester != .prompt p) else s.fetch
      (∀ k e, cuts = true ∨ slot = none → left.head? = some k → startHolds s p k = true → lookupClip ix k.clip = some e →
        ∃ y item, (t.pos p).slot = some y ∧ (t.pos p).queue = left.tail ∧ t.fetch = kept ++ [item] ∧
          PromptFetches p (enteredSlot k e.loc) y [item]) ∧
      ((cuts = false ∧ slot ≠ none) ∨ (∀ k, left.head? = some k → startHolds s p k = false) →
        (t.pos p).slot = (if cuts then none else slot) ∧ (t.pos p).queue = left ∧
        t.fetch = kept ++ (if cuts then [] else placed)) ∧
      (t.pos p).done = r.done ++ endings.map (fun e => endedRec e.2 s.frame e.1) ∧
      t.reads = (if ends.isSome || cuts then
        s.reads.map (fun x => if x.item.requester = .prompt p then { x with dropped := true } else x) else s.reads) ∧
      (t.pos p).duck = moveDuck (duckAim s p (t.pos p).slot) r.duck := by
  intro r t raised waiting
  have hframe : playerFrame ix ls p s =
      (duckStep p (selectStep ix p (slotStep ls p (expireStep p s)).1), (slotStep ls p (expireStep p s)).2) := by
    rw [playerFrame, if_pos hon]
  obtain ⟨slot, ends, placed, hdone, hnone, hsteps, hown, hfree⟩ := slotStep_cases ls p (expireStep p s)
  have hexpired := expireStep_pos hnodup
  obtain ⟨hfetch1, hreads1⟩ := expireStep_fetch p s
  have hframe1 : (expireStep p s).frame = s.frame := (congrArg State.frame (expireStep_players p s).rest :)
  have hslot1 : ((expireStep p s).pos p).slot = r.slot := by rw [hexpired]
  have hplayers := (expireStep_players p s).trans (slotStep_players ls p (expireStep p s))
  rw [hslot1] at hnone hsteps
  have ht : t = duckStep p (selectStep ix p (slotStep ls p (expireStep p s)).1) := congrArg Prod.fst hframe
  rw [hframe]
  generalize (slotStep ls p (expireStep p s)).2 = out at hnone hsteps
  generalize (slotStep ls p (expireStep p s)).1 = u at hdone hplayers ht
  obtain ⟨hpos, hfetch, hreads⟩ := hdone
  rw [hexpired, hframe1] at hpos
  rw [hfetch1] at hfetch
  rw [hreads1] at hreads
  have hqueue : (u.pos p).queue = waiting := by rw [hpos]
  have huslot : (u.pos p).slot = slot := by rw [hpos]
  have hunodup : ((u.pos p).queue.map PromptRec.handle).Nodup := by
    rw [hqueue]
    have hraised : (raised.map PromptRec.handle).Nodup := by
      show ((r.queue.map waited).map _).Nodup
      rwa [List.map_map]
    exact hraised.sublist (List.filter_sublist.map _)
  have hulen : (u.pos p).queue.length ≤ 8 := by
    rw [hqueue]
    exact (List.length_filter_le _ _).trans ((List.length_map _).trans_le hlen)
  refine ⟨slot, ends, placed, hnone, hsteps, ?_⟩
  intro cuts gone left endings kept
  have hcuts : preempts u p = cuts := by
    unfold preempts
    rw [hqueue, huslot]
    show _ = (match waiting.head?, slot with
      | some k, some x => k.level == 3 && decide (x.prompt.level < 3) && startHolds s p k
      | _, _ => false)
    cases waiting with
    | nil => rfl
    | cons k ks =>
      cases slot with
      | none => rfl
      | some x => exact congrArg (_ && ·) (startHolds_players hplayers p k)
  have hgone : goneAt ix p u = gone := by
    rw [goneAt, hcuts, huslot, hqueue, headGone_players hplayers]
  obtain ⟨hvpos, hvfetch, hvreads⟩ := selectedState_turn ix hunodup
  obtain ⟨hprimes, hstays, htdone, htreads, htduck⟩ := player_finishes ix hplayers hunodup hulen
  rw [← ht] at hprimes hstays htdone htreads htduck
  have hufetch : (selectedState ix p u).fetch = kept ++ (if cuts then [] else placed) := by
    rw [hvfetch, hcuts, hfetch]
    show _ = (if ends.isSome || cuts then _ else _) ++ _
    cases cuts with
    | true =>
      simp only [Bool.or_true, if_true, List.append_nil, List.filter_append, filter_own hown]
      split
      · rw [List.filter_filter]
        simp only [Bool.and_self]
      · rfl
    | false => simp only [Bool.or_false, Bool.false_eq_true, if_false]
  have hendings : ((selectedState ix p u).pos p).done = r.done ++ endings.map (fun e => endedRec e.2 s.frame e.1) := by
    have hcutEnds : (cutEnds p u).toList = if cuts then (slot.map (fun x => (x.prompt, PromptResult.preempted))).toList else [] := by
      rw [cutEnds, hcuts, huslot]
      split <;> rfl
    have huframe : u.frame = s.frame := (congrArg State.frame hplayers.rest :)
    rw [hvpos, hcutEnds, hgone, huframe, hpos]
    show _ = r.done ++ List.map _ ((raised.filter expires).map (fun k => (k, PromptResult.expired)) ++ ends.toList ++ _ ++ _)
    simp only [List.map_append, List.map_map, List.append_assoc, Function.comp_def]
    rfl
  have hvslot : ((selectedState ix p u).pos p).slot = if cuts then none else slot := by rw [hvpos, hcuts, huslot]
  have hvqueue : ((selectedState ix p u).pos p).queue = left := by rw [hvpos, hgone, hqueue]
  rw [hvslot, hvqueue, hufetch] at hprimes hstays
  refine ⟨fun k e hwhy hhead hstart hclip => ?_, fun hwhy => ?_, htdone.trans hendings, ?_, ?_⟩
  · have hempty : (if cuts then none else slot) = none := by
      rcases hwhy with hwhy | hwhy
      · rw [if_pos hwhy]
      · rw [hwhy, ite_self]
    have hnothing : (if cuts then [] else placed) = [] := by
      rcases hwhy with hwhy | hwhy
      · rw [if_pos hwhy]
      · rw [hfree hwhy, ite_self]
    obtain ⟨y, item, hy, hq, hitem, hfetches⟩ := hprimes k e hempty hhead hstart hclip
    rw [hnothing, List.append_nil] at hitem
    exact ⟨y, item, hy, hq, hitem, hfetches⟩
  · refine hstays ?_
    rcases hwhy with ⟨hcut, hslot⟩ | hwhy
    · exact .inl (by rw [if_neg (by rw [hcut]; decide)]; exact hslot)
    · exact .inr hwhy
  · rw [htreads, hvreads, hcuts, hreads]
    cases cuts <;> cases ends
    · rfl
    · rfl
    · rfl
    · exact drop_drop p s.reads
  · rw [hvpos, hpos] at htduck
    exact htduck

/-! ## PROMPT_CANCEL and PROMPT_EXPIRE (R118, R106) -/

section
variable {r : Request} {s : State} {h : Handle} {p : Position}

theorem promptCancelEntry_pending {k : PromptRec} (hhandle : objectAt 128 r.body 0 = .ok h) (hat : pendingAt s h = some (p, k)) :
    promptCancelEntry r s = .ok
      { state := endPending p .cancelled k s, body := u8 PromptState.done.code ++ flag false ++ u8 h.val ++ u8 p.val } := by
  simp only [promptCancelEntry, bind, Except.bind, hhandle, hat]
  rfl

theorem promptCancelEntry_playing {pl : Playing} (hhandle : objectAt 128 r.body 0 = .ok h) (hnone : pendingAt s h = none)
    (hat : playingAt s h = some (p, pl)) :
    promptCancelEntry r s = .ok
      { state := s.setPos p { s.pos p with slot := some { pl with prompt := { pl.prompt with cancel := true } } }
        body := u8 pl.prompt.state.code ++ flag true ++ u8 h.val ++ u8 p.val } := by
  simp only [promptCancelEntry, bind, Except.bind, hhandle, hnone, hat]
  rfl

theorem promptCancelEntry_absent (hhandle : objectAt 128 r.body 0 = .ok h) (hnone : pendingAt s h = none)
    (hnone' : playingAt s h = none) : promptCancelEntry r s = .error .wrongState := by
  simp only [promptCancelEntry, bind, Except.bind, hhandle, hnone, hnone']

end

/-- R118, R106: PROMPT_CANCEL in its three cases, and PROMPT_EXPIRE. -/
theorem promptsEndByRequest (s : State) (h : Handle) (p : Position) :
    (∀ (r : Request) (rest : List Request) (k : PromptRec), HeadDue 0x39#8 r rest s → Serving s → r.body = u8 h.val →
      pendingAt s h = some (p, k) →
      exec .promptCancel s = .next (answered r rest .ok (u8 3 ++ u8 0 ++ u8 h.val ++ u8 p.val) (endPending p .cancelled k s))) ∧
    (∀ (r : Request) (rest : List Request) (pl : Playing), HeadDue 0x39#8 r rest s → Serving s → r.body = u8 h.val →
      pendingAt s h = none → playingAt s h = some (p, pl) →
      exec .promptCancel s = .next (answered r rest .ok (u8 pl.prompt.state.code ++ u8 1 ++ u8 h.val ++ u8 p.val)
        (s.setPos p { s.pos p with slot := some { pl with prompt := { pl.prompt with cancel := true } } }))) ∧
    (∀ (r : Request) (rest : List Request), HeadDue 0x39#8 r rest s → Serving s → r.body = u8 h.val →
      pendingAt s h = none → playingAt s h = none → exec .promptCancel s = .next (answered r rest .wrongState [] s)) ∧
    ∀ k : PromptRec, s.hold = none → pendingAt s h = some (p, k) → (s.pos p).enabled = true → k.deadline ≠ 0 →
      k.deadline ≤ k.wait + 1 → k.wait < 65535 → exec (.promptExpire h) s = .next (endPending p .expired (waited k) s) := by
  have hhandle : ∀ {r : Request}, r.body = u8 h.val → objectAt 128 r.body 0 = .ok h := fun hbody =>
    objectAt_ok (by rw [hbody, byteAt_u8 (by omega)])
  refine ⟨fun r rest k hdue hserving hbody hat => ?_, fun r rest pl hdue hserving hbody hnone hat => ?_,
    fun r rest hdue hserving hbody hnone hnone' => ?_, fun k hhold hat hon hdeadline hlate hwait => ?_⟩
  · have taken := row_voiced (c := .promptCancel) (entry := promptCancelEntry) (after := []) (result := .ok)
      (fun _ => rfl) hdue (by rw [hbody]; rfl) (.inl hserving) (endPending_voices p .cancelled k s) fun x =>
        promptCancelEntry_pending (s := s.setLink x) (hhandle hbody) hat
    have hreplies := (raiseAll_queues [(p.val, .promptDone ((s.pos p).done.length + 1))] s).2.1
    rw [taken, List.append_nil, answered, (endPending_voices p .cancelled k s).link, hreplies]
    rfl
  · exact row_accepted (u := s.setPos p { s.pos p with slot := some { pl with prompt := { pl.prompt with cancel := true } } })
      (entry := promptCancelEntry) (fun _ => rfl) hdue (by rw [hbody]; rfl) (.inl hserving) rfl fun x =>
        (promptCancelEntry_playing (s := s.setLink x) (hhandle hbody) hnone hat).trans rfl
  · exact row_refused (entry := promptCancelEntry) (fun _ => rfl) hdue (by rw [hbody]; rfl) (.inl hserving) fun x =>
      promptCancelEntry_absent (s := s.setLink x) (hhandle hbody) hnone hnone'
  · have hexpires : expires (waited k) = true := by
      rw [expires_eq, decide_eq_true_iff, waited, satInc, if_pos hwait]
      exact ⟨hdeadline, hlate⟩
    show Host.Outcome.next _ = _
    simp only [hat, hhold, hon, hexpires, and_self, if_true]

/-- Settles O45: a request or a deadline ends a prompt through endPending, and the player's frame is its four steps in turn. -/
theorem promptsEndByCancelOrDeadline : Obligations.PromptsEndByCancelOrDeadline := by
  unfold Obligations.PromptsEndByCancelOrDeadline
  refine ⟨fun s h p => ?_, fun ix ls p s hoff => ?_, fun ix ls p s hon hnodup hlen => ?_⟩
  · obtain ⟨hpending, hplaying, habsent, hexpire⟩ := promptsEndByRequest s h p
    refine ⟨fun r rest k hdue hserving hbody hat => ?_, hplaying, habsent, fun k hhold hat hon hdeadline hlate hwait => ?_⟩
    · rw [hpending r rest k hdue hserving hbody hat, endPending_eq]
    · rw [hexpire k hhold hat hon hdeadline hlate hwait, endPending_eq, waited, satInc, if_pos hwait]
  · rw [playerFrame, if_neg (by rw [hoff]; decide)]
  · obtain ⟨hrest, hother, hself, _, _⟩ := playerFrame_step ix ls p s
    have hplayers := (playerFrame_step ix ls p s).players
    have hlink := (playerFrame_ends ix ls p s).voices.link
    have hgone : headGone ix p s = fun k => startHolds s p k && (lookupClip ix k.clip).isNone := rfl
    have hlate : expires = fun k => decide (k.deadline ≠ 0 ∧ k.deadline ≤ k.wait) := funext expires_eq
    obtain ⟨slot, ends, placed, hnone, hsteps, hprimes, hstays, hdone, hreads, hduck⟩ :=
      playerFrame_takes ix ls p s hon hnodup hlen
    have hgrown := congrArg List.length hdone
    rw [List.length_append, List.length_map] at hgrown
    rw [hgrown, Nat.add_sub_cancel_left] at hlink
    have hpos := eq_of_withPlayer hself
    rw [hdone, hduck, moveDuck_eq] at hpos
    simp only [hgone, hlate, startHolds_eq] at hprimes hstays hlink hpos hreads
    intro r t raised late waiting starts
    refine ⟨slot, ends, placed, hnone, hsteps, ?_⟩
    intro cuts gone left endings kept target
    exact ⟨hprimes, hstays, hpos, hother, hreads, hlink, hrest⟩

end Sys2Proof.Machine
end

section
/-! PROOF. The six steps of a source at a frame start, each in the words of its rule (R83 to R91, R94, R95). -/

namespace Sys2Proof.Machine

/-! ## Landing and the pending command (R89, R94, R95) -/

theorem Half.fail_waiting {h : Half} {k : Nat} (hk : h = .waiting k) : h.fail = .failed k := by rw [hk]; rfl

theorem Half.fail_other {h : Half} (hk : ∀ k, h ≠ .waiting k) : h.fail = h := by
  cases h with
  | waiting k => exact absurd rfl (hk k)
  | empty => rfl
  | failed => rfl
  | full => rfl

theorem landedSource_lands (ls : List Landed) (m : Source) (r : SourceRec) :
    SourceLands (landingFor (.source m) ls) r (landedSource ls m r).1 (landedSource ls m r).2 := by
  have hwaits : (r.kind = .clip ∧ r.state ≠ .stopped ∧ (r.half0.isWaiting || r.half1.isWaiting) = true) ↔
      r.kind = .clip ∧ r.state ≠ .stopped ∧ ∃ k, r.half0 = .waiting k ∨ r.half1 = .waiting k := by rw [waits_iff]
  refine ⟨fun h => ?_, fun words hw hok => ?_, fun o hw herr => ?_⟩
  · unfold landedSource
    rcases h with h | h
    · rw [if_neg (mt hwaits.1 h)]
      exact ⟨rfl, rfl⟩
    · simp only [h]
      split <;> exact ⟨rfl, rfl⟩
  · simp only [landedSource, if_pos (hwaits.2 hw), hok, Half.land_eq]
    exact ⟨trivial, trivial⟩
  · simp only [landedSource, if_pos (hwaits.2 hw), herr]
    exact ⟨trivial, r.half0.fail, r.half1.fail, rfl, fun _ => Half.fail_waiting, Half.fail_other, fun _ => Half.fail_waiting,
      Half.fail_other⟩

theorem obeyedSource_obeys (a : SourceRec) : SourceObeys a (obeyedSource a) := by
  unfold obeyedSource
  refine ⟨fun h => by rw [h], fun h => by rw [h]; rfl, fun loc h => ?_⟩
  simp only [h, startedSource]
  exact ⟨fun hk => by rw [hk], fun hk => by rw [hk], fun hk => by rw [hk]⟩

/-! ## The entry test (R83, R89) -/

theorem pointerHeld_iff {r : SourceRec} : pointerHeld r = true ↔ ∃ v, IsHeld r.half0 r.half1 (r.index / 256) v := by
  simp only [pointerHeld, Option.isSome_iff_exists, heldBlock_eq_some]

theorem fails_none_iff {h0 h1 : Half} :
    ((!h0.isFailed) = true ∧ (!h1.isFailed) = true) ↔ ∀ k, h0 ≠ .failed k ∧ h1 ≠ .failed k := by
  simp only [Bool.not_eq_true', Bool.eq_false_iff, Ne, Half.isFailed_iff, not_exists, forall_and]

theorem entryHolds_iff (b : SourceRec) : entryHolds b = true ↔
    (b.kind = .stream ∧ (b.state = .priming ∨ b.state = .starved) ∧ 512 ≤ b.ring.length) ∨
    (b.kind = .clip ∧ (∃ v, IsHeld b.half0 b.half1 (b.index / 256) v) ∧
      (b.state = .priming ∨
        (b.state = .starved ∧ b.retrying = false ∧ ∀ k, b.half0 ≠ .failed k ∧ b.half1 ≠ .failed k))) := by
  have hclip : (pointerHeld b && !b.half0.isFailed && !b.half1.isFailed && !b.retrying) = true ↔
      (∃ v, IsHeld b.half0 b.half1 (b.index / 256) v) ∧ b.retrying = false ∧
        ∀ k, b.half0 ≠ .failed k ∧ b.half1 ≠ .failed k := by
    rw [← pointerHeld_iff, ← fails_none_iff, ← Bool.not_eq_true']
    simp only [Bool.and_eq_true]
    tauto
  unfold entryHolds
  cases hkind : b.kind <;> cases hstate : b.state <;>
    simp only [decide_eq_true_eq, pointerHeld_iff, hclip, reduceCtorEq, false_and, and_false, or_false, false_or, true_and,
      and_true, or_true]

theorem enterSource_enters (b : SourceRec) : SourceEnters b (enterSource b) := by
  unfold enterSource
  exact ⟨fun h => if_pos ((entryHolds_iff b).2 h), fun h => if_neg (mt (entryHolds_iff b).1 h)⟩

/-! ## The raw samples (R85, R90, R91) -/

/-- A run that forms one sample from each of the states it goes through. -/
theorem foldl_formed {α : Type} (g : α → α) (v : α → Int) (r : α) (n : Nat) :
    (List.range n).foldl (fun (a : α × List Int) _ => (g a.1, v a.1 :: a.2)) (r, []) =
      (g^[n] r, ((List.range n).map fun k => v (g^[k] r)).reverse) := by
  induction n with
  | zero => rfl
  | succ n ih =>
    rw [List.range_succ, List.foldl_append, ih, List.map_append, List.reverse_append, Function.iterate_succ_apply']
    rfl

theorem getD_map_range {f : Nat → Int} {n k : Nat} (h : n < k) : ((List.range k).map f).getD n 0 = f n := by
  rw [List.getD_eq_getElem?_getD, List.getElem?_map, List.getElem?_range h]
  rfl

/-- R90: the record after one output sample of a clip source, and that sample. -/
def clipNext (loc : Location) (r : SourceRec) : SourceRec := (clipSample loc (r, [])).1

def clipRaw (loc : Location) (r : SourceRec) : Int := (clipSample loc (r, [])).2.headD 0

theorem clipSample_held {loc : Location} {r : SourceRec} {v : List Sample} (xs : List Sample) (hstate : r.state = .playing)
    (hheld : heldBlock r.half0 r.half1 (r.index / 256) = some v) :
    clipSample loc (r, xs) = (advanceClip loc r, v.getD (r.index % 256) 0 :: xs) := by
  simp only [clipSample, hstate, hheld]

theorem clipSample_missing {loc : Location} {r : SourceRec} (xs : List Sample)
    (h : r.state ≠ .playing ∨ heldBlock r.half0 r.half1 (r.index / 256) = none) :
    clipSample loc (r, xs) = ({ r with state := .starved }, 0 :: xs) := by
  rcases h with h | h
  · cases hstate : r.state <;> simp only [clipSample, hstate]
    exact absurd hstate h
  · cases hstate : r.state <;> simp only [clipSample, hstate, h]

theorem clipSample_eq (loc : Location) (a : SourceRec × List Sample) :
    clipSample loc a = (clipNext loc a.1, clipRaw loc a.1 :: a.2) := by
  obtain ⟨r, xs⟩ := a
  by_cases h : r.state ≠ .playing ∨ heldBlock r.half0 r.half1 (r.index / 256) = none
  · simp only [clipNext, clipRaw, clipSample_missing _ h, List.headD_cons]
  · rw [not_or, not_not] at h
    obtain ⟨v, hv⟩ := Option.ne_none_iff_exists'.1 h.2
    simp only [clipNext, clipRaw, clipSample_held _ h.1 hv, List.headD_cons]

theorem advanceClip_eq (loc : Location) (r : SourceRec) : advanceClip loc r = sourceMoved loc r := by
  unfold advanceClip sourceMoved
  dsimp only
  generalize (if r.index + 1 < loc.length then r.index + 1 else 0) = next
  by_cases hphase : loc.rate = .khz8 ∧ r.phase = .first
  · rw [if_pos hphase, if_pos hphase]
  · rw [if_neg hphase, if_neg hphase]
    by_cases hblock : next / 256 = r.index / 256
    · simp only [if_pos hblock]
    · simp only [if_neg hblock, Half.leave_eq]

theorem clipPlay_eq {loc : Location} {r : SourceRec} (h : r.loc = some loc) :
    clipPlay r = ((clipNext loc)^[64] r, (List.range 64).map (fun n => clipRaw loc ((clipNext loc)^[n] r)),
      if ((clipNext loc)^[64] r).state = .starved then some .late else none) := by
  simp only [clipPlay, h]
  rw [show Config.frameLen = 64 from rfl, funext fun a => funext fun _ => clipSample_eq loc a, foldl_formed,
    List.reverse_reverse]

/-- R91: a tone source's record with its phase moved by one sample. -/
def toneNext (r : SourceRec) : SourceRec := { r with tonePhase := (r.tonePhase + r.step) % 65536 }

theorem tonePlay_sounding {r : SourceRec} (h : r.cadence < r.onFrames) :
    tonePlay r = (stepCadence (toneNext^[64] r),
      (List.range 64).map (fun n => ((toneNext^[n] r).amplitude * triangle (toneNext^[n] r).tonePhase + 16384) / 32768), none) := by
  have hsample : ∀ a : SourceRec × List Sample,
      toneSample a = (toneNext a.1, ((a.1.amplitude : Int) * triangle a.1.tonePhase + 16384) / 32768 :: a.2) := fun a => rfl
  simp only [tonePlay, if_pos h]
  rw [show Config.frameLen = 64 from rfl, funext fun a => funext fun _ => hsample a, foldl_formed toneNext
    (fun r => ((r.amplitude : Int) * triangle r.tonePhase + 16384) / 32768), List.reverse_reverse]

theorem toneNext_iterate (r : SourceRec) (n : Nat) :
    toneNext^[n] r = { r with tonePhase := (toneNext^[n] r).tonePhase } := by
  induction n with
  | zero => rfl
  | succ n ih =>
    rw [Function.iterate_succ_apply']
    generalize toneNext^[n] r = x at ih ⊢
    rw [ih]
    rfl

theorem toneNext_amplitude (r : SourceRec) (n : Nat) : (toneNext^[n] r).amplitude = r.amplitude := by rw [toneNext_iterate]

theorem toneNext_level (r : SourceRec) (n : Nat) : (toneNext^[n] r).level = r.level := by rw [toneNext_iterate]

theorem toneNext_phase (r : SourceRec) (n : Nat) :
    (toneNext^[n + 1] r).tonePhase = ((toneNext^[n] r).tonePhase + r.step) % 65536 := by
  rw [Function.iterate_succ_apply', toneNext]
  dsimp only
  rw [toneNext_iterate r n]

theorem silence_getD (n : Nat) : silence.getD n 0 = 0 := by
  rw [silence, List.getD_eq_getElem?_getD, List.getElem?_replicate]
  split <;> rfl

theorem produce_idle {r : SourceRec} (h : r.state ≠ .playing) : produce r = (r, silence, none) := by
  cases hstate : r.state <;> cases hkind : r.kind <;> simp only [produce, hstate, hkind] <;> exact absurd hstate h

theorem produce_stream {r : SourceRec} (hstate : r.state = .playing) (hkind : r.kind = .stream) : produce r = streamTake r := by
  simp only [produce, hstate, hkind]

theorem produce_clip {r : SourceRec} (hstate : r.state = .playing) (hkind : r.kind = .clip) : produce r = clipPlay r := by
  simp only [produce, hstate, hkind]

theorem produce_tone {r : SourceRec} (hstate : r.state = .playing) (hkind : r.kind = .tone) : produce r = tonePlay r := by
  simp only [produce, hstate, hkind]

theorem length_padTo (n : Nat) (xs : List Int) : (padTo n xs).length = n := by
  rw [padTo, List.length_append, List.length_take, List.length_replicate]
  omega

theorem getD_take {xs : List Int} {n k : Nat} (h : n < k) : (xs.take k).getD n 0 = xs.getD n 0 := by
  rw [List.getD_eq_getElem?_getD, List.getD_eq_getElem?_getD, List.getElem?_take_of_lt h]

theorem getD_padTo {xs : List Int} {n k : Nat} (h : n < k) : (padTo k xs).getD n 0 = xs.getD n 0 := by
  by_cases hn : n < xs.length
  · rw [padTo, List.getD_append _ _ _ _ (by rw [List.length_take]; omega), getD_take h]
  · rw [padTo, List.getD_append_right _ _ _ _ (by rw [List.length_take]; omega), List.getD_eq_default xs 0 (by omega),
      List.getD_eq_getElem?_getD, List.getElem?_replicate]
    split <;> rfl

theorem length_streamTake (r : SourceRec) : (streamTake r).2.1.length = 64 := by
  unfold streamTake
  split
  · next h => exact List.length_take.trans (by omega)
  · exact length_padTo 64 _

theorem length_produce (r : SourceRec) : (produce r).2.1.length = 64 := by
  by_cases hstate : r.state = .playing
  · cases hkind : r.kind
    case stream =>
      rw [produce_stream hstate hkind]
      exact length_streamTake r
    case clip =>
      rw [produce_clip hstate hkind]
      cases hloc : r.loc with
      | none =>
        simp only [clipPlay, hloc]
        exact List.length_replicate
      | some loc =>
        rw [clipPlay_eq hloc]
        exact List.length_map _ |>.trans List.length_range
    case tone =>
      rw [produce_tone hstate hkind]
      by_cases hon : r.cadence < r.onFrames
      · rw [tonePlay_sounding hon]
        exact List.length_map _ |>.trans List.length_range
      · simp only [tonePlay, if_neg hon]
        exact List.length_replicate
  · rw [produce_idle hstate]
    exact List.length_replicate

theorem streamTake_raw {r : SourceRec} {n : Nat} (h : n < 64) : (streamTake r).2.1.getD n 0 = r.ring.getD n 0 := by
  unfold streamTake
  split
  · exact getD_take h
  · exact getD_padTo h

theorem clip_forms {c : SourceRec} {loc : Location} (hloc : c.loc = some loc) :
    ∃ run : Nat → SourceRec, run 0 = c ∧ (clipPlay c).1 = run 64 ∧
      (clipPlay c).2.2 = (if (clipPlay c).1.state = .starved then some .late else none) ∧
      ∀ n < 64,
        let held := IsHeld (run n).half0 (run n).half1 ((run n).index / 256)
        (∀ v, (run n).state = .playing → held v →
          (clipPlay c).2.1.getD n 0 = v.getD ((run n).index % 256) 0 ∧ run (n + 1) = sourceMoved loc (run n)) ∧
        ((run n).state ≠ .playing ∨ (∀ v, ¬ held v) →
          (clipPlay c).2.1.getD n 0 = 0 ∧ run (n + 1) = { run n with state := .starved }) := by
  have hplay := clipPlay_eq hloc
  refine ⟨fun n => (clipNext loc)^[n] c, rfl, ?_, ?_, fun n hn => ?_⟩
  · rw [hplay]
  · rw [hplay]
  dsimp only
  rw [congrArg (fun x => x.2.1) hplay, getD_map_range hn, Function.iterate_succ_apply']
  generalize (clipNext loc)^[n] c = r
  refine ⟨fun v hstate hheld => ?_, fun h => ?_⟩
  · rw [clipRaw, clipNext, clipSample_held [] hstate (heldBlock_eq_some.2 hheld)]
    exact ⟨rfl, advanceClip_eq loc r⟩
  · rw [clipRaw, clipNext, clipSample_missing [] (h.imp_right heldBlock_eq_none.2)]
    exact ⟨rfl, rfl⟩

theorem produce_forms (c : SourceRec) :
    SourceForms c (produce c).1 (fun n => (produce c).2.1.getD n 0) (produce c).2.2 := by
  refine ⟨fun hstate => ?_, fun hstate hkind => ?_, fun loc hstate hkind hloc => ?_, fun hstate hkind => ?_⟩
  · rw [produce_idle hstate]
    exact ⟨rfl, fun n _ => silence_getD n, rfl⟩
  · rw [produce_stream hstate hkind]
    refine ⟨fun n hn => streamTake_raw hn, fun hring => ?_, fun hring => ?_⟩
    · rw [streamTake, if_pos hring]
      exact ⟨rfl, rfl⟩
    · rw [streamTake, if_neg (by omega)]
      exact ⟨rfl, rfl⟩
  · rw [produce_clip hstate hkind]
    exact clip_forms hloc
  · rw [produce_tone hstate hkind]
    by_cases hon : c.cadence < c.onFrames
    · rw [tonePlay_sounding hon]
      refine ⟨rfl, fun h => absurd hon (by omega), fun _ => ⟨fun n => (toneNext^[n] c).tonePhase, rfl, toneNext_phase c, ?_, ?_⟩⟩
      · dsimp only
        rw [toneNext_iterate c 64]
        rfl
      · intro n hn
        dsimp only
        rw [getD_map_range hn]
        rw [toneNext_amplitude]
        rfl
    · simp only [tonePlay, if_neg hon]
      exact ⟨trivial, fun _ => ⟨fun n _ => silence_getD n, rfl⟩, fun h => absurd h hon⟩

/-! ## The low mark and the item placed (R86, R88) -/

theorem isLow_clip {d : SourceRec} (h : d.kind ≠ .stream) : isLow d = false := decide_eq_false fun hlow => h hlow.1

theorem placedSource_other (m : Source) {d : SourceRec} (h : d.kind ≠ .clip) : placedSource m d = (d, []) := by
  cases hkind : d.kind <;> simp only [placedSource, hkind]
  exact absurd hkind h

theorem placedSource_stopped (m : Source) {d : SourceRec} (h : d.state = .stopped) : placedSource m d = (d, []) := by
  cases hkind : d.kind <;> simp only [placedSource, hkind, h]

theorem placedSource_unplaced (m : Source) {d : SourceRec}
    (h : d.state = .stopped ∨ d.loc = none ∨ ∃ k, d.half0 = .waiting k ∨ d.half1 = .waiting k) :
    placedSource m d = (d, []) := by
  by_cases hkind : d.kind = .clip
  case neg => exact placedSource_other m hkind
  by_cases hstate : d.state = .stopped
  case pos => exact placedSource_stopped m hstate
  have hmatch : ∀ loc, d.loc = some loc → (d.half0.isWaiting || d.half1.isWaiting) = true → placedSource m d = (d, []) := by
    intro loc hloc hw
    cases hs : d.state <;> simp only [placedSource, hkind, hs, hloc, if_pos hw]
  cases hloc : d.loc with
  | none => cases hs : d.state <;> simp only [placedSource, hkind, hs, hloc]
  | some loc =>
    rcases h with h | h | h
    · exact absurd h hstate
    · rw [hloc] at h
      cases h
    · exact hmatch loc hloc (waits_iff.2 h)

/-- R88: the item a clip source places that waits for nothing. -/
def placedNext (m : Source) (loc : Location) (r : SourceRec) : SourceRec × List FetchItem :=
  if (r.half0.isFailed || r.half1.isFailed) = true then
    if r.retryDue then
      let b := (if r.half0.isFailed then r.half0.block else r.half1.block).getD 0
      let again := fun (h : Half) => if h.isFailed then Half.waiting b else h
      ({ r with half0 := again r.half0, half1 := again r.half1, retryDue := false }, [blockItem (.source m) loc b])
    else ({ r with retryDue := true }, [])
  else if r.half0.isEmpty ∧ r.half1.block ≠ some r.next then
    ({ r with half0 := .waiting r.next, next := wrapBlock loc.length r.next }, [blockItem (.source m) loc r.next])
  else if r.half1.isEmpty ∧ r.half0.block ≠ some r.next then
    ({ r with half1 := .waiting r.next, next := wrapBlock loc.length r.next }, [blockItem (.source m) loc r.next])
  else (r, [])

theorem placedSource_next (m : Source) {d : SourceRec} {loc : Location} (hkind : d.kind = .clip) (hstate : d.state ≠ .stopped)
    (hloc : d.loc = some loc) (hwaits : ∀ k, d.half0 ≠ .waiting k ∧ d.half1 ≠ .waiting k) :
    placedSource m d = placedNext m loc d := by
  have hw : ¬ (d.half0.isWaiting || d.half1.isWaiting) = true := fun h => by
    obtain ⟨k, h | h⟩ := waits_iff.1 h
    · exact (hwaits k).1 h
    · exact (hwaits k).2 h
  cases hs : d.state
  case stopped => exact absurd hs hstate
  all_goals simp only [placedSource, placedNext, hkind, hs, hloc, if_neg hw]

theorem Half.isFailed_eq_false {h : Half} (hh : ∀ k, h ≠ .failed k) : h.isFailed = false := by
  cases h with
  | failed k => exact absurd rfl (hh k)
  | empty => rfl
  | waiting => rfl
  | full => rfl

/-- A half that neither waits nor has failed stands on a block where it holds it. -/
theorem Half.block_eq_some {h : Half} {b : Nat} (hw : ∀ k, h ≠ .waiting k) (hf : ∀ k, h ≠ .failed k) :
    h.block = some b ↔ ∃ v, h = .full b v := by
  cases h with
  | waiting k => exact absurd rfl (hw k)
  | failed k => exact absurd rfl (hf k)
  | empty => simp [Half.block]
  | full k v => simp [Half.block]

theorem placedSource_follows (m : Source) (d : SourceRec) :
    SourceFollows m d (placedSource m { d with lowArmed := d.lowArmed && !isLow d }).1 (isLow d)
      (placedSource m { d with lowArmed := d.lowArmed && !isLow d }).2 := by
  have hclip : d.kind = .clip → { d with lowArmed := d.lowArmed && !isLow d } = d := fun hkind => by
    rw [isLow_clip (by rw [hkind]; nofun), Bool.not_false, Bool.and_true]
  refine ⟨rfl, fun hkind => ?_, fun hkind h => ?_, fun loc hkind hstate hloc hwaits => ?_⟩
  · rw [placedSource_other m (d := { d with lowArmed := d.lowArmed && !isLow d }) hkind]
    exact ⟨rfl, rfl⟩
  · rw [hclip hkind, placedSource_unplaced m h]
    exact ⟨rfl, rfl⟩
  · rw [hclip hkind, placedSource_next m hkind hstate hloc hwaits]
    unfold placedNext
    refine ⟨fun hfail hdue => ?_, fun k h0 h1 hdue => ?_, fun k h1 h0 hdue => ?_, fun hfine => ?_⟩
    · have hf : (d.half0.isFailed || d.half1.isFailed) = true := by
        obtain ⟨k, h | h⟩ := hfail <;> rw [h] <;> simp [Half.isFailed]
      rw [if_pos hf, hdue, if_neg Bool.false_ne_true]
      exact ⟨rfl, rfl⟩
    · simp only [h0, Half.isFailed_eq_false h1, hdue]
      exact ⟨rfl, rfl⟩
    · simp only [h1, Half.isFailed_eq_false h0, hdue]
      exact ⟨rfl, rfl⟩
    · have hf : ¬ (d.half0.isFailed || d.half1.isFailed) = true := by
        rw [Half.isFailed_eq_false fun k => (hfine k).1, Half.isFailed_eq_false fun k => (hfine k).2]
        nofun
      have hblock0 := Half.block_eq_some (b := d.next) (fun k => (hwaits k).1) fun k => (hfine k).1
      have hblock1 := Half.block_eq_some (b := d.next) (fun k => (hwaits k).2) fun k => (hfine k).2
      have hplace0 := and_congr (Half.isEmpty_iff (h := d.half0)) (not_congr hblock1)
      have hplace1 := and_congr (Half.isEmpty_iff (h := d.half1)) (not_congr hblock0)
      rw [if_neg hf]
      refine ⟨fun h0 h1 => ?_, fun h0 h1 h2 => ?_, fun h0 h1 => ?_⟩
      · rw [if_pos (hplace0.2 ⟨h0, h1⟩)]
        exact ⟨rfl, rfl⟩
      · rw [if_neg fun h => h0 (hplace0.1 h).1, if_pos (hplace1.2 ⟨h1, h2⟩)]
        exact ⟨rfl, rfl⟩
      · rw [if_neg fun h => h0.elim (fun h2 => h2 (hplace0.1 h).1) (hplace0.1 h).2,
          if_neg fun h => h1.elim (fun h2 => h2 (hplace1.1 h).1) (hplace1.1 h).2]
        exact ⟨rfl, rfl⟩

/-! ## The level -/

theorem landedSource_level (ls : List Landed) (m : Source) (r : SourceRec) : (landedSource ls m r).1.level = r.level := by
  simp only [landedSource]
  split
  · cases landingFor (.source m) ls with
    | none => rfl
    | some x => cases x <;> rfl
  · rfl

theorem obeyedSource_level (r : SourceRec) : (obeyedSource r).level = r.level := by
  unfold obeyedSource
  cases r.cmd with
  | none => rfl
  | stop => rfl
  | start loc =>
    dsimp only [startedSource]
    cases r.kind <;> rfl

theorem enterSource_level (r : SourceRec) : (enterSource r).level = r.level := by
  unfold enterSource
  split <;> rfl

theorem clipNext_level (loc : Location) (r : SourceRec) : (clipNext loc r).level = r.level := by
  by_cases h : r.state ≠ .playing ∨ heldBlock r.half0 r.half1 (r.index / 256) = none
  · rw [clipNext, clipSample_missing _ h]
  · rw [not_or, not_not] at h
    obtain ⟨v, hv⟩ := Option.ne_none_iff_exists'.1 h.2
    rw [clipNext, clipSample_held _ h.1 hv, advanceClip_eq]
    unfold sourceMoved
    dsimp only
    split <;> rfl

theorem clipNext_iterate_level (loc : Location) (r : SourceRec) (n : Nat) : ((clipNext loc)^[n] r).level = r.level := by
  induction n with
  | zero => rfl
  | succ n ih => rw [Function.iterate_succ_apply', clipNext_level, ih]

theorem produce_level (r : SourceRec) : (produce r).1.level = r.level := by
  by_cases hstate : r.state = .playing
  · cases hkind : r.kind
    case stream =>
      rw [produce_stream hstate hkind, streamTake]
      split <;> rfl
    case clip =>
      rw [produce_clip hstate hkind]
      cases hloc : r.loc with
      | none => simp only [clipPlay, hloc]
      | some loc =>
        rw [clipPlay_eq hloc]
        exact clipNext_iterate_level loc r 64
    case tone =>
      rw [produce_tone hstate hkind]
      by_cases hon : r.cadence < r.onFrames
      · rw [tonePlay_sounding hon]
        have hlevel := toneNext_level r 64
        generalize toneNext^[64] r = x at hlevel ⊢
        exact hlevel
      · simp only [tonePlay, if_neg hon]
        rfl
  · rw [produce_idle hstate]

theorem madeSource_level (ls : List Landed) (m : Source) (r : SourceRec) : (madeSource ls m r).1.level = r.level := by
  rw [madeSource, produce_level, enterSource_level, obeyedSource_level, landedSource_level]

/-! ## The samples of a source -/

theorem saturate_range (x : Int) : -32768 ≤ saturate x ∧ saturate x ≤ 32767 := by
  unfold saturate
  omega

theorem sourceFrame_samples (ls : List Landed) (m : Source) (s : State) : (sourceFrame ls m s).2 =
    (List.range 64).map fun n =>
      saturate (((madeSource ls m (s.src m)).2.1.getD n 0 * ((s.src m).level : Int) + 16384) / 32768) := by
  rw [sourceFrame_eq]
  dsimp only
  rw [madeSource_level]
  refine List.ext_getElem (by simp [madeSource, length_produce]) fun n h1 h2 => ?_
  rw [List.getElem_map, List.getElem_map, List.getElem_range, levelled,
    List.getD_eq_getElem _ _ (by rwa [List.length_map] at h1)]

theorem produce_stopped_source (ls : List Landed) (m : Source) {r : SourceRec} (hstate : r.state = .stopped)
    (hcmd : r.cmd = .none) : (landedSource ls m r) = (r, false) ∧ madeSource ls m r = (r, silence, none) := by
  have hland : landedSource ls m r = (r, false) := if_neg fun h => h.2.1 hstate
  have henter : enterSource (obeyedSource r) = r := by
    have hobey : obeyedSource r = r := (obeyedSource_obeys r).1 hcmd
    rw [hobey]
    exact (enterSource_enters r).2 (by rw [hstate]; simp)
  refine ⟨hland, ?_⟩
  rw [madeSource, hland, henter]
  exact produce_idle (by rw [hstate]; nofun)

/-- R83: a STOPPED source with no command pending gives 0 and stays as it is. -/
theorem sourceFrame_stopped (ls : List Landed) {m : Source} {s : State} (hstate : (s.src m).state = .stopped)
    (hcmd : (s.src m).cmd = .none) : sourceFrame ls m s = (s, List.replicate 64 0) := by
  obtain ⟨hland, hmade⟩ := produce_stopped_source ls m hstate hcmd
  have hlow : isLow (s.src m) = false := decide_eq_false fun h => h.2.1 hstate
  have hstepped : steppedSource ls m (s.src m) = (s.src m, []) := by
    rw [steppedSource, hmade]
    dsimp only
    rw [hlow, Bool.not_false, Bool.and_true]
    exact placedSource_stopped m hstate
  have hraises : sourceRaises ls m (s.src m) = [] := by
    simp only [sourceRaises, hland, hmade, hlow]
    rfl
  have hgiven : givenUp m (s.src m) s = s := if_neg (by rw [hcmd]; nofun)
  refine Prod.ext ?_ ?_
  · rw [sourceFrame_eq, hraises, hstepped, hgiven, putPlaced_none, State.setSrc_self]
    rfl
  · rw [sourceFrame_samples, hmade]
    dsimp only
    simp only [silence_getD]
    rw [Int.zero_mul, List.map_const', List.length_range]
    rfl

/-! ## What the six steps leave -/

theorem sourceFrame_src (ls : List Landed) (m : Source) (s : State) :
    (sourceFrame ls m s).1.src m = (steppedSource ls m (s.src m)).1 := by
  rw [sourceFrame_eq, raiseAll_src]
  exact State.src_setSrc_same _ _ _

theorem sourceFrame_src_other (ls : List Landed) {m k : Source} (h : k ≠ m) (s : State) :
    (sourceFrame ls m s).1.src k = s.src k := by
  rw [sourceFrame_eq, raiseAll_src]
  refine (State.src_setSrc_other _ m k _ h).trans ?_
  unfold givenUp
  split <;> rfl

theorem raiseAll_fetch (rs : List (Nat × Detail)) (s : State) :
    (raiseAll rs s).fetch = s.fetch ∧ (raiseAll rs s).reads = s.reads := by
  rw [raiseAll_eq]
  exact ⟨rfl, rfl⟩

theorem sourceFrame_fetch (ls : List Landed) (m : Source) (s : State) : (sourceFrame ls m s).1.fetch =
    (if (s.src m).cmd = .stop then s.fetch.filter (fun it => it.requester != .source m) else s.fetch) ++
      (steppedSource ls m (s.src m)).2 := by
  rw [sourceFrame_eq, (raiseAll_fetch _ _).1, putPlaced, givenUp]
  split <;> rfl

theorem sourceFrame_reads (ls : List Landed) (m : Source) (s : State) : (sourceFrame ls m s).1.reads =
    if (s.src m).cmd = .stop then
      s.reads.map (fun x => if x.item.requester = .source m then { x with dropped := true } else x) else s.reads := by
  rw [sourceFrame_eq, (raiseAll_fetch _ _).2, putPlaced, givenUp]
  split
  · refine List.map_congr_left fun x _ => ?_
    simp only [beq_iff_eq]
  · rfl

theorem sourceFrame_rest (ls : List Landed) (m : Source) (s : State) :
    { (sourceFrame ls m s).1 with sources := s.sources, fetch := s.fetch, reads := s.reads, link := s.link } = s := by
  rw [sourceFrame_eq]
  dsimp only
  rw [raiseAll_eq, putPlaced, givenUp]
  split <;> rfl

/-- Settles O43: a source's frame start is one equation on its record, and each of the six steps in it does what its rule says. -/
theorem sourceOutputsAreSamples : Obligations.SourceOutputsAreSamples := by
  refine ⟨fun ls m s => ⟨?_, fun x hx => ?_, fun hstate hcmd => ?_⟩, fun ls m s => ?_⟩
  · rw [sourceFrame_samples, List.length_map, List.length_range]
  · rw [sourceFrame_samples] at hx
    obtain ⟨n, -, rfl⟩ := List.mem_map.1 hx
    exact saturate_range _
  · rw [sourceFrame_stopped ls hstate hcmd]
    exact ⟨rfl, rfl⟩
  · intro r t
    have hraises : t.link = (raiseAll (sourceRaises ls m r) s).link := (sourceFrame_voices ls m s).link
    exact ⟨(landedSource ls m r).1, obeyedSource (landedSource ls m r).1, enterSource (obeyedSource (landedSource ls m r).1),
      (madeSource ls m r).1, (steppedSource ls m r).1, (landedSource ls m r).2, isLow (madeSource ls m r).1,
      (madeSource ls m r).2.2, fun n => (madeSource ls m r).2.1.getD n 0, (steppedSource ls m r).2,
      landedSource_lands ls m r, obeyedSource_obeys _, enterSource_enters _, produce_forms _,
      placedSource_follows m (madeSource ls m r).1, sourceFrame_samples ls m s, sourceFrame_src ls m s,
      fun k hk => sourceFrame_src_other ls hk s, sourceFrame_fetch ls m s, sourceFrame_reads ls m s, hraises,
      sourceFrame_rest ls m s⟩

end Sys2Proof.Machine
end

section
/-! PROOF. The pattern tests and a sample period (R13, R37, R176, R177, R184 to R189). -/

namespace Sys2Proof.Machine

/-! ## A running test in a sample period (R185, R186) -/

theorem PortTest.sends_iff (t : PortTest) : t.sends = true ↔ t.state ≠ .off ∧ t.dir ≠ .rx := by
  simp [PortTest.sends, PortTest.running]

theorem PortTest.checks_iff (t : PortTest) : t.checks = true ↔ t.state ≠ .off ∧ t.dir ≠ .tx := by
  simp [PortTest.checks, PortTest.running]

/-- R185: a test's record when its slot has been transmitted or not. -/
def sentTest (sent : Bool) (t : PortTest) : PortTest := if t.sends ∧ sent = true then sentWord t else t

theorem sentTest_keeps (sent : Bool) (t : PortTest) :
    { sentTest sent t with txIndex := t.txIndex, passes := t.passes } = t := by
  unfold sentTest
  split <;> rfl

theorem sentTest_txIndex {t : PortTest} (hrun : t.state ≠ .off) (sent : Bool) :
    (sentTest sent t).txIndex = if t.dir ≠ .rx ∧ sent = true then (t.txIndex + 1) % 8 else t.txIndex := by
  unfold sentTest
  split
  · next h => rw [if_pos ⟨((PortTest.sends_iff t).1 h.1).2, h.2⟩]; rfl
  · next h => rw [if_neg fun h2 => h ⟨(PortTest.sends_iff t).2 ⟨hrun, h2.1⟩, h2.2⟩]

theorem sentTest_passes {t : PortTest} (hrun : t.state ≠ .off) (sent : Bool) :
    (sentTest sent t).passes = if t.dir = .tx ∧ sent = true ∧ t.txIndex = 7 then
      (if t.passes < 4294967295 then t.passes + 1 else 4294967295) else t.passes := by
  by_cases hsend : t.dir = .tx ∧ sent = true ∧ t.txIndex = 7
  · obtain ⟨hdir, hsent, hlast⟩ := hsend
    have hsends : t.sends = true := (PortTest.sends_iff t).2 ⟨hrun, by rw [hdir]; nofun⟩
    rw [if_pos ⟨hdir, hsent, hlast⟩, sentTest, if_pos ⟨hsends, hsent⟩]
    exact if_pos ⟨hdir, hlast⟩
  · rw [if_neg hsend, sentTest]
    split
    · next h => exact if_neg fun h2 => hsend ⟨h2.1, h.2, h2.2⟩
    · rfl

theorem actTest_idle {t : PortTest} (h : t.state = .off) (sent : Bool) (received : Option Sample) :
    actTest sent received t = t := by
  have hsends : ¬ t.sends = true := fun hs => ((PortTest.sends_iff t).1 hs).1 h
  have hchecks : ¬ t.checks = true := fun hs => ((PortTest.checks_iff t).1 hs).1 h
  have hsent : sentTest sent t = t := if_neg fun hs => hsends hs.1
  cases received with
  | none => exact hsent
  | some v => exact (if_neg hchecks).trans hsent

theorem actTest_unchecked {t : PortTest} {received : Option Sample} (h : t.dir = .tx ∨ received = none) (sent : Bool) :
    actTest sent received t = sentTest sent t := by
  cases received with
  | none => rfl
  | some v =>
    refine if_neg fun hc => ?_
    rcases h with h | h
    · exact ((PortTest.checks_iff t).1 hc).2 h
    · cases h

theorem actTest_checked {t : PortTest} (hrun : t.state ≠ .off) (hdir : t.dir ≠ .tx) (sent : Bool) (v : Sample) :
    actTest sent (some v) t = checkedWord v (sentTest sent t) := if_pos ((PortTest.checks_iff t).2 ⟨hrun, hdir⟩)

theorem checkedWord_seeking {t : PortTest} (h : t.expected = none) (v : Sample) :
    checkedWord v t = { t with expected := if v = t.pattern.getD 0 0 then some 1 else none } := by
  have hcheck : checkedWord v t = if v = t.word 0 then { t with expected := some 1 } else t := by rw [checkedWord, h]
  rw [hcheck]
  by_cases hv : v = t.pattern.getD 0 0
  · rw [if_pos hv]
    exact if_pos hv
  · rw [if_neg hv, ← h]
    exact if_neg hv

theorem checkedWord_expected {t : PortTest} {k : Nat} (h : t.expected = some k) (v : Sample) :
    checkedWord v t = if v = t.pattern.getD k 0 then
        if k = 7 then { t with expected := some 0, passes := satInc topCount t.passes, state := .locked }
        else { t with expected := some (k + 1) }
      else { t with expected := none, errors := satInc topCount t.errors, state := .seeking } := by
  rw [checkedWord, h]
  exact if_congr Iff.rfl rfl rfl

theorem actTest_acts {q : PortTest} (hrun : q.state ≠ .off) (sent : Bool) (received : Option Sample) :
    TestActs q (actTest sent received q) sent received := by
  have hkeeps := sentTest_keeps sent q
  have hindex := sentTest_txIndex hrun sent
  have hpasses := sentTest_passes hrun sent
  by_cases hchecked : q.dir = .tx ∨ received = none
  case pos =>
    have hnone : (if q.dir = .tx then none else received) = none := by
      rcases hchecked with h | h
      · rw [if_pos h]
      · rw [h, ite_self]
    rw [actTest_unchecked hchecked]
    refine ⟨(congrArg PortTest.slot hkeeps :), (congrArg PortTest.dir hkeeps :), (congrArg PortTest.pattern hkeeps :), hindex, ?_⟩
    rw [hnone]
    exact ⟨(congrArg PortTest.state hkeeps :), (congrArg PortTest.expected hkeeps :), (congrArg PortTest.errors hkeeps :), hpasses⟩
  case neg =>
    obtain ⟨hdir, hsome⟩ := not_or.1 hchecked
    obtain ⟨v, rfl⟩ := Option.ne_none_iff_exists'.1 hsome
    rw [if_neg fun h => hdir h.1] at hpasses
    rw [actTest_checked hrun hdir]
    generalize sentTest sent q = t at hkeeps hindex hpasses ⊢
    have hq : t = { q with txIndex := t.txIndex } := by
      conv_rhs => rw [← hkeeps]
      rw [← hpasses]
    unfold TestActs
    rw [if_neg hdir]
    cases hexp : q.expected with
    | none =>
      have ht : t.expected = none := by rw [hq]; exact hexp
      rw [checkedWord_seeking ht, hq]
      exact ⟨rfl, rfl, rfl, hindex, rfl, rfl, rfl, rfl⟩
    | some k =>
      have ht : t.expected = some k := by rw [hq]; exact hexp
      rw [checkedWord_expected ht, hq]
      dsimp only
      by_cases hmatch : v = q.pattern.getD k 0
      · rw [if_pos hmatch, if_pos hmatch]
        by_cases hlast : k = 7
        · rw [if_pos hlast, if_pos hlast, if_pos hlast]
          exact ⟨rfl, rfl, rfl, hindex, rfl, rfl, rfl, rfl⟩
        · rw [if_neg hlast, if_neg hlast, if_neg hlast]
          exact ⟨rfl, rfl, rfl, hindex, rfl, rfl, rfl, rfl⟩
      · rw [if_neg hmatch, if_neg hmatch]
        exact ⟨rfl, rfl, rfl, hindex, rfl, rfl, rfl, rfl⟩

/-! ## A carried period (R176, R177, R185, R186) -/

/-- R185, R189: the record a port's test leaves in a sample period; one that a request has changed does not act. -/
def movedTest (p : Port) (sent : Bool) (received : Option Sample) (s : State) : PortTest :=
  if (s.held p).isSome then s.test p else actTest sent received (s.test p)

/-- R185, R186: the TEST_STATE of a test whose state has changed. -/
def testRaises (p : Port) (before after : PortTest) : List (Nat × Detail) :=
  if after.state = before.state then [] else [(p.code, .testState after.state after.passes after.errors)]

theorem State.setTest_self (s : State) (p : Port) : s.setTest p (s.test p) = s := by cases p <;> rfl

theorem runTest_eq (p : Port) (sent : Bool) (received : Option Sample) (s : State) :
    runTest p sent received s = raiseAll (testRaises p (s.test p) (movedTest p sent received s))
      (s.setTest p (movedTest p sent received s)) := by
  cases hheld : s.held p with
  | some x =>
    have hmoved : movedTest p sent received s = s.test p := if_pos (by rw [hheld]; rfl)
    rw [hmoved, State.setTest_self, testRaises, if_pos rfl, runTest, hheld]
    rfl
  | none =>
    have hmoved : movedTest p sent received s = actTest sent received (s.test p) := if_neg (by rw [hheld]; nofun)
    rw [hmoved, runTest, hheld, testRaises]
    dsimp only
    split <;> rfl

/-- R185: the network test's record after the period in progress. -/
def movedNet (net : Vector Word16 32) (s : State) : PortTest :=
  movedTest .network (s.clock.mark != .internal)
    (if s.clock.mark = .pulse then some (receivedOn net s.ports.netTest) else none) s

/-- R186: the headset test's record after the period in progress. -/
def movedHead (head : Vector Word16 16) (s : State) : PortTest :=
  movedTest .headset true (if s.clock.mark = .flywheel then none else some (receivedOn head s.ports.headTest)) s

/-- R185, R186: the notices of a sample period. -/
def periodRaises (net : Vector Word16 32) (head : Vector Word16 16) (s : State) : List (Nat × Detail) :=
  testRaises .network s.ports.netTest (movedNet net s) ++ testRaises .headset s.ports.headTest (movedHead head s)

/-- The state a sample period leaves, but for its notices and its draw. -/
def periodState (net : Vector Word16 32) (head : Vector Word16 16) (s : State) : State :=
  { s with
    legs := vmap (recordPeriod (netSent s)) s.legs
    clock := { s.clock with carried := true }
    ports := { s.ports with
      ntx := netSent s, htx := some (headSent s), netTest := movedNet net s, headTest := movedHead head s, netHeld := none,
      headHeld := none, netRx := s.ports.netRx ++ [netTaken net s], headRx := s.ports.headRx ++ [headTaken head s] } }

theorem tested_eq (net : Vector Word16 32) (head : Vector Word16 16) (s : State) :
    tested net head s (sampled net head s) = raiseAll (periodRaises net head s)
      (((sampled net head s).setTest .network (movedNet net s)).setTest .headset (movedHead head s)) := by
  unfold tested
  rw [runTest_eq, runTest_eq]
  have hnet : movedTest .network (s.clock.mark != .internal)
      (if s.clock.mark = .pulse then some (receivedOn net s.ports.netTest) else none) (sampled net head s) = movedNet net s := rfl
  rw [hnet]
  have hset : ∀ (rs : List (Nat × Detail)) (u : State) (t : PortTest),
      (raiseAll rs u).setTest .headset t = raiseAll rs (u.setTest .headset t) := fun rs u t =>
    raiseAll_commute (g := fun v => v.setTest .headset t) (fun _ => rfl) (fun _ => rfl) (fun _ _ => rfl) rs u
  have htest : ∀ (rs : List (Nat × Detail)) (u : State), (raiseAll rs u).ports = u.ports := fun rs u => by
    rw [raiseAll_eq]
    rfl
  have hhead : ∀ rs : List (Nat × Detail), movedTest .headset true
      (if s.clock.mark = .flywheel then none else some (receivedOn head s.ports.headTest))
      (raiseAll rs ((sampled net head s).setTest .network (movedNet net s))) = movedHead head s := fun rs => by
    simp only [movedTest, State.held, State.test, htest]
    rfl
  rw [hhead, hset, ← raiseAll_append]
  simp only [State.test, htest]
  rfl

theorem carryPeriod_period (net : Vector Word16 32) (head : Vector Word16 16) (s : State) : carryPeriod net head s =
    { orderNew s.link.notices.length (raiseAll (periodRaises net head s) (periodState net head s)) with draws := s.draws + 1 } := by
  have hheld : ∀ (rs : List (Nat × Detail)) (p : Port) (u : State),
      (raiseAll rs u).setHeld p none = raiseAll rs (u.setHeld p none) := fun rs p u =>
    raiseAll_commute (g := fun v => v.setHeld p none) (fun _ => by cases p <;> rfl) (fun _ => by cases p <;> rfl)
      (fun _ _ => by cases p <;> rfl) rs u
  rw [carryPeriod_eq, tested_eq, hheld, hheld]
  rfl

theorem orderNew_none (s : State) : orderNew s.link.notices.length s = s := by
  have hlink : ∀ ns : List Notice, (starvedBeforeLow ns).Perm ns := starvedBeforeLow_perm
  have hdrop : s.link.notices.drop s.link.notices.length = [] := List.drop_length
  have hnew : starvedBeforeLow (shuffle (Config.noticeOrder s.draws) (s.link.notices.drop s.link.notices.length)) = [] := by
    refine List.Perm.eq_nil ((hlink _).trans ((shuffle_perm _ _).trans ?_))
    rw [hdrop]
  rw [orderNew, hnew, List.take_length, List.append_nil]
  rfl

/-- What a sample period leaves, but for its notices. -/
theorem carryPeriod_rest (net : Vector Word16 32) (head : Vector Word16 16) (s : State) :
    carryPeriod net head s = { periodState net head s with
      link := (carryPeriod net head s).link, draws := s.draws + 1 } := by
  rw [carryPeriod_period, orderNew_eq, raiseAll_eq]
  rfl

/-- A period in which no test changes its state raises nothing. -/
theorem carryPeriod_quiet {net : Vector Word16 32} {head : Vector Word16 16} {s : State} (h : periodRaises net head s = []) :
    (carryPeriod net head s).link = s.link := by
  have hperiod : (carryPeriod net head s).link =
      (orderNew (periodState net head s).link.notices.length (periodState net head s)).link := by
    rw [carryPeriod_period, h]
    rfl
  rw [hperiod, orderNew_none]
  rfl

theorem raiseIn_other {stamp : Stamp} {k : Nat} {d : Detail} {ns : List Notice} {n : Notice} (h : n ∈ ns) (hk : n.subject ≠ k) :
    n ∈ raiseIn stamp k d ns := by
  induction ns with
  | nil => cases h
  | cons m ms ih =>
    by_cases hm : m.isFor k d = true
    · rw [raiseIn, if_pos hm]
      rcases List.mem_cons.1 h with rfl | h
      · exact absurd (by simpa [Notice.isFor] using hm : _ ∧ _).2 hk
      · exact List.mem_cons_of_mem _ h
    · rw [raiseIn, if_neg hm]
      rcases List.mem_cons.1 h with rfl | h
      · exact List.mem_cons_self
      · exact List.mem_cons_of_mem _ (ih h)

/-- R200: after a raise its entry is in the queue. -/
theorem raise_entry (k : Nat) (d : Detail) (s : State) :
    ∃ n ∈ (raise k d s).link.notices, n.subject = k ∧ n.stamp = s.frame ∧ n.detail = d := by
  obtain ⟨n, hn, hfor, hstamp, hdetail⟩ := raiseIn_mem s.frame k d s.link.notices
  exact ⟨n, hn, (by simpa [Notice.isFor] using hfor : _ ∧ _).2, hstamp, hdetail⟩

theorem testRaises_entry {p : Port} {before after : PortTest} (h : after.state ≠ before.state) (u : State) :
    ∃ n ∈ (raiseAll (testRaises p before after) u).link.notices, n.subject = p.code ∧ n.stamp = u.frame ∧
      n.detail = .testState after.state after.passes after.errors := by
  rw [testRaises, if_neg h]
  exact raise_entry p.code _ u

theorem testRaises_keeps {p : Port} {before after : PortTest} {u : State} {n : Notice} (h : n ∈ u.link.notices)
    (hp : n.subject ≠ p.code) : n ∈ (raiseAll (testRaises p before after) u).link.notices := by
  unfold testRaises
  split
  · exact h
  · exact raiseIn_other h hp

/-- R185, R186: the TEST_STATE of each port whose test has changed its state stands in the queue. -/
theorem carryPeriod_entry {net : Vector Word16 32} {head : Vector Word16 16} {s : State} (port : Port)
    (h : ((carryPeriod net head s).test port).state ≠ (s.test port).state) :
    ∃ n ∈ (carryPeriod net head s).link.notices, n.subject = port.code ∧ n.stamp = s.frame ∧
      n.detail = .testState ((carryPeriod net head s).test port).state ((carryPeriod net head s).test port).passes
        ((carryPeriod net head s).test port).errors := by
  have hperm : (carryPeriod net head s).link.notices.Perm
      (raiseAll (periodRaises net head s) (periodState net head s)).link.notices := by
    rw [carryPeriod_period]
    exact orderNew_perm _ _
  simp only [hperm.mem_iff]
  rw [carryPeriod_rest] at h ⊢
  rw [periodRaises, raiseAll_append]
  cases port with
  | network =>
    obtain ⟨n, hn, hsubject, hentry⟩ := testRaises_entry (p := .network) h (periodState net head s)
    exact ⟨n, testRaises_keeps hn (by rw [hsubject]; nofun), hsubject, hentry⟩
  | headset =>
    obtain ⟨n, hn, hsubject, hstamp, hdetail⟩ := testRaises_entry (p := .headset) h
      (raiseAll (testRaises .network s.ports.netTest (movedNet net s)) (periodState net head s))
    exact ⟨n, hn, hsubject, by rw [hstamp, raiseAll_frame]; rfl, hdetail⟩

theorem exec_samplePeriod {s : State} (net : Vector Word16 32) (head : Vector Word16 16) (hhold : s.hold = none) (hs : Serving s)
    (hcarried : s.clock.carried = false) (hdue : s.clock.due = none) :
    exec (.samplePeriod net head) s = .next (carryPeriod net head s) :=
  congrArg Host.Outcome.next (if_pos (by rw [periodDue, clockRuns_of_serving hhold hs, hcarried, hdue]; rfl))

/-- R176: the values a sample period drives on NTX. -/
theorem netSent_get {s : State} (h : s.clock.mark ≠ .internal) : ∃ v, netSent s = some v ∧ ∀ k : NetSlot, v[k] =
    if (acting s .network).state ≠ .off ∧ (acting s .network).dir ≠ .rx ∧ (acting s .network).slot = k.val then
      (acting s .network).pattern.getD (acting s .network).txIndex 0
    else s.ports.netTx[k].getD s.clock.period 0 := by
  refine ⟨_, if_neg h, fun k => ?_⟩
  rw [vgen_get]
  exact if_congr (by rw [PortTest.sends_iff, and_assoc]) rfl rfl

theorem headSent_get (s : State) (k : Position) : (headSent s)[k] =
    if (acting s .headset).state ≠ .off ∧ (acting s .headset).dir ≠ .rx ∧ (acting s .headset).slot = k.val then
      (acting s .headset).pattern.getD (acting s .headset).txIndex 0
    else s.ports.headTx[k].getD s.clock.period 0 := by
  rw [headSent, vgen_get]
  exact if_congr (by rw [PortTest.sends_iff, and_assoc]) rfl rfl

theorem netTaken_get (net : Vector Word16 32) (s : State) (k : NetSlot) : (netTaken net s)[k] =
    if s.clock.mark = .pulse ∧ ¬ ((acting s .network).state ≠ .off ∧ (acting s .network).dir ≠ .tx ∧
      (acting s .network).slot = k.val) then net[k].toInt else 0 := by
  rw [netTaken, vgen_get]
  exact if_congr (by rw [PortTest.checks_iff, and_assoc]) rfl rfl

theorem headTaken_get (head : Vector Word16 16) (s : State) (k : Position) : (headTaken head s)[k] =
    if (acting s .headset).state ≠ .off ∧ (acting s .headset).dir ≠ .tx ∧ (acting s .headset).slot = k.val then 0
    else head[k].toInt := by
  rw [headTaken, vgen_get]
  exact if_congr (by rw [PortTest.checks_iff, and_assoc]) rfl rfl

theorem receivedOn_slot {n : Nat} (v : Vector Word16 n) {t : PortTest} {k : Fin n} (h : t.slot = k.val) :
    receivedOn v t = v[k].toInt := by
  rw [receivedOn, h, List.getD_eq_getElem?_getD, List.getElem?_map, List.getElem?_eq_getElem (by simp)]
  simp

theorem movedTest_still {p : Port} {sent : Bool} {received : Option Sample} {s : State}
    (h : (s.test p).state = .off ∨ s.held p ≠ none) : movedTest p sent received s = s.test p := by
  unfold movedTest
  split
  · rfl
  · next hnone => exact actTest_idle (h.resolve_right fun hheld => hnone (Option.isSome_iff_ne_none.2 hheld)) _ _

theorem movedTest_acts {p : Port} {s : State} (hrun : (s.test p).state ≠ .off) (hheld : s.held p = none) (sent : Bool)
    (received : Option Sample) : TestActs (s.test p) (movedTest p sent received s) sent received := by
  rw [movedTest, hheld, if_neg (by nofun)]
  exact actTest_acts hrun sent received

/-! ## PORT_TEST and PORT_TEST_STOP (R187, R189) -/

theorem dirOf_code (d : TestDir) : dirOf d.code = some d := by cases d <;> rfl

theorem TestDir.code_lt (d : TestDir) : d.code < 256 := by cases d <;> decide

theorem keepActing_eq {s : State} (hhold : s.hold = none) (hs : Serving s) (p : Port) : keepActing p s =
    if s.clock.carried = false ∧ s.held p = none then s.setHeld p (some (s.test p)) else s := by
  have hruns := clockRuns_of_serving hhold hs
  exact if_congr ⟨fun h => h.2, fun h => ⟨hruns, h⟩⟩ rfl rfl

theorem keepActing_setLink (p : Port) (s : State) (x : Link) : keepActing p (s.setLink x) = (keepActing p s).setLink x := by
  unfold keepActing
  rw [State.held_setLink, State.test_setLink]
  by_cases h : s.clockRuns = true ∧ s.clock.carried = false ∧ s.held p = none
  · rw [if_pos h]
    refine (if_pos h).trans ?_
    cases p <;> rfl
  · rw [if_neg h]
    exact if_neg h

theorem keepActing_link (p : Port) (s : State) : (keepActing p s).link = s.link := by
  unfold keepActing
  split
  · cases p <;> rfl
  · rfl

/-- R184: the slots PORT_TEST names on a port. -/
theorem slot_named {s : State} {port : Port} {slot : Nat} (h : slot < if port = .network then 32 else activeCount s.straps) :
    slot < port.slots ∧ (port = .headset → slot < activeCount s.straps) ∧ slot < 256 := by
  have hactive : activeCount s.straps ≤ 16 := by
    unfold activeCount
    split
    · omega
    · split <;> omega
  cases port with
  | network =>
    have hslot : slot < 32 := h
    exact ⟨hslot, by nofun, by omega⟩
  | headset =>
    have hslot : slot < activeCount s.straps := h
    exact ⟨Nat.lt_of_lt_of_le hslot hactive, fun _ => hslot, by omega⟩

section
variable {s : State} {r : Request} {port : Port} {slot : Nat} {dir : TestDir} {words : List Byte}

/-- R187: the bytes of a PORT_TEST body. -/
theorem portTest_fields (hslot : slot < 256) (hbody : r.body = u8 port.code ++ u8 slot ++ u8 dir.code ++ words) :
    portOf (byteAt r.body 0) = some port ∧ byteAt r.body 1 = slot ∧ dirOf (byteAt r.body 2) = some dir := by
  rw [hbody, List.append_assoc, List.append_assoc, byteAt_u8_append_zero port.code_lt, byteAt_u8_append_succ,
    byteAt_u8_append_zero hslot, byteAt_u8_append_succ, byteAt_u8_append_succ, byteAt_u8_append_zero dir.code_lt, portOf_code,
    dirOf_code]
  exact ⟨rfl, rfl, rfl⟩

theorem portTestEntry_passed {pattern : List Int} (hport : portOf (byteAt r.body 0) = some port) (hbyte : byteAt r.body 1 = slot)
    (hdir : dirOf (byteAt r.body 2) = some dir) (hslot : slot < port.slots)
    (hactive : port = .headset → slot < activeCount s.straps) (hoff : (s.test port).state = .off)
    (hpattern : (List.range 8).map (fun i => signedAt r.body (3 + 2 * i)) = pattern) :
    portTestEntry r s = .ok
      { body := testBytes (startedTest slot dir pattern)
        state := (keepActing port s).setTest port (startedTest slot dir pattern) } := by
  simp only [portTestEntry, hport, hdir, hbyte, need_some, bind, Except.bind, require_eq_ok hslot, require_eq_ok hactive,
    require_eq_ok hoff, hpattern]
  rfl

theorem portTestEntry_running (hport : portOf (byteAt r.body 0) = some port) (hbyte : byteAt r.body 1 = slot)
    (hdir : dirOf (byteAt r.body 2) = some dir) (hslot : slot < port.slots)
    (hactive : port = .headset → slot < activeCount s.straps) (hon : (s.test port).state ≠ .off) :
    portTestEntry r s = .error .wrongState := by
  simp only [portTestEntry, hport, hdir, hbyte, need_some, bind, Except.bind, require_eq_ok hslot, require_eq_ok hactive]
  rw [require_eq_error hon]

theorem portTestStopEntry_running (hport : portOf (byteAt r.body 0) = some port) (hon : (s.test port).state ≠ .off) :
    portTestStopEntry r s = .ok
      { body := testBytes (stoppedTest (s.test port)), state := (keepActing port s).setTest port (stoppedTest (s.test port)) } := by
  have hrun : (s.test port).running = true := bne_iff_ne.2 hon
  simp only [portTestStopEntry, hport, need_some, bind, Except.bind, hrun]
  rfl

theorem portTestStopEntry_off (hport : portOf (byteAt r.body 0) = some port) (hoff : (s.test port).state = .off) :
    portTestStopEntry r s = .ok { body := testBytes (s.test port), state := s } := by
  have hrun : (s.test port).running = false := by rw [PortTest.running, hoff]; rfl
  simp only [portTestStopEntry, hport, need_some, bind, Except.bind, hrun]
  rfl

end

theorem startedTest_bytes (slot : Nat) (dir : TestDir) (pattern : List Int) :
    testBytes (startedTest slot dir pattern) =
      u8 (if dir = .tx then 2 else 1) ++ u8 slot ++ u8 dir.code ++ pattern.flatMap i16 ++ [0, 0xFF] ++ u32 0 ++ u32 0 := by
  have hstate : (startedTest slot dir pattern).state.code = if dir = .tx then 2 else 1 := by cases dir <;> rfl
  rw [testBytes, hstate]
  simp only [startedTest, List.append_assoc]
  rfl

theorem keepActing_setTest_link (port : Port) (t : PortTest) (s : State) : ((keepActing port s).setTest port t).link = s.link :=
  (State.setTest_link _ port t).trans (keepActing_link port s)

theorem keepActing_setTest_setLink (port : Port) (t : PortTest) (s : State) (x : Link) :
    (keepActing port (s.setLink x)).setTest port t = ((keepActing port s).setTest port t).setLink x := by
  rw [keepActing_setLink]
  cases port <;> rfl

section
variable {s : State} {r : Request} {rest : List Request} {port : Port}

theorem portTest_starts (hserving : Serving s) {slot : Nat} {dir : TestDir} {pattern : List Int} (hdue : HeadDue 0x50#8 r rest s)
    (hoff : (s.test port).state = .off) (hslot : slot < if port = .network then 32 else activeCount s.straps)
    (hlen : pattern.length = 8) (hrange : ∀ x ∈ pattern, -32768 ≤ x ∧ x ≤ 32767)
    (hbody : r.body = u8 port.code ++ u8 slot ++ u8 dir.code ++ pattern.flatMap i16) :
    exec .portTest s = .next (answered r rest .ok (testBytes (startedTest slot dir pattern))
      ((keepActing port s).setTest port (startedTest slot dir pattern))) := by
  obtain ⟨hslots, hactive, hbyte⟩ := slot_named hslot
  obtain ⟨hport, hslotByte, hdir⟩ := portTest_fields hbyte hbody
  have hpattern : (List.range 8).map (fun i => signedAt r.body (3 + 2 * i)) = pattern := by
    rw [hbody, ← hlen]
    exact range_map_signedAt hrange (u8 port.code ++ u8 slot ++ u8 dir.code)
  have hlength : r.body.length = 19 := by
    rw [hbody]
    simp only [List.length_append, u8_length, flatMap_i16_length, hlen]
  refine row_accepted (entry := portTestEntry) (fun _ => rfl) hdue (by show some (r.body.length == 19) = _; rw [hlength]; rfl)
    (.inl hserving) (keepActing_setTest_link port _ s) fun x => ?_
  rw [← keepActing_setTest_setLink]
  exact portTestEntry_passed (s := s.setLink x) hport hslotByte hdir hslots hactive ((congrArg _ (s.test_setLink x port)).trans hoff)
    hpattern

theorem portTest_refused (hserving : Serving s) {slot : Nat} {dir : TestDir} {words : List Byte} (hdue : HeadDue 0x50#8 r rest s)
    (hon : (s.test port).state ≠ .off) (hslot : slot < if port = .network then 32 else activeCount s.straps)
    (hlen : words.length = 16) (hbody : r.body = u8 port.code ++ u8 slot ++ u8 dir.code ++ words) :
    exec .portTest s = .next (answered r rest .wrongState [] s) := by
  obtain ⟨hslots, hactive, hbyte⟩ := slot_named hslot
  obtain ⟨hport, hslotByte, hdir⟩ := portTest_fields hbyte hbody
  have hlength : r.body.length = 19 := by
    rw [hbody]
    simp only [List.length_append, u8_length, hlen]
  exact row_refused (entry := portTestEntry) (fun _ => rfl) hdue (by show some (r.body.length == 19) = _; rw [hlength]; rfl)
    (.inl hserving) fun x => portTestEntry_running (s := s.setLink x) hport hslotByte hdir hslots hactive
      (by rw [State.test_setLink]; exact hon)

theorem portTestStop_stops (hserving : Serving s) (hdue : HeadDue 0x52#8 r rest s) (hbody : r.body = u8 port.code)
    (hon : (s.test port).state ≠ .off) :
    exec .portTestStop s = .next (answered r rest .ok (testBytes (stoppedTest (s.test port)))
      ((keepActing port s).setTest port (stoppedTest (s.test port)))) := by
  refine row_accepted (entry := portTestStopEntry) (fun _ => rfl) hdue (by rw [hbody]; rfl) (.inl hserving)
    (keepActing_setTest_link port _ s) fun x => ?_
  have hentry := portTestStopEntry_running (s := s.setLink x) (portOf_byte hbody) (by rw [State.test_setLink]; exact hon)
  rw [State.test_setLink] at hentry
  rw [hentry, keepActing_setTest_setLink]

theorem portTestStop_off (hserving : Serving s) (hdue : HeadDue 0x52#8 r rest s) (hbody : r.body = u8 port.code)
    (hoff : (s.test port).state = .off) :
    exec .portTestStop s = .next (answered r rest .ok (testBytes (s.test port)) s) := by
  refine row_queried (entry := portTestStopEntry) (fun _ => rfl) hdue (by rw [hbody]; rfl) hserving fun x => ?_
  have hentry := portTestStopEntry_off (s := s.setLink x) (portOf_byte hbody) (by rw [State.test_setLink]; exact hoff)
  rw [State.test_setLink] at hentry
  exact hentry

end

/-- Settles O55: the requests' record acts from the next period on, and in a period each port's test moves on its own. -/
theorem portTestsStartAndStop : Obligations.PortTestsStartAndStop := by
  refine ⟨fun s r rest port hserving => ⟨?_, ?_, ?_, ?_⟩, fun s net head hhold hserving hcarried hdue => ?_⟩
  · intro slot dir pattern hdue hoff hslot hlen hrange hbody
    rw [portTest_starts hserving hdue hoff hslot hlen hrange hbody, startedTest_bytes, keepActing_eq hdue.1 hserving]
    rfl
  · intro slot dir words hdue hon hslot hlen hbody
    exact portTest_refused hserving hdue hon hslot hlen hbody
  · intro hdue hbody hon
    rw [portTestStop_stops hserving hdue hbody hon, keepActing_eq hdue.1 hserving]
    rfl
  · intro hdue hbody hoff
    rw [portTestStop_off hserving hdue hbody hoff, testBytes, hoff]
    cases (s.test port).expected <;> rfl
  · intro qn qh
    have hrest := carryPeriod_rest net head s
    have hentry := fun port => carryPeriod_entry (net := net) (head := head) (s := s) port
    have hquiet := fun h => carryPeriod_quiet (net := net) (head := head) (s := s) h
    refine ⟨carryPeriod net head s, exec_samplePeriod net head hhold hserving hcarried hdue, ?_⟩
    generalize carryPeriod net head s = t at hrest hentry hquiet ⊢
    have hports : t.ports = (periodState net head s).ports := (congrArg State.ports hrest :)
    have hnet : t.ports.netTest = movedNet net s := (congrArg Ports.netTest hports :)
    have hhead : t.ports.headTest = movedHead head s := (congrArg Ports.headTest hports :)
    refine ⟨(congrArg Ports.netHeld hports :), (congrArg Ports.headHeld hports :), fun hmark => ?_, fun hmark => ?_, ?_, ?_, ?_,
      fun hstill => ?_, fun hstill => ?_, fun k hrun hheld hslot => ?_, fun k hrun hheld hslot => ?_, fun h1 h2 => ?_, hentry⟩
    · obtain ⟨v, hv, hget⟩ := netSent_get hmark
      exact ⟨v, (congrArg Ports.ntx hports :).trans hv, hget⟩
    · exact (congrArg Ports.ntx hports :).trans (if_pos hmark)
    · exact ⟨headSent s, (congrArg Ports.htx hports :), headSent_get s⟩
    · exact ⟨netTaken net s, (congrArg Ports.netRx hports :), netTaken_get net s⟩
    · exact ⟨headTaken head s, (congrArg Ports.headRx hports :), headTaken_get head s⟩
    · rw [hnet]
      exact movedTest_still (p := .network) hstill
    · rw [hhead]
      exact movedTest_still (p := .headset) hstill
    · rw [hnet, ← receivedOn_slot net hslot]
      exact movedTest_acts (p := .network) hrun hheld _ _
    · rw [hhead, ← receivedOn_slot head hslot]
      exact movedTest_acts (p := .headset) hrun hheld _ _
    · refine hquiet ?_
      rw [periodRaises, testRaises, testRaises, ← hnet, ← hhead, if_pos h1, if_pos h2]
      rfl

/-! ## A period with no test (R13, R37) -/

theorem recordPeriod_closed {r : LegRec} (h : r.state = .closed) (sent : Option (Vector Sample 32)) : recordPeriod sent r = r := by
  simp [recordPeriod, LegRec.live, h]

theorem recordPeriod_live {r : LegRec} (h : r.state ≠ .closed) (sent : Option (Vector Sample 32)) : recordPeriod sent r =
    { r with ec := { r.ec with history := (recordedValue sent r :: r.ec.history).take 1599 } } :=
  if_pos (bne_iff_ne.2 h)

/-- Settles O59: with both tests OFF no port's record acts, so the slots carry what was formed and hand on what was received. -/
theorem samplePeriodMovesTheSamples : Obligations.SamplePeriodMovesTheSamples := by
  intro s net head hhold hserving hcarried hdue hnetOff hheadOff hnetHeld hheadHeld
  have hrest := carryPeriod_rest net head s
  have hnetActs : (acting s .network).state = .off := by rw [acting, State.held, hnetHeld]; exact hnetOff
  have hheadActs : (acting s .headset).state = .off := by rw [acting, State.held, hheadHeld]; exact hheadOff
  have hnet : movedNet net s = s.ports.netTest := movedTest_still (p := .network) (.inl hnetOff)
  have hhead : movedHead head s = s.ports.headTest := movedTest_still (p := .headset) (.inl hheadOff)
  have hquiet : (carryPeriod net head s).link = s.link := carryPeriod_quiet (by
    rw [periodRaises, hnet, hhead, testRaises, testRaises, if_pos rfl, if_pos rfl]
    rfl)
  have hsent : s.clock.mark ≠ .internal → ∃ v, netSent s = some v ∧ ∀ k : NetSlot, v[k] = s.ports.netTx[k].getD s.clock.period 0 :=
    fun hmark => by
      obtain ⟨v, hv, hget⟩ := netSent_get hmark
      exact ⟨v, hv, fun k => (hget k).trans (if_neg fun h => h.1 hnetActs)⟩
  refine ⟨carryPeriod net head s, exec_samplePeriod net head hhold hserving hcarried hdue, ?_⟩
  generalize carryPeriod net head s = t at hrest hquiet ⊢
  have hports : t.ports = (periodState net head s).ports := (congrArg State.ports hrest :)
  have hlegs : ∀ l, t.leg l = recordPeriod (netSent s) (s.leg l) := fun l =>
    (congrArg (fun u : State => u.leg l) hrest :).trans (State.leg_vmap s _ l)
  refine ⟨fun hmark => ?_, fun hmark => ?_, ?_, ?_, ?_, fun l hclosed => ?_, fun l k hlive hslot => ?_,
    (congrArg State.clock hrest :), (congrArg Ports.netTx hports :), (congrArg Ports.headTx hports :), ?_⟩
  · exact (congrArg Ports.ntx hports :).trans (if_pos hmark)
  · obtain ⟨v, hv, hget⟩ := hsent hmark
    exact ⟨v, (congrArg Ports.ntx hports :).trans hv, hget⟩
  · exact ⟨headSent s, (congrArg Ports.htx hports :), fun k => (headSent_get s k).trans (if_neg fun h => h.1 hheadActs)⟩
  · exact ⟨netTaken net s, (congrArg Ports.netRx hports :), fun k => (netTaken_get net s k).trans
      (if_congr ⟨fun h => h.1, fun h => ⟨h, fun hacts => hacts.1 hnetActs⟩⟩ rfl rfl)⟩
  · exact ⟨headTaken head s, (congrArg Ports.headRx hports :), fun k => (headTaken_get head s k).trans
      (if_neg fun h => h.1 hheadActs)⟩
  · rw [hlegs, recordPeriod_closed hclosed]
  · rw [hlegs, recordPeriod_live hlive]
    by_cases hmark : s.clock.mark = .internal
    · have hnone : netSent s = none := if_pos hmark
      rw [hnone, if_pos hmark]
      rfl
    · obtain ⟨v, hv, hget⟩ := hsent hmark
      rw [hv, if_neg hmark, ← hget k]
      simp only [recordedValue, hslot]
  · rw [hrest, hquiet]
    rfl

end Sys2Proof.Machine
end

section
/-! PROOF. The opening part of a frame start's service: its turns, and what it leaves (R152 to R155, R157). -/

namespace Sys2Proof.Machine

/-! ## The turns (R154) -/

section
variable {cost : AreaNo → Nat} {o : Opening}

theorem fetchTurn_stopped (h : o.fetchStopped = true) : fetchTurn cost o = o := if_pos h

theorem fetchTurn_serves {it : FetchItem} {more : List FetchItem} (h : o.fetchStopped = false) (hfetch : o.fetch = it :: more)
    (hfit : cost it.area ≤ o.units) : fetchTurn cost o =
      { o with units := o.units - cost it.area, fetch := more, served := o.served ++ [it] } := by
  simp only [fetchTurn, h, hfetch, if_pos hfit, Bool.false_eq_true, if_false]

theorem fetchTurn_stops (h : o.fetchStopped = false) (hnone : ∀ it, o.fetch.head? = some it → o.units < cost it.area) :
    fetchTurn cost o = { o with fetchStopped := true } := by
  cases hfetch : o.fetch with
  | nil => simp only [fetchTurn, h, hfetch, Bool.false_eq_true, if_false]
  | cons it more =>
    have hunfit : ¬ cost it.area ≤ o.units := Nat.not_le.2 (hnone it (by rw [hfetch]; rfl))
    simp only [fetchTurn, h, hfetch, if_neg hunfit, Bool.false_eq_true, if_false]

theorem fetchTurn_takes (cost : AreaNo → Nat) (o : Opening) : TakesFetchTurn cost o (fetchTurn cost o) :=
  ⟨fetchTurn_stopped, fun _ _ => fetchTurn_serves, fetchTurn_stops⟩

end

section
variable {cost : Leg → Nat} {o : Opening}

theorem adaptTurn_stopped (h : o.adaptStopped = true) : adaptTurn cost o = o := if_pos h

theorem adaptTurn_serves {l : Leg} {more : List Leg} (h : o.adaptStopped = false) (htodo : o.todo = l :: more)
    (hfit : cost l ≤ o.units) : adaptTurn cost o =
      { o with units := o.units - cost l, todo := more, granted := o.granted ++ [l] } := by
  simp only [adaptTurn, h, htodo, if_pos hfit, Bool.false_eq_true, if_false]

theorem adaptTurn_stops (h : o.adaptStopped = false) (hnone : ∀ l, o.todo.head? = some l → o.units < cost l) :
    adaptTurn cost o = { o with adaptStopped := true } := by
  cases htodo : o.todo with
  | nil => simp only [adaptTurn, h, htodo, Bool.false_eq_true, if_false]
  | cons l more =>
    have hunfit : ¬ cost l ≤ o.units := Nat.not_le.2 (hnone l (by rw [htodo]; rfl))
    simp only [adaptTurn, h, htodo, if_neg hunfit, Bool.false_eq_true, if_false]

theorem adaptTurn_takes (cost : Leg → Nat) (o : Opening) : TakesAdaptTurn cost o (adaptTurn cost o) :=
  ⟨adaptTurn_stopped, fun _ _ => adaptTurn_serves, adaptTurn_stops⟩

end

/-- A head that fits, or none. -/
theorem head_fits_or {α : Type} (xs : List α) (cost : α → Nat) (units : Nat) :
    (∃ x more, xs = x :: more ∧ cost x ≤ units) ∨ ∀ x, xs.head? = some x → units < cost x := by
  cases xs with
  | nil => exact .inr nofun
  | cons x more =>
    by_cases h : cost x ≤ units
    · exact .inl ⟨x, more, rfl, h⟩
    · refine .inr fun y hy => ?_
      obtain rfl : x = y := Option.some.inj hy
      omega

/-! ## What every turn keeps -/

/-- R153, R154: the units left and the charges of what was served make the spare, what was served of the fetch list is the front of
it, and a list that has stopped has no head that fits. -/
structure Opening.Sound (fcost : AreaNo → Nat) (acost : Leg → Nat) (spare : Nat) (items : List FetchItem) (o : Opening) : Prop where
  units : o.units + (o.served.map (fun it => fcost it.area)).sum + (o.granted.map acost).sum = spare
  fetch : o.served ++ o.fetch = items
  noFetch : o.fetchStopped = true → ∀ it, o.fetch.head? = some it → o.units < fcost it.area
  noAdapt : o.adaptStopped = true → ∀ l, o.todo.head? = some l → o.units < acost l

section
variable {fcost : AreaNo → Nat} {acost : Leg → Nat} {spare : Nat} {items : List FetchItem} {o : Opening}

theorem fetchTurn_sound (h : o.Sound fcost acost spare items) : (fetchTurn fcost o).Sound fcost acost spare items := by
  cases hstop : o.fetchStopped with
  | true =>
    rw [fetchTurn_stopped hstop]
    exact h
  | false =>
    rcases head_fits_or o.fetch (fun it => fcost it.area) o.units with ⟨it, more, hfetch, hfit⟩ | hnone
    · rw [fetchTurn_serves hstop hfetch hfit]
      refine ⟨?_, ?_, fun hs => absurd hs (by rw [hstop]; nofun), fun hs l hl => ?_⟩
      · have := h.units
        simp only [List.map_append, List.sum_append, List.map_cons, List.map_nil, List.sum_cons, List.sum_nil]
        omega
      · rw [List.append_assoc, List.singleton_append, ← hfetch]
        exact h.fetch
      · exact Nat.lt_of_le_of_lt (Nat.sub_le _ _) (h.noAdapt hs l hl)
    · rw [fetchTurn_stops hstop hnone]
      exact ⟨h.units, h.fetch, fun _ => hnone, h.noAdapt⟩

theorem adaptTurn_sound (h : o.Sound fcost acost spare items) : (adaptTurn acost o).Sound fcost acost spare items := by
  cases hstop : o.adaptStopped with
  | true =>
    rw [adaptTurn_stopped hstop]
    exact h
  | false =>
    rcases head_fits_or o.todo acost o.units with ⟨l, more, htodo, hfit⟩ | hnone
    · rw [adaptTurn_serves hstop htodo hfit]
      refine ⟨?_, h.fetch, fun hs it hit => ?_, fun hs => absurd hs (by rw [hstop]; nofun)⟩
      · have := h.units
        simp only [List.map_append, List.sum_append, List.map_cons, List.map_nil, List.sum_cons, List.sum_nil]
        omega
      · exact Nat.lt_of_le_of_lt (Nat.sub_le _ _) (h.noFetch hs it hit)
    · rw [adaptTurn_stops hstop hnone]
      exact ⟨h.units, h.fetch, h.noFetch, fun _ => hnone⟩

theorem adaptTurns_keeps {P : Opening → Prop} (hadapt : ∀ o, P o → P (adaptTurn acost o)) (k : Nat) {o : Opening} (h : P o) :
    P (adaptTurns acost k o) := by
  induction k generalizing o with
  | zero => exact h
  | succ k ih => exact ih (hadapt o h)

/-- The opening part keeps what each turn keeps. -/
theorem openingRounds_keeps {P : Opening → Prop} (hfetch : ∀ o, P o → P (fetchTurn fcost o))
    (hadapt : ∀ o, P o → P (adaptTurn acost o)) (ratio k : Nat) {o : Opening} (h : P o) :
    P (openingRounds fcost acost ratio k o) := by
  induction k generalizing o with
  | zero => exact h
  | succ k ih =>
    have hround := adaptTurns_keeps hadapt ratio (hfetch o h)
    simp only [openingRounds]
    split
    · exact hround
    · exact ih hround

/-! ## Both lists stop -/

/-- R154: the turns after which the fetch list has stopped. -/
def Opening.fetchLoad (o : Opening) : Nat := if o.fetchStopped = true then 0 else o.fetch.length + 1

/-- R154: the turns after which the adaptation list has stopped. -/
def Opening.adaptLoad (o : Opening) : Nat := if o.adaptStopped = true then 0 else o.todo.length + 1

theorem fetchTurn_load (o : Opening) :
    (fetchTurn fcost o).fetchLoad ≤ o.fetchLoad - 1 ∧ (fetchTurn fcost o).adaptLoad = o.adaptLoad := by
  cases hstop : o.fetchStopped with
  | true => simp [fetchTurn_stopped hstop, Opening.fetchLoad, hstop]
  | false =>
    rcases head_fits_or o.fetch (fun it => fcost it.area) o.units with ⟨it, more, hfetch, hfit⟩ | hnone
    · rw [fetchTurn_serves hstop hfetch hfit]
      simp [Opening.fetchLoad, Opening.adaptLoad, hstop, hfetch]
    · rw [fetchTurn_stops hstop hnone]
      simp [Opening.fetchLoad, Opening.adaptLoad]

theorem adaptTurn_load (o : Opening) :
    (adaptTurn acost o).adaptLoad ≤ o.adaptLoad - 1 ∧ (adaptTurn acost o).fetchLoad = o.fetchLoad := by
  cases hstop : o.adaptStopped with
  | true => simp [adaptTurn_stopped hstop, Opening.adaptLoad, hstop]
  | false =>
    rcases head_fits_or o.todo acost o.units with ⟨l, more, htodo, hfit⟩ | hnone
    · rw [adaptTurn_serves hstop htodo hfit]
      simp [Opening.fetchLoad, Opening.adaptLoad, hstop, htodo]
    · rw [adaptTurn_stops hstop hnone]
      simp [Opening.fetchLoad, Opening.adaptLoad]

theorem adaptTurns_load (k : Nat) (o : Opening) :
    (adaptTurns acost k o).adaptLoad ≤ o.adaptLoad - k ∧ (adaptTurns acost k o).fetchLoad = o.fetchLoad := by
  induction k generalizing o with
  | zero => exact ⟨le_rfl, rfl⟩
  | succ k ih =>
    obtain ⟨hadapt, hfetch⟩ := ih (adaptTurn acost o)
    obtain ⟨hone, hsame⟩ := adaptTurn_load (acost := acost) o
    exact ⟨by rw [adaptTurns]; omega, hfetch.trans hsame⟩

theorem Opening.fetchStopped_of_load {o : Opening} (h : o.fetchLoad = 0) : o.fetchStopped = true := by
  by_contra hstop
  rw [Opening.fetchLoad, if_neg hstop] at h
  omega

theorem Opening.adaptStopped_of_load {o : Opening} (h : o.adaptLoad = 0) : o.adaptStopped = true := by
  by_contra hstop
  rw [Opening.adaptLoad, if_neg hstop] at h
  omega

/-- R154: with as many rounds as its fetch list has turns, the opening part stops that list. -/
theorem openingRounds_fetchStopped {ratio k : Nat} {o : Opening} (h : o.fetchLoad ≤ k) :
    (openingRounds fcost acost ratio k o).fetchStopped = true := by
  induction k generalizing o with
  | zero => exact Opening.fetchStopped_of_load (Nat.le_zero.1 h)
  | succ k ih =>
    simp only [openingRounds]
    split
    · next hboth => exact (Bool.and_eq_true_iff.1 hboth).1
    · refine ih ?_
      rw [(adaptTurns_load ratio _).2]
      exact (fetchTurn_load o).1.trans (by omega)

theorem openingRounds_adaptStopped {ratio k : Nat} (hratio : 1 ≤ ratio) {o : Opening} (h : o.adaptLoad ≤ k) :
    (openingRounds fcost acost ratio k o).adaptStopped = true := by
  induction k generalizing o with
  | zero => exact Opening.adaptStopped_of_load (Nat.le_zero.1 h)
  | succ k ih =>
    simp only [openingRounds]
    split
    · next hboth => exact (Bool.and_eq_true_iff.1 hboth).2
    · refine ih ((adaptTurns_load ratio _).1.trans ?_)
      rw [(fetchTurn_load o).2]
      omega

/-! ## The turns in their order -/

/-- R154: turn i of the opening part. -/
def openingTurn (fcost : AreaNo → Nat) (acost : Leg → Nat) (ratio i : Nat) (o : Opening) : Opening :=
  if i % (ratio + 1) = 0 then fetchTurn fcost o else adaptTurn acost o

/-- R154: what the opening part has come to after n turns. -/
def openingTurns (fcost : AreaNo → Nat) (acost : Leg → Nat) (ratio : Nat) (o : Opening) : Nat → Opening
  | 0 => o
  | n + 1 => openingTurn fcost acost ratio n (openingTurns fcost acost ratio o n)

theorem openingTurns_adapts (ratio j : Nat) (o : Opening) {i k : Nat} (h : i + k ≤ ratio) :
    adaptTurns acost k (openingTurns fcost acost ratio o (j * (ratio + 1) + 1 + i)) =
      openingTurns fcost acost ratio o (j * (ratio + 1) + 1 + i + k) := by
  induction k generalizing i with
  | zero => rfl
  | succ k ih =>
    have hmod : (j * (ratio + 1) + 1 + i) % (ratio + 1) = 1 + i := by
      rw [Nat.add_assoc, Nat.mul_add_mod_self_right, Nat.mod_eq_of_lt (by omega)]
    have hturn : adaptTurn acost (openingTurns fcost acost ratio o (j * (ratio + 1) + 1 + i)) =
        openingTurns fcost acost ratio o (j * (ratio + 1) + 1 + (i + 1)) :=
      (if_neg (fun h0 => by rw [hmod] at h0; omega) : openingTurn fcost acost ratio (j * (ratio + 1) + 1 + i) _ = _).symm
    rw [adaptTurns, hturn, ih (by omega)]
    congr 1
    omega

theorem openingTurns_round (ratio j : Nat) (o : Opening) :
    adaptTurns acost ratio (fetchTurn fcost (openingTurns fcost acost ratio o (j * (ratio + 1)))) =
      openingTurns fcost acost ratio o ((j + 1) * (ratio + 1)) := by
  have hturn : fetchTurn fcost (openingTurns fcost acost ratio o (j * (ratio + 1))) =
      openingTurns fcost acost ratio o (j * (ratio + 1) + 1) :=
    (if_pos (Nat.mul_mod_left _ _) : openingTurn fcost acost ratio _ _ = _).symm
  rw [hturn]
  have hadapts := openingTurns_adapts (fcost := fcost) (acost := acost) ratio j o (i := 0) (k := ratio) (by omega)
  rw [Nat.add_zero] at hadapts
  rw [hadapts]
  congr 1
  rw [Nat.add_mul]
  omega

theorem openingRounds_turns (ratio k j : Nat) (o : Opening) : ∃ n,
    openingRounds fcost acost ratio k (openingTurns fcost acost ratio o (j * (ratio + 1))) = openingTurns fcost acost ratio o n := by
  induction k generalizing j with
  | zero => exact ⟨_, rfl⟩
  | succ k ih =>
    simp only [openingRounds, openingTurns_round]
    split
    · exact ⟨_, rfl⟩
    · exact ih (j + 1)

end

/-! ## The opening part on a state -/

/-- R152: the legs of the adaptation list that are eligible. -/
def eligibleLegs (s : State) : List Leg := s.work.list.filter (fun l => decide ((s.leg l).tail * 1024 ≤ (s.leg l).ec.lastPower))

/-- R153: what the opening part begins with. -/
def openingStart (s : State) : Opening :=
  { units := 2560 - s.work.commitment, fetch := s.fetch, served := [], todo := eligibleLegs s, granted := [],
    fetchStopped := false, adaptStopped := false }

theorem openingPart_eq (s : State) : openingPart s =
    openingRounds (fun a => (s.area a).cost) (fun l => (s.leg l).tail / 8) s.work.ratio
      (s.fetch.length + (eligibleLegs s).length + 2) (openingStart s) := rfl

theorem openingPart_sound (s : State) : (openingPart s).Sound (fun a => (s.area a).cost) (fun l => (s.leg l).tail / 8)
    (2560 - s.work.commitment) s.fetch := by
  have hstart : (openingStart s).Sound (fun a => (s.area a).cost) (fun l => (s.leg l).tail / 8) (2560 - s.work.commitment)
      s.fetch := ⟨rfl, rfl, fun h => (by cases h), fun h => (by cases h)⟩
  rw [openingPart_eq]
  exact openingRounds_keeps (fun _ h => fetchTurn_sound h) (fun _ h => adaptTurn_sound h) _ _ hstart

theorem openingPart_fetchStopped (s : State) : (openingPart s).fetchStopped = true := by
  rw [openingPart_eq]
  refine openingRounds_fetchStopped ?_
  simp only [Opening.fetchLoad, openingStart, Bool.false_eq_true, if_false]
  omega

theorem openingPart_adaptStopped {s : State} (h : 1 ≤ s.work.ratio) : (openingPart s).adaptStopped = true := by
  rw [openingPart_eq]
  refine openingRounds_adaptStopped h ?_
  simp only [Opening.adaptLoad, openingStart, Bool.false_eq_true, if_false]
  omega

theorem openingPart_turns (s : State) : ∃ n, openingPart s =
    openingTurns (fun a => (s.area a).cost) (fun l => (s.leg l).tail / 8) s.work.ratio (openingStart s) n := by
  rw [openingPart_eq]
  have h := openingRounds_turns (fcost := fun a => (s.area a).cost) (acost := fun l => (s.leg l).tail / 8) s.work.ratio
    (s.fetch.length + (eligibleLegs s).length + 2) 0 (openingStart s)
  rwa [Nat.zero_mul] at h

theorem openingPart_eligible (s : State) : (openingPart s).granted ++ (openingPart s).todo = eligibleLegs s := openingPart_legs s

/-! ## What the opening part leaves (R155, R157) -/

/-- R152: a leg's record judged, with no grant. -/
def judged (r : LegRec) : LegRec := { r with work := { r.work with granted := false, eligible := eligibleNow r } }

/-- R155: a served leg's record. -/
def served (r : LegRec) : LegRec := { r with work := { debt := 0, armed := true, granted := true, eligible := true } }

/-- R152: leg l's record when the legs of the list have been judged. -/
def judgedIn (s : State) (l : Leg) : LegRec := if l ∈ s.work.list then judged (s.leg l) else s.leg l

/-- Rounds that each change their own leg's record alone. -/
theorem foldl_leg {f : State → Leg → State} {g : LegRec → LegRec}
    (h : ∀ (s : State) (a l : Leg), (f s a).leg l = if l = a then g (s.leg l) else s.leg l) {ls : List Leg} (hnodup : ls.Nodup)
    (s : State) (l : Leg) : (ls.foldl f s).leg l = if l ∈ ls then g (s.leg l) else s.leg l := by
  induction ls generalizing s with
  | nil => rfl
  | cons a ls ih =>
    obtain ⟨ha, hnodup⟩ := List.nodup_cons.1 hnodup
    rw [List.foldl_cons, ih hnodup, h]
    by_cases hl : l = a
    · subst hl
      rw [if_neg ha, if_pos rfl, if_pos List.mem_cons_self]
    · simp only [List.mem_cons, hl, false_or, if_false]

theorem leg_setLeg_ite (s : State) (a l : Leg) (g : LegRec → LegRec) :
    (s.setLeg a (g (s.leg a))).leg l = if l = a then g (s.leg l) else s.leg l := by
  by_cases h : l = a
  · subst h
    rw [State.leg_setLeg_same, if_pos rfl]
  · rw [State.leg_setLeg_other _ _ _ _ h, if_neg h]

theorem raiseAll_leg (rs : List (Nat × Detail)) (s : State) (l : Leg) : (raiseAll rs s).leg l = s.leg l := by
  rw [raiseAll_eq]
  rfl

theorem settleDebt_leg (s : State) (a l : Leg) : (settleDebt a s).leg l = if l = a then owed (s.leg l) else s.leg l := by
  rw [settleDebt_eq, raiseAll_leg, leg_setLeg_ite]

/-- R152, R155: what the grants leave of the rest of the state. -/
theorem settleGrants_work (o : Opening) (s : State) :
    (settleGrants o s).work = { s.work with list := s.work.list.filter (fun l => decide (l ∉ o.granted)) ++ o.granted } := by
  have hclear : (s.work.list.foldl (fun s l => clearGrant l s) s).work = s.work :=
    foldl_keeps (g := State.work) (f := fun s l => clearGrant l s) (fun _ _ => rfl) _ _
  have hgrant : ∀ u : State, (o.granted.foldl (fun s l => grantLeg l s) u).work = u.work := fun u =>
    foldl_keeps (g := State.work) (f := fun s l => grantLeg l s) (fun _ _ => rfl) _ _
  have hfilter : (fun l => !o.granted.contains l) = fun l => decide (l ∉ o.granted) := by
    funext l
    rw [List.contains_eq_mem, decide_not]
  have hwork : (o.granted.foldl (fun s l => grantLeg l s) (s.work.list.foldl (fun s l => clearGrant l s) s)).work = s.work :=
    (hgrant _).trans hclear
  unfold settleGrants
  dsimp only
  generalize o.granted.foldl (fun s l => grantLeg l s) (s.work.list.foldl (fun s l => clearGrant l s) s) = t at hwork ⊢
  change ({ t.work with list := t.work.list.filter (fun l => !o.granted.contains l) ++ o.granted } : Work) = _
  rw [hwork, hfilter]

section
variable {o : Opening} {s : State}

theorem settleGrants_leg (hlist : s.work.list.Nodup) (hgranted : o.granted.Nodup) (l : Leg) : (settleGrants o s).leg l =
    if l ∈ o.granted then served (judgedIn s l) else judgedIn s l := by
  have hclear := foldl_leg (f := fun s l => clearGrant l s) (g := judged) (fun s a l => leg_setLeg_ite s a l judged) hlist s l
  have hgrant := foldl_leg (f := fun s l => grantLeg l s) (g := served) (fun s a l => leg_setLeg_ite s a l served) hgranted
    (s.work.list.foldl (fun s l => clearGrant l s) s) l
  unfold settleGrants
  dsimp only
  rw [hclear] at hgrant
  generalize o.granted.foldl (fun s l => grantLeg l s) (s.work.list.foldl (fun s l => clearGrant l s) s) = t at hgrant ⊢
  exact hgrant

theorem settleOpening_leg (htodo : o.todo.Nodup) (l : Leg) :
    (settleOpening o s).leg l = if l ∈ o.todo then owed ((settleGrants o s).leg l) else (settleGrants o s).leg l := by
  rw [settleOpening_split]
  exact foldl_leg (f := fun s l => settleDebt l s) settleDebt_leg htodo _ l

theorem settleOpening_work (o : Opening) (s : State) :
    (settleOpening o s).work = { s.work with list := s.work.list.filter (fun l => decide (l ∉ o.granted)) ++ o.granted } := by
  rw [settleOpening_split, ← settleGrants_work]
  refine foldl_keeps (g := State.work) (f := fun s l => settleDebt l s) (fun u l => ?_) _ _
  rw [settleDebt_eq, raiseAll_eq]
  rfl

/-- R157: the ADAPT_STARVEDs of the opening part. -/
theorem settleDebts_voices (ls : List Leg) (hnodup : ls.Nodup) (s : State) :
    Voices (ls.flatMap (fun l => debtRaises l (s.leg l))) (fun u => ls.foldl (fun s l => settleDebt l s) u) s := by
  induction ls generalizing s with
  | nil => exact .quiet rfl fun _ => rfl
  | cons a ls ih =>
    obtain ⟨ha, hnodup⟩ := List.nodup_cons.1 hnodup
    have hrest : ls.flatMap (fun l => debtRaises l ((settleDebt a s).leg l)) = ls.flatMap (fun l => debtRaises l (s.leg l)) :=
      List.flatMap_congr fun l hl => by
        rw [settleDebt_leg, if_neg (fun h : l = a => ha (h ▸ hl))]
    rw [List.flatMap_cons, ← hrest]
    exact (settleDebt_voices a s).comp (ih hnodup (settleDebt a s))

theorem debtRaises_flatMap (ls : List Leg) (r : Leg → LegRec) : ls.flatMap (fun l => debtRaises l (r l)) =
    (ls.filter (fun l => (r l).work.armed && decide (250 ≤ satInc 65535 (r l).work.debt))).map
      (fun l => (l.val, .adaptStarved (satInc 65535 (r l).work.debt) (r l).tail)) := by
  induction ls with
  | nil => rfl
  | cons a ls ih =>
    rw [List.flatMap_cons, ih, debtRaises, List.filter_cons]
    split <;> rfl

theorem settleOpening_raised (hlist : s.work.list.Nodup) (hgranted : o.granted.Nodup) (htodo : o.todo.Nodup)
    (hapart : ∀ l ∈ o.todo, l ∉ o.granted) :
    Voices ((o.todo.filter (fun l => (s.leg l).work.armed && decide (250 ≤ satInc 65535 (s.leg l).work.debt))).map
      (fun l => (l.val, .adaptStarved (satInc 65535 (s.leg l).work.debt) (s.leg l).tail))) (settleOpening o) s := by
  have hsame : o.todo.flatMap (fun l => debtRaises l ((settleGrants o s).leg l)) =
      o.todo.flatMap (fun l => debtRaises l (s.leg l)) := List.flatMap_congr fun l hl => by
    rw [settleGrants_leg hlist hgranted, if_neg (hapart l hl), judgedIn]
    split <;> rfl
  have hdebts := settleDebts_voices o.todo htodo (settleGrants o s)
  rw [hsame, debtRaises_flatMap] at hdebts
  exact (settleGrants_quiet o s).comp hdebts

end

section
variable {s : State} (hlist : s.work.list.Nodup)
include hlist

theorem openingPart_nodup : (openingPart s).granted.Nodup ∧ (openingPart s).todo.Nodup ∧
    ∀ l ∈ (openingPart s).todo, l ∉ (openingPart s).granted := by
  have hnodup : ((openingPart s).granted ++ (openingPart s).todo).Nodup := by
    rw [openingPart_eligible]
    exact hlist.filter _
  rw [List.nodup_append'] at hnodup
  exact ⟨hnodup.1, hnodup.2.1, fun l hl hgranted => hnodup.2.2 hgranted hl⟩

theorem settleOpening_granted {l : Leg} (hl : l ∈ (openingPart s).granted) :
    (settleOpening (openingPart s) s).leg l = served (s.leg l) := by
  obtain ⟨hgranted, htodo, hapart⟩ := openingPart_nodup hlist
  rw [settleOpening_leg htodo, if_neg fun h => hapart l h hl, settleGrants_leg hlist hgranted, if_pos hl, judgedIn]
  split <;> rfl

omit hlist in
theorem mem_eligible {l : Leg} : l ∈ (openingPart s).granted ∨ l ∈ (openingPart s).todo ↔
    l ∈ s.work.list ∧ (s.leg l).tail * 1024 ≤ (s.leg l).ec.lastPower := by
  rw [← List.mem_append, openingPart_eligible, eligibleLegs, List.mem_filter, decide_eq_true_iff]

theorem settleOpening_todo {l : Leg} (hl : l ∈ (openingPart s).todo) :
    (settleOpening (openingPart s) s).leg l = owed (judged (s.leg l)) ∧ eligibleNow (s.leg l) = true := by
  obtain ⟨hgranted, htodo, hapart⟩ := openingPart_nodup hlist
  obtain ⟨hmem, helig⟩ := mem_eligible.1 (.inr hl)
  rw [settleOpening_leg htodo, if_pos hl, settleGrants_leg hlist hgranted, if_neg (hapart l hl), judgedIn,
    if_pos hmem]
  exact ⟨rfl, decide_eq_true helig⟩

theorem settleOpening_other {l : Leg} (hmem : l ∈ s.work.list) (hlow : (s.leg l).ec.lastPower < (s.leg l).tail * 1024) :
    (settleOpening (openingPart s) s).leg l = judged (s.leg l) ∧ eligibleNow (s.leg l) = false := by
  obtain ⟨hgranted, htodo, _⟩ := openingPart_nodup hlist
  have hneither : ¬ (l ∈ (openingPart s).granted ∨ l ∈ (openingPart s).todo) :=
    mt mem_eligible.1 fun h => Nat.not_le.2 hlow h.2
  rw [not_or] at hneither
  rw [settleOpening_leg htodo, if_neg hneither.2, settleGrants_leg hlist hgranted, if_neg hneither.1, judgedIn,
    if_pos hmem]
  exact ⟨rfl, decide_eq_false (by omega)⟩

theorem settleOpening_unlisted {l : Leg} (hmem : l ∉ s.work.list) : (settleOpening (openingPart s) s).leg l = s.leg l := by
  obtain ⟨hgranted, htodo, _⟩ := openingPart_nodup hlist
  have hneither : ¬ (l ∈ (openingPart s).granted ∨ l ∈ (openingPart s).todo) := mt mem_eligible.1 fun h => hmem h.1
  rw [not_or] at hneither
  rw [settleOpening_leg htodo, if_neg hneither.2, settleGrants_leg hlist hgranted, if_neg hneither.1, judgedIn,
    if_neg hmem]

end

/-- Settles O53: each turn keeps the account of the units, enough turns stop both lists, and each leg takes its settlement once. -/
theorem openingPartSpendsTheSpare : Obligations.OpeningPartSpendsTheSpare := by
  refine ⟨fun s => ?_, fun s hlist => ?_⟩
  · have hsound := openingPart_sound s
    refine ⟨hsound.units, hsound.fetch, openingPart_eligible s, hsound.noFetch (openingPart_fetchStopped s),
      fun hratio => hsound.noAdapt (openingPart_adaptStopped hratio), fun hratio => ?_⟩
    obtain ⟨n, hn⟩ := openingPart_turns s
    refine ⟨n, _, rfl, fun i _ => ⟨fun hi => ?_, fun hi => ?_⟩, ?_, ?_, hn⟩
    · have hturn : openingTurn (fun a => (s.area a).cost) (fun l => (s.leg l).tail / 8) s.work.ratio i = fetchTurn _ :=
        funext fun o => if_pos hi
      rw [openingTurns, hturn]
      exact fetchTurn_takes _ _
    · have hturn : openingTurn (fun a => (s.area a).cost) (fun l => (s.leg l).tail / 8) s.work.ratio i = adaptTurn _ :=
        funext fun o => if_neg hi
      rw [openingTurns, hturn]
      exact adaptTurn_takes _ _
    · rw [← hn]
      exact openingPart_fetchStopped s
    · rw [← hn]
      exact openingPart_adaptStopped hratio
  · intro o t debt starves
    obtain ⟨hgranted, htodo, hapart⟩ := openingPart_nodup hlist
    have honly := settleOpening_only o s
    have hwork := settleOpening_work o s
    have hlink := (settleOpening_raised hlist hgranted htodo hapart).link
    refine ⟨fun l hl => settleOpening_granted hlist hl, fun l hl => ?_, fun l hl hlow => ?_, fun l => settleOpening_unlisted hlist,
      hwork, settleOpening_fetch o s, settleOpening_reads o s, hlink, ?_⟩
    · obtain ⟨hleg, helig⟩ := settleOpening_todo hlist hl
      rw [hleg, judged, helig]
      rfl
    · obtain ⟨hleg, hnot⟩ := settleOpening_other hlist hl hlow
      rw [hleg, judged, hnot]
    · have hwhole : ({ t with work := { t.work with list := s.work.list } } : State) = { t with work := s.work } := by
        rw [hwork]
      refine Eq.trans ?_ honly
      exact congrArg (fun u : State => ({ u with legs := s.legs, link := s.link, fetch := s.fetch, reads := s.reads } : State))
        hwhole.symm

end Sys2Proof.Machine
end

section
/-! PROOF. The arithmetic of a frame: the canceller (R38 to R50), the microphone (R60 to R67) and the mix (R8 to R12). -/

namespace Sys2Proof.Machine

/-! ## Sums, squares and peaks -/

theorem total_eq_sum (l : List Int) : total l = l.sum := List.sum_eq_foldl.symm

theorem energy_eq_sum (l : List Int) : energy l = (l.map (fun x => x.natAbs * x.natAbs)).sum := by
  rw [energy, foldl_add_eq_sum, Nat.zero_add]

theorem foldl_max_le {l : List Int} {k : Nat} (m : Nat) :
    l.foldl (fun acc x => max acc x.natAbs) m ≤ k ↔ m ≤ k ∧ ∀ x ∈ l, x.natAbs ≤ k := by
  induction l generalizing m with
  | nil => simp
  | cons x l ih => rw [List.foldl_cons, ih, Nat.max_le, List.forall_mem_cons, and_assoc]

theorem peak_le {l : List Int} {k : Nat} : peak l ≤ k ↔ ∀ x ∈ l, x.natAbs ≤ k := by
  rw [peak, foldl_max_le]
  exact and_iff_right (Nat.zero_le k)

theorem dot_eq_sum (xs ys : List Int) : dot xs ys = (List.zipWith (· * ·) xs ys).sum := total_eq_sum _

theorem saturate_of_range {x : Int} (hlo : -32768 ≤ x) (hhi : x ≤ 32767) : saturate x = x := by
  unfold saturate
  omega

theorem frameOf_eq (f : Nat → Int) : frameOf f = (List.range 64).map f := rfl

/-! ## The samples of a canceller's frame (R41 to R44) -/

section
variable (r : LegRec) (d : List Sample)

/-- R40: the values carried when a frame's first n samples have been processed. -/
def echoRun (n : Nat) : EchoRun :=
  (List.range n).foldl
    (fun a n => echoSample r.work.granted r.shift r.tail (window r.ec.history n r.bulk r.tail) (d.getD n 0) a)
    { taps := r.ec.taps, hangover := r.ec.hangover, doubleTalk := false, quiet := true, outs := [], power := 0 }

theorem echoRun_succ (n : Nat) : echoRun r d (n + 1) =
    echoSample r.work.granted r.shift r.tail (window r.ec.history n r.bulk r.tail) (d.getD n 0) (echoRun r d n) := by
  rw [echoRun, List.range_succ, List.foldl_append]
  rfl

theorem echoSamples_eq : echoSamples r d = echoRun r d 64 := by
  rw [echoSamples, echoRun, show Config.frameLen = 64 from rfl]

/-- R41: the residual of sample n. -/
def residual (n : Nat) : Int :=
  saturate (d.getD n 0 - predictEcho (echoRun r d n).taps (window r.ec.history n r.bulk r.tail))

/-- R43: whether sample n is detected as double talk. -/
def detects (n : Nat) : Prop := ∀ x ∈ window r.ec.history n r.bulk r.tail, x.natAbs ≤ 2 * (d.getD n 0).natAbs

theorem peak_detects (n : Nat) : peak (window r.ec.history n r.bulk r.tail) ≤ 2 * (d.getD n 0).natAbs ↔ detects r d n := peak_le

theorem echoRun_outs (n : Nat) : (echoRun r d n).outs.reverse = (List.range n).map (residual r d) := by
  induction n with
  | zero => rfl
  | succ n ih =>
    rw [echoRun_succ, List.range_succ, List.map_append, ← ih]
    exact List.reverse_cons

theorem echoRun_detected {n : Nat} (h : detects r d n) :
    (echoRun r d (n + 1)).hangover = 480 ∧ (echoRun r d (n + 1)).taps = (echoRun r d n).taps := by
  rw [echoRun_succ]
  simp only [echoSample, decide_eq_true ((peak_detects r d n).2 h), stepHangover]
  simp

theorem echoRun_undetected {n : Nat} (h : ¬ detects r d n) :
    (echoRun r d (n + 1)).hangover = (echoRun r d n).hangover - 1 ∧
      (echoRun r d (n + 1)).taps =
        if r.work.granted = true ∧ (echoRun r d (n + 1)).hangover = 0 ∧
            r.tail * 1024 ≤ energy (window r.ec.history n r.bulk r.tail) then
          updateTaps (updateCoefficient (residual r d n) r.shift (energy (window r.ec.history n r.bulk r.tail)) r.tail)
            (echoRun r d n).taps (window r.ec.history n r.bulk r.tail)
        else (echoRun r d n).taps := by
  rw [echoRun_succ]
  simp only [echoSample, decide_eq_false (mt (peak_detects r d n).1 h), stepHangover, residual]
  refine ⟨rfl, if_congr ?_ rfl rfl⟩
  simp [and_assoc]

theorem echoRun_power (n : Nat) : (echoRun r d (n + 1)).power = energy (window r.ec.history n r.bulk r.tail) := by
  rw [echoRun_succ]
  rfl

theorem echoRun_doubleTalk (n : Nat) : (echoRun r d n).doubleTalk = true ↔ ∃ k < n, detects r d k := by
  induction n with
  | zero => simp [echoRun]
  | succ n ih =>
    rw [echoRun_succ]
    simp only [echoSample, Bool.or_eq_true, ih, decide_eq_true_eq, peak_detects, Nat.lt_succ_iff_lt_or_eq, or_and_right,
      exists_or, exists_eq_left]

theorem echoRun_quiet (n : Nat) : (echoRun r d n).quiet = true ↔ ∀ k < n, (echoRun r d (k + 1)).hangover = 0 := by
  induction n with
  | zero => simp [echoRun]
  | succ n ih =>
    have hstep : (echoRun r d (n + 1)).quiet = ((echoRun r d n).quiet && (echoRun r d (n + 1)).hangover == 0) := by
      rw [echoRun_succ]
      rfl
    rw [hstep, Bool.and_eq_true, ih, beq_iff_eq, Nat.forall_lt_succ_right]

theorem residual_range (n : Nat) : -32768 ≤ residual r d n ∧ residual r d n ≤ 32767 := saturate_range _

theorem predictEcho_eq (taps xs : List Int) :
    predictEcho taps xs = saturate (((List.zipWith (· * ·) taps xs).sum + 2 ^ 29) / 2 ^ 30) := by
  rw [predictEcho, roundShift, dot_eq_sum]

theorem updateCoefficient_eq (e : Int) (shift tail : Nat) (xs : List Int) :
    updateCoefficient e shift (energy xs) tail =
      (e * 2 ^ (30 - shift)).tdiv (((xs.map (fun x => x.natAbs * x.natAbs)).sum : Nat) + (tail : Int) * 256) := by
  rw [updateCoefficient, energy_eq_sum]
  push_cast
  rfl

/-- R46: the outputs of a frame. -/
theorem echoFrame_outs : (echoFrame r d).2 = (List.range 64).map (fun n =>
    if (echoFrame r d).1.ec.nlpApplied then (residual r d n + 4) / 8 else residual r d n) := by
  have houts : (echoFrame r d).2 = if (echoFrame r d).1.ec.nlpApplied then (echoSamples r d).outs.reverse.map attenuate
      else (echoSamples r d).outs.reverse := rfl
  rw [houts, echoSamples_eq, echoRun_outs]
  cases (echoFrame r d).1.ec.nlpApplied with
  | false => rfl
  | true => exact List.map_map

theorem echoFrame_nlp : (echoFrame r d).1.ec.nlpApplied = true ↔
    r.nlp = true ∧ (∀ n < 64, (echoRun r d (n + 1)).hangover = 0) ∧ 65536 ≤ (echoFrame r d).1.ec.ex := by
  have hnlp : (echoFrame r d).1.ec.nlpApplied = (r.nlp && (echoSamples r d).quiet && decide (65536 ≤ (echoFrame r d).1.ec.ex)) := rfl
  rw [hnlp, echoSamples_eq, Bool.and_eq_true, Bool.and_eq_true, echoRun_quiet, decide_eq_true_iff, and_assoc]

theorem echoFrame_range : ∀ y ∈ (echoFrame r d).2, -32768 ≤ y ∧ y ≤ 32767 := by
  intro y hy
  rw [echoFrame_outs] at hy
  obtain ⟨n, -, rfl⟩ := List.mem_map.1 hy
  have hres := residual_range r d n
  have hout : -32768 ≤ (if (echoFrame r d).1.ec.nlpApplied then (residual r d n + 4) / 8 else residual r d n) ∧
      (if (echoFrame r d).1.ec.nlpApplied then (residual r d n + 4) / 8 else residual r d n) ≤ 32767 := by
    split <;> omega
  exact hout

end

/-! ## A silent reference (R39) -/

section
variable {r : LegRec} {d : List Sample} (hsilent : ∀ x ∈ r.ec.history, x = 0)
include hsilent

theorem window_silent (n : Nat) : ∀ x ∈ window r.ec.history n r.bulk r.tail, x = 0 := fun x hx =>
  hsilent x (List.mem_of_mem_drop (List.mem_of_mem_drop (List.mem_of_mem_take hx)))

theorem detects_silent (n : Nat) : detects r d n := fun x hx => by
  rw [window_silent hsilent n x hx]
  exact Nat.zero_le _

omit hsilent in
theorem sum_squares_silent {l : List Int} (h : ∀ x ∈ l, x = 0) : (l.map (fun x => x.natAbs * x.natAbs)).sum = 0 := by
  rw [List.sum_eq_zero_iff]
  intro y hy
  obtain ⟨x, hx, rfl⟩ := List.mem_map.1 hy
  rw [h x hx]
  rfl

omit hsilent in
theorem sum_products_silent (hs : List Int) {xs : List Int} (h : ∀ x ∈ xs, x = 0) : (List.zipWith (· * ·) hs xs).sum = 0 := by
  induction hs generalizing xs with
  | nil => rfl
  | cons k hs ih =>
    cases xs with
    | nil => rfl
    | cons x xs =>
      obtain ⟨hx, hxs⟩ := List.forall_mem_cons.1 h
      rw [List.zipWith_cons_cons, List.sum_cons, ih hxs, hx, Int.mul_zero]
      rfl

theorem residual_silent (hd : ∀ x ∈ d, -32768 ≤ x ∧ x ≤ 32767) {n : Nat} (hn : n < d.length) :
    residual r d n = d[n] := by
  have hpredicted : saturate (((0 : Int) + 2 ^ 29) / 2 ^ 30) = 0 := by decide
  rw [residual, predictEcho_eq, sum_products_silent _ (window_silent hsilent n), List.getD_eq_getElem d 0 hn, hpredicted,
    Int.sub_zero]
  exact saturate_of_range (hd d[n] (List.getElem_mem hn)).1 (hd d[n] (List.getElem_mem hn)).2

theorem echoRun_silent (n : Nat) : (echoRun r d n).taps = r.ec.taps := by
  induction n with
  | zero => rfl
  | succ n ih => rw [(echoRun_detected r d (detects_silent hsilent n)).2, ih]

end

/-- Settles O36: the run over the samples keeps each rule's step, and a silent reference detects double talk at every one. -/
theorem echoFrameKeepsItsBounds : Obligations.EchoFrameKeepsItsBounds := by
  refine ⟨fun r d => ?_, fun r d hsilent hlen hd => ?_⟩
  · intro sq w t
    have hrun := echoSamples_eq r d
    have her : t.ec.er = energy (echoSamples r d).outs.reverse := rfl
    have hpower : t.ec.lastPower = (echoSamples r d).power := rfl
    have htalk : t.ec.doubleTalk = (echoSamples r d).doubleTalk := rfl
    refine ⟨fun n => (echoRun r d n).taps, fun n => (echoRun r d n).hangover, residual r d, rfl, rfl, fun n _ => ?_,
      congrArg EchoRun.taps hrun, congrArg EchoRun.hangover hrun, ?_, ?_, energy_eq_sum d, ?_, energy_eq_sum _,
      echoFrame_nlp r d, echoFrame_outs r d, rfl, rfl, rfl, rfl, rfl, echoFrame_range r d⟩
    · intro detected updates c
      refine ⟨by rw [residual, predictEcho_eq]; rfl, fun h => echoRun_detected r d h, fun h => ?_⟩
      obtain ⟨hhang, htaps⟩ := echoRun_undetected r d h
      rw [energy_eq_sum] at htaps
      refine ⟨hhang, fun hup => htaps.trans ((if_pos hup).trans ?_), fun hup => htaps.trans (if_neg hup)⟩
      rw [← energy_eq_sum, updateCoefficient_eq]
      rfl
    · rw [hpower, hrun, echoRun_power, energy_eq_sum]
      rfl
    · rw [htalk, hrun, echoRun_doubleTalk]
      rfl
    · rw [her, hrun, echoRun_outs, energy_eq_sum]
  · have hrun := echoSamples_eq r d
    have hex : (echoFrame r d).1.ec.ex = 0 := (energy_eq_sum _).trans
      (sum_squares_silent fun x hx => hsilent x (List.mem_of_mem_drop (List.mem_of_mem_take hx)))
    have hnlp : (echoFrame r d).1.ec.nlpApplied = false := Bool.eq_false_iff.2 fun h => by
      have := ((echoFrame_nlp r d).1 h).2.2
      omega
    refine ⟨?_, ?_, ?_, ?_, hex, ?_, ?_⟩
    · rw [echoFrame_outs, hnlp]
      refine List.ext_getElem (by simp [hlen]) fun n _ hn => ?_
      rw [List.getElem_map, List.getElem_range]
      exact residual_silent hsilent hd hn
    · exact (congrArg EchoRun.taps hrun).trans (echoRun_silent hsilent 64)
    · exact (congrArg EchoRun.hangover hrun).trans (echoRun_detected r d (detects_silent hsilent 63)).1
    · have hpower : (echoFrame r d).1.ec.lastPower = (echoSamples r d).power := rfl
      rw [hpower, hrun, echoRun_power, energy_eq_sum]
      exact sum_squares_silent (window_silent hsilent 63)
    · have htalk : (echoFrame r d).1.ec.doubleTalk = (echoSamples r d).doubleTalk := rfl
      rw [htalk, hrun, echoRun_doubleTalk]
      exact ⟨0, by decide, detects_silent hsilent 0⟩
    · have hdiv : (echoFrame r d).1.ec.divergence = stepDivergence (echoFrame r d).1.ec.ed (echoFrame r d).1.ec.er
          (echoFrame r d).1.ec.ex r.ec.divergence := rfl
      rw [hdiv, hex]
      exact if_neg fun h => by have := h.1; omega

/-! ## The samples of a microphone's frame (R61, R62) -/

/-- R62: a band state after n samples that move it toward x by a shift of k. -/
def bandState (k : Nat) (x : Nat → Int) (s : Int) : Nat → Int
  | 0 => s
  | n + 1 => bandState k x s n + (x n - bandState k x s n) / 2 ^ k

section
variable (m : Mic) (raw : List Sample)

/-- R61: 256 times the trimmed sample n. -/
def trimmedSample (n : Nat) : Int := 256 * saturate (((raw.getD n 0 - m.offset) * m.trim + 2048) / 4096)

/-- R62: the four band values of sample n. -/
def bandValues (n : Nat) : Bands Int :=
  let x := trimmedSample m raw
  ⟨bandState 3 x m.s1 (n + 1), bandState 2 x m.s2 (n + 1) - bandState 3 x m.s1 (n + 1),
    bandState 1 x m.s3 (n + 1) - bandState 2 x m.s2 (n + 1), x n - bandState 1 x m.s3 (n + 1)⟩

theorem map_eq_range {α β : Type} (f : α → β) (a : α) (xs : List α) :
    xs.map f = (List.range xs.length).map (fun n => f (xs.getD n a)) := by
  refine List.ext_getElem (by simp) fun n h1 h2 => ?_
  rw [List.getElem_map, List.getElem_map, List.getElem_range, List.getD_eq_getElem xs a (by simpa using h1)]

theorem bandRun_eq (n : Nat) :
    ((List.range n).map (fun n => trimSample m.trim m.offset (raw.getD n 0))).foldl (fun a x => bandSample x a)
      { s1 := m.s1, s2 := m.s2, s3 := m.s3, held := [] } =
    { s1 := bandState 3 (trimmedSample m raw) m.s1 n, s2 := bandState 2 (trimmedSample m raw) m.s2 n,
      s3 := bandState 1 (trimmedSample m raw) m.s3 n, held := ((List.range n).map (bandValues m raw)).reverse } := by
  induction n with
  | zero => rfl
  | succ n ih =>
    rw [List.range_succ, List.map_append, List.foldl_append, ih, List.map_append, List.reverse_append]
    rfl

/-- R61, R62: what the samples of a frame leave of the bands. -/
theorem micRun_eq : (raw.map (trimSample m.trim m.offset)).foldl (fun a x => bandSample x a)
      { s1 := m.s1, s2 := m.s2, s3 := m.s3, held := [] } =
    { s1 := bandState 3 (trimmedSample m raw) m.s1 raw.length, s2 := bandState 2 (trimmedSample m raw) m.s2 raw.length,
      s3 := bandState 1 (trimmedSample m raw) m.s3 raw.length,
      held := ((List.range raw.length).map (bandValues m raw)).reverse } := by
  rw [map_eq_range _ 0, bandRun_eq]

end

theorem bandEnergy_eq (f : Nat → Int) (n : Nat) : bandEnergy ((List.range n).map f) =
    ((List.range n).map (fun k => (f k / 256).natAbs * (f k / 256).natAbs)).sum := by
  rw [bandEnergy, energy_eq_sum, List.map_map, List.map_map]
  rfl

/-- R66: a gain falls by an eighth at most, and no lower than its target. -/
theorem stepGain_eq (floorGain : Nat) (speech : Bool) (g : Nat) : stepGain floorGain speech g =
    if speech then max 32768 (g - g / 8) else max floorGain (g - g / 8) := by
  unfold stepGain
  dsimp only
  cases speech with
  | true =>
    rw [if_pos rfl, if_pos rfl]
    split <;> omega
  | false =>
    rw [if_neg Bool.false_ne_true, if_neg Bool.false_ne_true]
    split <;> omega

theorem micOutput_eq (g : Bands Nat) (b : Bands Int) : micOutput g b =
    saturate ((b.b1 * g.b1 + b.b2 * g.b2 + b.b3 * g.b3 + b.b4 * g.b4 + 4194304) / 8388608) := by
  simp only [micOutput, roundShift, total_eq_sum, Bands.map2, Bands.toList, List.sum_cons, List.sum_nil, Int.add_zero,
    ← Int.add_assoc]
  rfl

/-- Settles O39: the states of the bands run along the samples, and the frame's steps are taken on the values they leave. -/
theorem micFrameKeepsItsBounds : Obligations.MicFrameKeepsItsBounds := by
  intro m raw
  refine ⟨trimmedSample m raw, bandState 3 (trimmedSample m raw) m.s1, bandState 2 (trimmedSample m raw) m.s2,
    bandState 1 (trimmedSample m raw) m.s3, fun n => rfl, rfl, rfl, rfl, fun n => ⟨rfl, rfl, rfl⟩, ?_⟩
  intro r sum floor gain
  have hrun := micRun_eq m raw
  have hheld : ((raw.map (trimSample m.trim m.offset)).foldl (fun a x => bandSample x a)
      { s1 := m.s1, s2 := m.s2, s3 := m.s3, held := [] }).held.reverse = (List.range raw.length).map (bandValues m raw) := by
    rw [hrun, List.reverse_reverse]
  have hband : ∀ f : Bands Int → Int, bandEnergy ((((raw.map (trimSample m.trim m.offset)).foldl (fun a x => bandSample x a)
      { s1 := m.s1, s2 := m.s2, s3 := m.s3, held := [] }).held.reverse).map f) = sum (fun n => f (bandValues m raw n)) :=
    fun f => by
      rw [hheld, List.map_map]
      exact bandEnergy_eq _ _
  have hgain : ∀ speech g, stepGain m.floorGain speech g = gain speech g := stepGain_eq m.floorGain
  have hout : (micFrame m raw).2 = (List.range raw.length).map (fun n => micOutput r.gains (bandValues m raw n)) :=
    (congrArg (List.map (micOutput r.gains)) hheld).trans List.map_map
  refine ⟨congrArg BandRun.s1 hrun, congrArg BandRun.s2 hrun, congrArg BandRun.s3 hrun, ?_, rfl, rfl, rfl, ?_, rfl, rfl, ?_, rfl,
    rfl, rfl, ?_, ?_⟩
  · exact Bands.mk.injEq .. |>.mpr ⟨hband Bands.b1, hband Bands.b2, hband Bands.b3, hband Bands.b4⟩
  · simp only [r, micFrame, Bands.toList, Bool.decide_eq_true]
    rfl
  · exact Bands.mk.injEq .. |>.mpr ⟨hgain _ _, hgain _ _, hgain _ _, hgain _ _⟩
  · rw [hout]
    exact List.map_congr_left fun n _ => micOutput_eq _ _
  · intro y hy
    rw [hout] at hy
    obtain ⟨n, -, rfl⟩ := List.mem_map.1 hy
    exact saturate_range _

/-! ## The mix (R8 to R12) -/

theorem legOnSlot_none {s : State} {k : NetSlot} (h : ∀ l, (s.leg l).state ≠ .closed → (s.leg l).slot ≠ some k) :
    legOnSlot s k = none := by
  refine List.find?_eq_none.2 fun l _ hl => ?_
  rw [Bool.and_eq_true, beq_iff_eq] at hl
  exact h l (bne_iff_ne.1 hl.1) hl.2

theorem legOnSlot_some {s : State} {k : NetSlot} {l : Leg} (hlive : (s.leg l).state ≠ .closed) (hslot : (s.leg l).slot = some k)
    (halone : ∀ j, j ≠ l → (s.leg j).state ≠ .closed → (s.leg j).slot ≠ some k) : legOnSlot s k = some l := by
  cases hfound : legOnSlot s k with
  | none =>
    have := List.find?_eq_none.1 hfound l (List.mem_finRange l)
    rw [Bool.and_eq_true, beq_iff_eq] at this
    exact absurd ⟨bne_iff_ne.2 hlive, hslot⟩ this
  | some j =>
    have hj := List.find?_some hfound
    rw [Bool.and_eq_true, beq_iff_eq] at hj
    by_contra hne
    exact halone j (fun h => hne (congrArg some h)) (bne_iff_ne.1 hj.1) hj.2

theorem groupSum_eq (s : State) (x : MixIn) (n : Nat) (g : Group) (self : Option Member) (except : Option Position) :
    groupSum s x n g self except = (((s.members g).filter (fun m => some m != self)).map (memberTerm s x n)).sum +
      ((s.members g).map (bargeTerm s x n except)).sum := by
  rw [groupSum, total_eq_sum, total_eq_sum]

theorem outboundSample_opened {s : State} (x : MixIn) {l : Leg} {g : Group} (h : (s.leg l).state = .opened)
    (hg : (s.leg l).group = some g) (n : Nat) : outboundSample s x l n =
      outboundValue (groupSum s x n g (some (.leg l)) none) := by
  simp only [outboundSample, h, hg]

theorem outboundSample_alone {s : State} (x : MixIn) {l : Leg} (h : (s.leg l).state = .opened)
    (hg : (s.leg l).group = none) (n : Nat) : outboundSample s x l n = 0 := by
  simp only [outboundSample, h, hg]

theorem outboundSample_held {s : State} (x : MixIn) {l : Leg} {m : Source} (h : (s.leg l).state = .held)
    (hm : (s.leg l).source = some m) (n : Nat) : outboundSample s x l n = heldValue (x.music[m].getD n 0) (s.leg l).ramp := by
  simp only [outboundSample, h, hm]

section
variable {s : State} {x : MixIn} {p : Position} {n : Nat}

theorem bargeTerm_none {a : Position} {except : Option Position} (h : s.supervision.find? (fun k => k.agent == a) = none) :
    bargeTerm s x n except (.pos a) = 0 := by
  have hagent : asAgent s a = none := h
  simp only [bargeTerm, hagent]

theorem bargeTerm_some {a : Position} {except : Option Position} {k : SupRec}
    (h : s.supervision.find? (fun k => k.agent == a) = some k) : bargeTerm s x n except (.pos a) =
      if k.mode = .barge ∧ some k.supervisor ≠ except then memberTerm s x n (.pos k.supervisor) else 0 := by
  have hagent : asAgent s a = some k := h
  simp only [bargeTerm, hagent]

theorem heardSum_grouped {g : Group} (h : (s.pos p).group = some g) :
    heardSum s x p n = groupSum s x n g (some (.pos p)) none := by
  simp only [heardSum, h]

theorem heardSum_supervises {k : SupRec} {g : Group} (h : (s.pos p).group = none) (hk : asSupervisor s p = some k)
    (hg : (s.pos k.agent).group = some g) : heardSum s x p n = groupSum s x n g none (some p) := by
  simp only [heardSum, h, hk, hg]

theorem heardSum_listens {k : SupRec} (h : (s.pos p).group = none) (hk : asSupervisor s p = some k)
    (hg : (s.pos k.agent).group = none) : heardSum s x p n = memberTerm s x n (.pos k.agent) := by
  simp only [heardSum, h, hk, hg]

theorem heardSum_alone (h : (s.pos p).group = none) (hk : asSupervisor s p = none) : heardSum s x p n = 0 := by
  simp only [heardSum, h, hk]

end

theorem earValue_eq (duck : Nat) (heard direct : Int) :
    earValue duck heard direct = saturate ((duck * heard + direct + 536870912) / 1073741824) := rfl

/-- Settles O21: each sample of a frame is its rule's sum, with the terms the model names. -/
theorem mixFormsEachFrame : Obligations.MixFormsEachFrame := by
  intro s x speaks voice term barge sum
  have hvoice : ∀ n p, memberTerm s x n (.pos p) = voice n p := fun n p => rfl
  have hterm : ∀ n, memberTerm s x n = term n := fun n => funext fun m => by
    cases m with
    | leg l => exact if_congr (by rw [audible, beq_iff_eq]) rfl rfl
    | pos p => rfl
  have hbarge : ∀ n except, bargeTerm s x n except = barge n except := fun n except => funext fun m => by
    cases m with
    | leg l => rfl
    | pos a =>
      cases hfind : s.supervision.find? (fun k => k.agent == a) with
      | none => exact (bargeTerm_none hfind).trans (by simp only [barge, hfind])
      | some k => exact (bargeTerm_some hfind).trans (by simp only [barge, hfind, hvoice])
  have hsum : ∀ n g self except, groupSum s x n g self except = sum n g self except := fun n g self except => by
    rw [groupSum_eq, hterm, hbarge]
  refine ⟨fun k hnone => ?_, fun k l hlive hslot halone => ?_, fun p => ?_⟩
  · rw [slotFrame, legOnSlot_none hnone]
    rfl
  · refine ⟨outboundSample s x l, by rw [slotFrame, legOnSlot_some hlive hslot halone]; rfl, fun n _ => ⟨fun h g hg => ?_,
      fun h hg => outboundSample_alone x h hg n, fun h m hm => outboundSample_held x h hm n⟩⟩
    rw [outboundSample_opened x h hg, hsum]
    rfl
  · refine ⟨earSample s x p, rfl, fun n _ => ⟨fun h => ?_, fun h => ⟨heardSum s x p n, directSum s x p n, ?_, fun g hg => ?_,
      fun k hg hk => ⟨fun g hagent => ?_, fun hagent => ?_⟩, fun hg hk => ?_, ?_⟩⟩⟩
    · exact if_neg (Bool.eq_false_iff.1 h)
    · rw [earSample, if_pos h, earValue_eq]
    · rw [heardSum_grouped hg, hsum]
    · rw [heardSum_supervises hg hk hagent, hsum]
    · rw [heardSum_listens hg hk hagent, hvoice]
    · exact heardSum_alone hg (List.find?_eq_none.2 fun k hmem h => hk k hmem (beq_iff_eq.1 h))
    · unfold directSum promptTerm coachTerm asAgent
      cases x.prompt[p] <;> cases s.supervision.find? (fun k => k.agent == p) <;> rfl

end Sys2Proof.Machine
end

section
/-! PROOF. The effects of the staged changes, and their application at a frame start (R18 to R30, R52, R72, R79, R81, R166 to R169). -/

namespace Sys2Proof.Machine

/-! ## A change that applies takes no notice of the pending lists -/

@[simp] theorem State.leg_withStages (s : State) (r l e : Stage) (k : Leg) : (s.withStages r l e).leg k = s.leg k := rfl

theorem applyOp_withStages (op : ChangeOp) (s : State) (r l e : Stage) :
    applyOp op (s.withStages r l e) = (applyOp op s).withStages r l e := by
  cases op with
  | legClose k =>
    by_cases h : (s.leg k).state = .closed
    · simp [applyOp, closeLeg, h]
    · rcases hg : (s.leg k).group with _ | g
      all_goals
        simp only [applyOp, closeLeg, State.leg_withStages, h, hg, if_false]
        rfl
  | groupAdd g m => cases m <;> rfl
  | groupRemove g m => cases m <;> rfl
  | hold k m =>
    cases h : (s.leg k).state <;> simp only [applyOp, holdLeg, State.leg_withStages, h]
    all_goals rfl
  | resume k =>
    cases h : (s.leg k).state <;> simp only [applyOp, resumeLeg, State.leg_withStages, h]
    rfl
  | mute p on => rfl
  | supervise sup a mode coach =>
    have hsame : asSupervisor (s.withStages r l e) sup = asSupervisor s sup := rfl
    simp only [applyOp, putSupervision, hsame]
    split <;> rfl
  | unsupervise sup => rfl
  | sendGain t gain => cases t <;> rfl
  | micSet p trim offset floor sidetone => rfl
  | echoSet k bulk shift nlp =>
    by_cases h : (s.leg k).state = .closed
    · simp [applyOp, setEcho, h]
    · cases bulk <;> simp only [applyOp, setEcho, State.leg_withStages, h, if_false] <;> rfl

theorem applyAll_withStages (cs : List Change) (s : State) (r l e : Stage) :
    applyAll cs (s.withStages r l e) = (applyAll cs s).withStages r l e := by
  induction cs generalizing s with
  | nil => rfl
  | cons c cs ih =>
    simp only [applyAll, List.foldl_cons] at ih ⊢
    rw [applyOp_withStages, ih]

theorem applyAll_append (xs ys : List Change) (s : State) : applyAll (xs ++ ys) s = applyAll ys (applyAll xs s) :=
  List.foldl_append

/-- The pending lists stand while changes apply. -/
theorem applyOp_stages (op : ChangeOp) (s : State) :
    (applyOp op s).routing = s.routing ∧ (applyOp op s).levels = s.levels ∧ (applyOp op s).echo = s.echo := by
  have h := applyOp_withStages op s s.routing s.levels s.echo
  have hs : s.withStages s.routing s.levels s.echo = s := rfl
  rw [hs] at h
  rw [h]
  exact ⟨rfl, rfl, rfl⟩

/-! ## The changes of one class (R166, R167) -/

/-- R167: whether a close among these changes purges a pending change. -/
def closing (cs : List Change) (x : Change) : Bool :=
  cs.any (fun y => match y.op with
    | .legClose l => namesLeg l x
    | _ => false)

/-- R167: what the closes among these changes leave of a pending list. -/
def spared (cs : List Change) (st : Stage) : Stage := { st with list := st.list.filter (fun x => !closing cs x) }

theorem closing_nil (x : Change) : closing [] x = false := rfl

theorem closing_cons (c : Change) (cs : List Change) (x : Change) : closing (c :: cs) x = (closing [c] x || closing cs x) := by
  rw [closing, List.any_cons, closing, List.any_cons, List.any_nil, Bool.or_false]
  rfl

theorem closing_none {cs : List Change} (h : ∀ y ∈ cs, ∀ l, y.op ≠ .legClose l) (x : Change) : closing cs x = false := by
  refine List.any_eq_false.2 fun y hy => ?_
  have := h y hy
  cases hop : y.op
  case legClose l => exact absurd hop (this l)
  all_goals exact Bool.false_ne_true

theorem spared_nothing {cs : List Change} {st : Stage} (h : ∀ x ∈ st.list, closing cs x = false) : spared cs st = st := by
  have hlist : st.list.filter (fun x => !closing cs x) = st.list := List.filter_eq_self.2 fun x hx => by rw [h x hx]; rfl
  rw [spared, hlist]

theorem spared_spared (c : Change) (cs : List Change) (st : Stage) : spared cs (spared [c] st) = spared (c :: cs) st := by
  have hfilter : ∀ x, (!closing cs x && !closing [c] x) = !closing (c :: cs) x := fun x => by
    rw [closing_cons c cs x, Bool.not_or, Bool.and_comm]
  simp only [spared, List.filter_filter, hfilter]

theorem closing_count (c : Change) (cs : List Change) (xs : List Change) :
    (xs.filter (closing [c])).length + ((xs.filter (fun x => !closing [c] x)).filter (closing cs)).length =
      (xs.filter (closing (c :: cs))).length := by
  induction xs with
  | nil => rfl
  | cons x xs ih =>
    have hx := closing_cons c cs x
    cases h1 : closing [c] x <;> cases h2 : closing cs x <;> rw [h1, h2] at hx <;>
      simp only [List.filter_cons, h1, h2, hx, Bool.not_false, Bool.not_true, Bool.or_false, Bool.or_true, if_true,
        Bool.false_eq_true, if_false, List.length_cons] <;> omega

/-- R76: whether a HOLD among these changes, applied to u, finds the leg OPEN. -/
def Freshly (u : State) (cs : List Change) (l : Leg) : Prop :=
  ∃ before x later m, cs = before ++ x :: later ∧ x.op = .hold l m ∧ ((applyAll before u).leg l).state = .opened

theorem freshly_nil (u : State) (l : Leg) : ¬ Freshly u [] l := by
  rintro ⟨before, x, later, m, hnil, -⟩
  cases before <;> cases hnil

theorem freshly_cons (u : State) (c : Change) (cs : List Change) (l : Leg) :
    Freshly u (c :: cs) l ↔ (∃ m, c.op = .hold l m ∧ (u.leg l).state = .opened) ∨ Freshly (applyOp c.op u) cs l := by
  constructor
  · rintro ⟨before, x, later, m, hlist, hop, hstate⟩
    cases before with
    | nil =>
      obtain ⟨rfl, rfl⟩ := List.cons.inj hlist
      exact .inl ⟨m, hop, hstate⟩
    | cons y before =>
      obtain ⟨rfl, rfl⟩ := List.cons.inj hlist
      exact .inr ⟨before, x, later, m, rfl, hop, hstate⟩
  · rintro (⟨m, hop, hstate⟩ | ⟨before, x, later, m, rfl, hop, hstate⟩)
    · exact ⟨[], c, cs, m, rfl, hop, hstate⟩
    · exact ⟨c :: before, x, later, m, rfl, hop, hstate⟩

theorem freshly_append (u : State) (xs ys : List Change) (l : Leg) :
    Freshly u (xs ++ ys) l ↔ Freshly u xs l ∨ Freshly (applyAll xs u) ys l := by
  induction xs generalizing u with
  | nil => exact (or_iff_right (freshly_nil u l)).symm
  | cons c cs ih =>
    rw [List.cons_append, freshly_cons, freshly_cons, ih, or_assoc]
    rfl

theorem freshly_withStages (u : State) (r l e : Stage) (cs : List Change) (k : Leg) :
    Freshly (u.withStages r l e) cs k ↔ Freshly u cs k := by
  simp only [Freshly, applyAll_withStages, State.leg_withStages]

theorem freshly_setStage (u : State) (c : ChangeClass) (st : Stage) (cs : List Change) (k : Leg) :
    Freshly (u.setStage c st) cs k ↔ Freshly u cs k := by
  cases c
  · exact freshly_withStages u st u.levels u.echo cs k
  · exact freshly_withStages u u.routing st u.echo cs k
  · exact freshly_withStages u u.routing u.levels st cs k

theorem applyChange_eq (a : Applied) (c : Change) :
    (applyChange a c).state = (applyOp c.op a.state).withStages a.state.routing (spared [c] a.state.levels) (spared [c] a.state.echo) ∧
    (applyChange a c).levelsDropped = a.levelsDropped + (a.state.levels.list.filter (closing [c])).length ∧
    (applyChange a c).echoDropped = a.echoDropped + (a.state.echo.list.filter (closing [c])).length := by
  obtain ⟨hrouting, hlevels, hecho⟩ := applyOp_stages c.op a.state
  have hstages : (applyOp c.op a.state).withStages a.state.routing a.state.levels a.state.echo = applyOp c.op a.state := by
    rw [← hrouting, ← hlevels, ← hecho]
  by_cases hclose : ∃ l, c.op = .legClose l
  · obtain ⟨l, hop⟩ := hclose
    have hclosing : closing [c] = namesLeg l := funext fun x => by simp only [closing, hop, List.any_cons, List.any_nil, Bool.or_false]
    have hchange : applyChange a c = purgeLeg l { a with state := applyOp c.op a.state } := by
      simp only [applyChange, hop]
    rw [hchange, spared, spared, hclosing, ← hlevels, ← hecho, ← hrouting]
    exact ⟨rfl, rfl, rfl⟩
  · have hnone : ∀ x, closing [c] x = false := closing_none fun y hy l hl => hclose ⟨l, by rwa [List.mem_singleton.1 hy] at hl⟩
    have hkept : ∀ st, spared [c] st = st := fun st => spared_nothing fun x _ => hnone x
    have hzero : ∀ xs : List Change, (xs.filter (closing [c])).length = 0 := fun xs => by
      rw [List.length_eq_zero_iff, List.filter_eq_nil_iff]
      exact fun x _ => by rw [hnone]; nofun
    have hchange : ∃ fresh, applyChange a c = { a with state := applyOp c.op a.state, fresh := fresh } := by
      cases hop : c.op
      case legClose l => exact absurd ⟨l, hop⟩ hclose
      case hold l m =>
        by_cases hopen : (a.state.leg l).state = .opened
        · exact ⟨l :: a.fresh, by simp only [applyChange, hop, if_pos hopen]⟩
        · exact ⟨a.fresh, by simp only [applyChange, hop, if_neg hopen]⟩
      all_goals exact ⟨a.fresh, by simp only [applyChange, hop]⟩
    obtain ⟨fresh, hchange⟩ := hchange
    rw [hkept, hkept, hstages, hzero, hzero, hchange]
    exact ⟨rfl, rfl, rfl⟩

theorem applyChange_fresh (a : Applied) (c : Change) (l : Leg) : l ∈ (applyChange a c).fresh ↔
    l ∈ a.fresh ∨ ∃ m, c.op = .hold l m ∧ (a.state.leg l).state = .opened := by
  cases hop : c.op
  case hold k m =>
    simp only [applyChange, hop]
    split
    · next h =>
      rw [List.mem_cons, or_comm]
      refine or_congr Iff.rfl ⟨fun hl => ⟨m, by rw [hl], hl ▸ h⟩, ?_⟩
      rintro ⟨m', hk, -⟩
      injection hk with hk
      exact hk.symm
    · next h =>
      refine (or_iff_left ?_).symm
      rintro ⟨m', hk, hstate⟩
      injection hk with hk
      exact h (hk ▸ hstate)
  all_goals
    simp only [applyChange, hop]
    refine (or_iff_left ?_).symm
    rintro ⟨m', hk, -⟩
    cases hk

/-- R166, R167: what the changes of a class make of the application. -/
theorem applyChanges_eq (cs : List Change) (a : Applied) :
    (cs.foldl applyChange a).state =
      (applyAll cs a.state).withStages a.state.routing (spared cs a.state.levels) (spared cs a.state.echo) ∧
    (cs.foldl applyChange a).levelsDropped = a.levelsDropped + (a.state.levels.list.filter (closing cs)).length ∧
    (cs.foldl applyChange a).echoDropped = a.echoDropped + (a.state.echo.list.filter (closing cs)).length ∧
    ∀ l, l ∈ (cs.foldl applyChange a).fresh ↔ l ∈ a.fresh ∨ Freshly a.state cs l := by
  induction cs generalizing a with
  | nil =>
    have hkept : ∀ st, spared [] st = st := fun st => spared_nothing fun x _ => closing_nil x
    have hzero : ∀ xs : List Change, (xs.filter (closing [])).length = 0 := fun xs => by
      rw [List.length_eq_zero_iff, List.filter_eq_nil_iff]
      exact fun x _ => by rw [closing_nil]; nofun
    refine ⟨?_, by rw [hzero]; rfl, by rw [hzero]; rfl, fun l => (or_iff_left (freshly_nil _ l)).symm⟩
    rw [hkept, hkept]
    rfl
  | cons c cs ih =>
    obtain ⟨hstate, hlevels, hecho⟩ := applyChange_eq a c
    obtain ⟨ihState, ihLevels, ihEcho, ihFresh⟩ := ih (applyChange a c)
    refine ⟨?_, ?_, ?_, fun l => ?_⟩
    · rw [List.foldl_cons, ihState, hstate, applyAll_withStages]
      simp only [State.withStages, spared_spared]
      rfl
    · rw [List.foldl_cons, ihLevels, hlevels, hstate, ← closing_count c cs, Nat.add_assoc]
      rfl
    · rw [List.foldl_cons, ihEcho, hecho, hstate, ← closing_count c cs, Nat.add_assoc]
      rfl
    · rw [List.foldl_cons, ihFresh, applyChange_fresh, hstate, freshly_withStages, freshly_cons, or_assoc]

/-! ## The classes in their order (R166) -/

/-- The classes that stand before c in an order. -/
def earlier (order : List ChangeClass) (c : ChangeClass) : List ChangeClass := order.takeWhile (· != c)

theorem earlier_new {order : List ChangeClass} {c : ChangeClass} (h : c ∉ order) : earlier order c = order :=
  List.takeWhile_eq_self_iff.2 fun _ hd => bne_iff_ne.2 fun hdc => h (hdc ▸ hd)

theorem earlier_append {order : List ChangeClass} {c : ChangeClass} (h : c ∈ order) (more : List ChangeClass) :
    earlier (order ++ more) c = earlier order c := by
  induction order with
  | nil => cases h
  | cons d order ih =>
    rw [List.cons_append, earlier, List.takeWhile_cons, earlier, List.takeWhile_cons]
    by_cases hd : d = c
    · rw [hd, bne_self_eq_false]
      rfl
    · rw [bne_iff_ne.2 hd]
      exact congrArg (d :: ·) (ih ((List.mem_cons.1 h).resolve_left fun hc => hd hc.symm))

theorem earlier_next {order : List ChangeClass} {c : ChangeClass} (h : c ∉ order) : earlier (order ++ [c]) c = order := by
  have hall : ∀ d ∈ order, (d != c) = true := fun d hd => bne_iff_ne.2 fun hdc => h (hdc ▸ hd)
  rw [earlier, List.takeWhile_append_of_pos hall, List.takeWhile_cons, bne_self_eq_false]
  exact List.append_nil _

theorem earlier_later {order : List ChangeClass} {c d : ChangeClass} (h : c ∉ order) (hd : c ≠ d) :
    earlier (order ++ [d]) c = order ++ [d] :=
  earlier_new fun hmem => (List.mem_append.1 hmem).elim h fun hmem => hd (List.mem_singleton.1 hmem)

section
variable (s : State) (order : List ChangeClass)

/-- R167: the changes of a class that a close has purged when its turn comes, or by the end. -/
def purgedIn (c : ChangeClass) : List Change :=
  if ChangeClass.routing ∈ earlier order c then (s.stage c).list.filter (closing s.routing.list) else []

/-- R167: the changes of a class that stand when its turn comes, or at the end. -/
def keptIn (c : ChangeClass) : List Change :=
  if ChangeClass.routing ∈ earlier order c then (s.stage c).list.filter (fun x => !closing s.routing.list x) else (s.stage c).list

/-- R166: a class's record when the classes of an order have applied. -/
def stageIn (c : ChangeClass) : Stage :=
  if c ∈ order then { s.stage c with list := [], latch := false } else { s.stage c with list := keptIn s order c }

/-- R166, R167: the application when the classes of an order have applied. -/
structure AppliedIn (x : Applied × List (ChangeClass × List Change)) : Prop where
  tables : x.1.state.withStages s.routing s.levels s.echo = applyAll (order.flatMap (keptIn s order)) s
  stages : ∀ c, x.1.state.stage c = stageIn s order c
  levelsDropped : x.1.levelsDropped = (purgedIn s order .levels).length
  echoDropped : x.1.echoDropped = (purgedIn s order .echo).length
  done : x.2 = order.map (fun c => (c, keptIn s order c))
  fresh : ∀ l, l ∈ x.1.fresh ↔ Freshly s (order.flatMap (keptIn s order)) l

end

theorem keptIn_subset {s : State} {order : List ChangeClass} {c : ChangeClass} : ∀ x ∈ keptIn s order c, x ∈ (s.stage c).list := by
  intro x hx
  unfold keptIn at hx
  split at hx
  · exact List.mem_of_mem_filter hx
  · exact hx

theorem classesHeld_stage {s : State} (h : ClassesHeld s) (c : ChangeClass) : ∀ x ∈ (s.stage c).list, x.op.cls = c := by
  cases c
  · exact h.1
  · exact h.2.1
  · exact h.2.2

theorem keptIn_append {s : State} {order : List ChangeClass} {c : ChangeClass} (h : c ∈ order) (more : List ChangeClass) :
    keptIn s (order ++ more) c = keptIn s order c := by rw [keptIn, earlier_append h, keptIn]

theorem keptIn_next {s : State} {order : List ChangeClass} {c : ChangeClass} (h : c ∉ order) :
    keptIn s (order ++ [c]) c = keptIn s order c := by rw [keptIn, earlier_next h, keptIn, earlier_new h]

theorem keptIn_routing {s : State} {order : List ChangeClass} (h : ChangeClass.routing ∉ order) :
    keptIn s order .routing = s.routing.list := if_neg (by rwa [earlier_new h])

/-- A class that is not ROUTING purges nothing. -/
theorem closing_other {s : State} (hclasses : ClassesHeld s) {order : List ChangeClass} {d : ChangeClass} (hd : d ≠ .routing)
    (x : Change) : closing (keptIn s order d) x = false := by
  refine closing_none (fun y hy l hl => hd ?_) x
  have hcls := classesHeld_stage hclasses d y (keptIn_subset y hy)
  rw [hl] at hcls
  exact hcls.symm

/-- R167: what class d's turn purges of class c's list. -/
theorem stage_purge {s : State} (hclasses : ClassesHeld s) {order : List ChangeClass} {d : ChangeClass} (hd : d ∉ order)
    (c : ChangeClass) :
    (purgedIn s order c).length + (((if c = d then ({ s.stage c with list := [], latch := false } : Stage) else stageIn s order c).list.filter
      (closing (keptIn s order d))).length) = (purgedIn s (order ++ [d]) c).length ∧
    spared (keptIn s order d) (if c = d then { s.stage c with list := [], latch := false } else stageIn s order c) =
      stageIn s (order ++ [d]) c := by
  have hempty : ∀ st : Stage, st.list = [] → spared (keptIn s order d) st = st := fun st hst =>
    spared_nothing fun x hx => absurd hx (by rw [hst]; nofun)
  by_cases hcd : c = d
  · subst hcd
    rw [if_pos rfl, hempty _ rfl, stageIn, if_pos (List.mem_append_right _ (List.mem_singleton_self _)), purgedIn, purgedIn,
      earlier_next hd, earlier_new hd]
    exact ⟨rfl, rfl⟩
  · rw [if_neg hcd]
    by_cases hmem : c ∈ order
    · have hst : stageIn s order c = { s.stage c with list := [], latch := false } := if_pos hmem
      have hst' : stageIn s (order ++ [d]) c = { s.stage c with list := [], latch := false } := if_pos (List.mem_append_left _ hmem)
      rw [hst, hst', hempty _ rfl, purgedIn, purgedIn, earlier_append hmem]
      exact ⟨rfl, rfl⟩
    · have hmem' : c ∉ order ++ [d] := fun h => (List.mem_append.1 h).elim hmem fun h => hcd (List.mem_singleton.1 h)
      have hst : stageIn s order c = { s.stage c with list := keptIn s order c } := if_neg hmem
      have hst' : stageIn s (order ++ [d]) c = { s.stage c with list := keptIn s (order ++ [d]) c } := if_neg hmem'
      rw [hst, hst']
      by_cases hrouting : d = .routing
      · subst hrouting
        have hbefore : ChangeClass.routing ∉ earlier order c := by rwa [earlier_new hmem]
        have hpast : ChangeClass.routing ∈ earlier (order ++ [ChangeClass.routing]) c := by
          rw [earlier_new hmem']
          exact List.mem_append_right _ (List.mem_singleton_self _)
        have hpurged : purgedIn s order c = [] := if_neg hbefore
        have hkept : keptIn s order c = (s.stage c).list := if_neg hbefore
        have hpurged' : purgedIn s (order ++ [.routing]) c = (s.stage c).list.filter (closing s.routing.list) := if_pos hpast
        have hkept' : keptIn s (order ++ [.routing]) c = (s.stage c).list.filter (fun x => !closing s.routing.list x) :=
          if_pos hpast
        rw [hpurged, hkept, hpurged', hkept', keptIn_routing hd]
        exact ⟨Nat.zero_add _, rfl⟩
      · have hiff : ChangeClass.routing ∈ order ++ [d] ↔ ChangeClass.routing ∈ order := by
          rw [List.mem_append, List.mem_singleton]
          exact or_iff_left fun h => hrouting h.symm
        have hnone := closing_other hclasses (order := order) hrouting
        have hzero : ∀ xs : List Change, (xs.filter (closing (keptIn s order d))).length = 0 := fun xs => by
          rw [List.length_eq_zero_iff, List.filter_eq_nil_iff]
          exact fun x _ => by rw [hnone]; nofun
        have hpurged : purgedIn s (order ++ [d]) c = purgedIn s order c := by
          simp only [purgedIn, earlier_new hmem, earlier_new hmem', hiff]
        have hkept : keptIn s (order ++ [d]) c = keptIn s order c := by
          simp only [keptIn, earlier_new hmem, earlier_new hmem', hiff]
        rw [hpurged, hkept]
        exact ⟨by rw [hzero]; rfl, spared_nothing fun x _ => hnone x⟩

/-- R166: one class's turn. -/
theorem AppliedIn.next {s : State} (hclasses : ClassesHeld s) {order : List ChangeClass} {a : Applied}
    {done : List (ChangeClass × List Change)} (h : AppliedIn s order (a, done)) {d : ChangeClass} (hd : d ∉ order) :
    AppliedIn s (order ++ [d]) (applyClass a d, done ++ [(d, (a.state.stage d).list)]) := by
  have hlist : (a.state.stage d).list = keptIn s order d := by
    rw [h.stages, stageIn, if_neg hd]
  obtain ⟨hstate, hlevels, hecho, hfresh⟩ := applyChanges_eq (keptIn s order d)
    { a with state := a.state.setStage d { a.state.stage d with list := [], latch := false } }
  have hclass : applyClass a d = (keptIn s order d).foldl applyChange
      { a with state := a.state.setStage d { a.state.stage d with list := [], latch := false } } := by rw [← hlist]; rfl
  have hcleared : ∀ c, (a.state.setStage d { a.state.stage d with list := [], latch := false }).stage c =
      if c = d then { s.stage c with list := [], latch := false } else stageIn s order c := fun c => by
    by_cases hc : c = d
    · subst hc
      rw [State.stage_setStage_same, h.stages, stageIn, if_neg hd, if_pos rfl]
    · rw [State.stage_setStage_other _ _ _ _ hc, h.stages, if_neg hc]
  have hchanges : (order ++ [d]).flatMap (keptIn s (order ++ [d])) = order.flatMap (keptIn s order) ++ keptIn s order d := by
    rw [List.flatMap_append, List.flatMap_congr fun c hc => keptIn_append hc [d], List.flatMap_singleton, keptIn_next hd]
  rw [← hclass] at hstate hlevels hecho hfresh
  have hpurge := stage_purge hclasses hd
  refine ⟨?_, fun c => ?_, ?_, ?_, ?_, fun l => ?_⟩
  · have hpull : ∀ st : Stage, (a.state.setStage d st).withStages s.routing s.levels s.echo =
        a.state.withStages s.routing s.levels s.echo := fun st => by cases d <;> rfl
    dsimp only
    rw [hstate, hchanges, applyAll_append, ← h.tables, ← hpull { a.state.stage d with list := [], latch := false }]
    exact (applyAll_withStages (keptIn s order d) _ s.routing s.levels s.echo).symm
  · dsimp only
    rw [hstate]
    cases c with
    | routing =>
      refine (hcleared .routing).trans ?_
      by_cases hr : ChangeClass.routing = d
      · subst hr
        rw [if_pos rfl, stageIn, if_pos (by simp)]
      · rw [if_neg hr, stageIn, stageIn]
        by_cases hmem : ChangeClass.routing ∈ order
        · rw [if_pos hmem, if_pos (List.mem_append_left _ hmem)]
        · have hmem' : ChangeClass.routing ∉ order ++ [d] := by simp [hmem, hr]
          rw [if_neg hmem, if_neg hmem', keptIn_routing hmem, keptIn_routing hmem']
    | levels =>
      rw [← (hpurge .levels).2, ← hcleared]
      rfl
    | echo =>
      rw [← (hpurge .echo).2, ← hcleared]
      rfl
  · rw [hlevels, ← (hpurge .levels).1, ← hcleared]
    exact congrArg (· + _) h.levelsDropped
  · rw [hecho, ← (hpurge .echo).1, ← hcleared]
    exact congrArg (· + _) h.echoDropped
  · have hdone : done = order.map (fun c => (c, keptIn s order c)) := h.done
    dsimp only
    rw [hdone, List.map_append, List.map_congr_left fun c hc => by rw [← keptIn_append hc [d]], List.map_singleton, hlist,
      keptIn_next hd]
  · dsimp only
    rw [hfresh, hchanges, freshly_append, ← h.tables]
    exact or_congr (h.fresh l) ((freshly_setStage _ _ _ _ l).trans (freshly_withStages _ _ _ _ _ l).symm)

theorem applyInOrder_applied {s : State} (hclasses : ClassesHeld s) (rest : List ChangeClass) {order : List ChangeClass}
    (hnodup : (order ++ rest).Nodup) {x : Applied × List (ChangeClass × List Change)} (h : AppliedIn s order x) :
    AppliedIn s (order ++ rest) (applyInOrder rest x) := by
  induction rest generalizing order x with
  | nil =>
    rw [List.append_nil]
    exact h
  | cons d rest ih =>
    have hd : d ∉ order := fun hmem => (List.nodup_append'.1 hnodup).2.2 hmem List.mem_cons_self
    have hsplit : order ++ d :: rest = (order ++ [d]) ++ rest := by rw [List.append_assoc, List.singleton_append]
    rw [hsplit] at hnodup ⊢
    exact ih hnodup (h.next hclasses hd)

theorem applyOrder_nodup (s : State) : (applyOrder s).Nodup :=
  (shuffle_perm _ _).nodup_iff.2 (List.Nodup.filter _ (by decide))

theorem mem_applyOrder (s : State) (c : ChangeClass) : c ∈ applyOrder s ↔
    (decide ((s.stage c).list ≠ []) && ((s.stage c).nextFrame || (s.stage c).latch)) = true := by
  have hall : c ∈ [ChangeClass.routing, .levels, .echo] := by cases c <;> decide
  rw [applyOrder, (shuffle_perm _ _).mem_iff, List.mem_filter, and_iff_right hall, classDue, Bool.and_comm]
  cases (s.stage c).list <;> simp

/-- R166 to R168: the application of a frame start, in the order the part takes. -/
theorem applying_applied {s : State} (hclasses : ClassesHeld s) : AppliedIn s (applyOrder s) (applying s) := by
  have hkept : ∀ c, keptIn s [] c = (s.stage c).list := fun c => if_neg (by nofun)
  refine applyInOrder_applied hclasses (applyOrder s) (order := []) (applyOrder_nodup s)
    ⟨rfl, fun c => ?_, rfl, rfl, rfl, fun l => ⟨fun h => (by cases h), fun h => absurd h (freshly_nil s l)⟩⟩
  rw [stageIn, if_neg (by nofun), hkept]

theorem appliedOf_map (f : ChangeClass → List Change) (order : List ChangeClass) (c : ChangeClass) :
    appliedOf c (order.map (fun c => (c, f c))) = if c ∈ order then f c else [] := by
  induction order with
  | nil => rfl
  | cons d order ih =>
    rw [List.map_cons, appliedOf, List.find?_cons]
    by_cases hd : d = c
    · subst hd
      rw [beq_self_eq_true, if_pos List.mem_cons_self]
      rfl
    · have hne : (d == c) = false := beq_eq_false_iff_ne.2 hd
      have hmem : c ∈ d :: order ↔ c ∈ order := by
        rw [List.mem_cons]
        exact or_iff_right fun h => hd h.symm
      dsimp only
      rw [hne]
      simp only [hmem]
      exact ih

/-! ## What the application leaves (R166 to R169) -/

theorem stageApplication_state (s : State) (k : Link) :
    (stageApplication s).1.setLink k = (clearLatches (applying s).1.state).setLink k := by
  have h : (stageApplication s).1 = raiseApplied .echo (appliedOf .echo (applying s).2) (applying s).1.echoDropped
      (raiseApplied .levels (appliedOf .levels (applying s).2) (applying s).1.levelsDropped
        (raiseApplied .routing (appliedOf .routing (applying s).2) 0 (clearLatches (applying s).1.state))) := rfl
  rw [h, (raiseApplied_eq _ _ _ _).1, (raiseApplied_eq .levels _ _ _).1, (raiseApplied_eq .routing _ _ _).1]
  have hset : ∀ (u : State) (a b : Link), (u.setLink a).setLink b = u.setLink b := fun _ _ _ => rfl
  simp only [hset]

theorem clearLatches_stage (s : State) (c : ChangeClass) : (clearLatches s).stage c =
    if (s.stage c).nextFrame || (s.stage c).latch then { s.stage c with latch := false } else s.stage c := by cases c <;> rfl

section
variable {s : State} (hclasses : ClassesHeld s)
include hclasses

theorem stageApplication_tables : { (stageApplication s).1 with
    routing := s.routing, levels := s.levels, echo := s.echo, link := s.link } =
      applyAll ((applyOrder s).flatMap (keptIn s (applyOrder s))) s := by
  have hstate := stageApplication_state s s.link
  have hlink := applying_link s
  have htables := (applying_applied hclasses).tables
  generalize (stageApplication s).1 = t at hstate ⊢
  generalize (applying s).1.state = u at hstate hlink htables
  have hraised : ({ t with routing := s.routing, levels := s.levels, echo := s.echo, link := s.link } : State) =
      { u with routing := s.routing, levels := s.levels, echo := s.echo, link := s.link } :=
    (congrArg (fun v : State => v.withStages s.routing s.levels s.echo) hstate :)
  rw [hraised, ← htables, ← hlink]

theorem stageApplication_stage (c : ChangeClass) : (stageApplication s).1.stage c =
    { s.stage c with list := if c ∈ applyOrder s then [] else keptIn s (applyOrder s) c, latch := false } := by
  have hstate : (stageApplication s).1.stage c = (clearLatches (applying s).1.state).stage c := by
    have h := congrArg (fun u : State => u.stage c) (stageApplication_state s s.link)
    simpa only [State.stage_setLink] using h
  rw [hstate, clearLatches_stage, (applying_applied hclasses).stages, stageIn]
  by_cases hmem : c ∈ applyOrder s
  · rw [if_pos hmem, if_pos hmem]
    split <;> rfl
  · rw [if_neg hmem, if_neg hmem]
    dsimp only
    split
    · rfl
    · next h =>
      rw [Bool.or_eq_true, not_or] at h
      rw [← Bool.eq_false_iff.2 h.2]

theorem stageRaises_eq : stageRaises s = [ChangeClass.routing, .levels, .echo].flatMap (fun c =>
    appliedRaises c (if c ∈ applyOrder s then keptIn s (applyOrder s) c else []) (purgedIn s (applyOrder s) c).length) := by
  have happlied := applying_applied hclasses
  have hof : ∀ c, appliedOf c (applying s).2 = if c ∈ applyOrder s then keptIn s (applyOrder s) c else [] := fun c => by
    rw [happlied.done, appliedOf_map]
  have hnone : purgedIn s (applyOrder s) .routing = [] := if_neg fun h =>
    absurd (List.mem_takeWhile_imp h) (by rw [bne_self_eq_false]; nofun)
  rw [stageRaises, hof, hof, hof, happlied.levelsDropped, happlied.echoDropped]
  simp only [List.flatMap_cons, List.flatMap_nil, List.append_nil, hnone, List.length_nil, List.append_assoc]

end

/-! ## The effect of each change (R18, R20, R22, R23, R25, R26, R30, R52, R72, R79, R81) -/

theorem decide_ne_eq {α : Type} [DecidableEq α] (a b : α) : decide (a ≠ b) = (a != b) :=
  Bool.eq_iff_iff.2 (by rw [decide_eq_true_iff, bne_iff_ne])

section
variable {s : State} {l : Leg} (hlive : (s.leg l).state ≠ .closed)
include hlive

theorem closeLeg_alone (hgroup : (s.leg l).group = none) : applyOp (.legClose l) s =
    (s.setWork { s.work with commitment := s.work.commitment - ((s.leg l).tail / 16 + 4), list := s.work.list.filter (· != l) }).setLeg l
      blankLeg := by
  simp only [applyOp, closeLeg, legCost, if_neg hlive, hgroup]

theorem closeLeg_grouped {g : Group} (hgroup : (s.leg l).group = some g) : applyOp (.legClose l) s =
    (((s.setMembers g ((s.members g).filter (· != .leg l))).setLeg l { s.leg l with group := none }).setWork
      { s.work with commitment := s.work.commitment - ((s.leg l).tail / 16 + 4), list := s.work.list.filter (· != l) }).setLeg l
        blankLeg := by
  simp only [applyOp, closeLeg, legCost, if_neg hlive, hgroup]
  rfl

theorem closeLeg_effect :
    (applyOp (.legClose l) s).leg l = blankLeg ∧
    (∀ k, k ≠ l → (applyOp (.legClose l) s).leg k = s.leg k) ∧
    (∀ g, (s.leg l).group = some g → (applyOp (.legClose l) s).members g = (s.members g).filter (· != .leg l)) ∧
    (∀ g, (s.leg l).group ≠ some g → (applyOp (.legClose l) s).members g = s.members g) ∧
    (applyOp (.legClose l) s).work =
      { s.work with commitment := s.work.commitment - ((s.leg l).tail / 16 + 4), list := s.work.list.filter (· != l) } ∧
    { applyOp (.legClose l) s with legs := s.legs, groups := s.groups, work := s.work } = s := by
  cases hgroup : (s.leg l).group with
  | none =>
    rw [closeLeg_alone hlive hgroup]
    refine ⟨State.leg_setLeg_same _ _ _, fun k hk => State.leg_setLeg_other _ _ _ _ hk, fun g hsome => ?_,
      fun g _ => State.members_setLeg _ _ _ _, rfl, rfl⟩
    cases hsome
  | some g =>
    rw [closeLeg_grouped hlive hgroup]
    refine ⟨State.leg_setLeg_same _ _ _, fun k hk => ?_, fun g' hsome => ?_, fun g' hother => ?_, rfl, ?_⟩
    · rw [State.leg_setLeg_other _ _ _ _ hk]
      exact State.leg_setLeg_other _ _ _ _ hk
    · obtain rfl := Option.some.inj hsome
      exact State.members_setMembers_same _ _ _
    · exact State.members_setMembers_other _ _ _ _ fun h' => hother (congrArg some h'.symm)
    · simp only [State.setLeg, State.setWork, State.setMembers]

end

theorem supervise_new {s : State} {sup : Position} (agent : Position) (mode : SupMode) (coach : Option (Nat × Nat))
    (h : ∀ k ∈ s.supervision, k.supervisor ≠ sup) : applyOp (.supervise sup agent mode coach) s = { s with
      supervision := s.supervision ++ [{
        supervisor := sup, agent := agent, mode := mode
        coachGain := match coach with | some x => x.1 | none => 32768
        coachDuck := match coach with | some x => x.2 | none => 8192 }] } := by
  have hnone : asSupervisor s sup = none := List.find?_eq_none.2 fun k hk hks => h k hk (beq_iff_eq.1 hks)
  refine (if_neg (by rw [hnone]; nofun)).trans ?_
  cases coach <;> rfl

theorem supervise_known {s : State} {sup : Position} (agent : Position) (mode : SupMode) (coach : Option (Nat × Nat))
    (h : ∃ k ∈ s.supervision, k.supervisor = sup) : applyOp (.supervise sup agent mode coach) s = { s with
      supervision := s.supervision.map (fun k => if k.supervisor = sup then { k with
        mode := mode
        coachGain := match coach with | some x => x.1 | none => k.coachGain
        coachDuck := match coach with | some x => x.2 | none => k.coachDuck } else k) } := by
  have hsome : (asSupervisor s sup).isSome = true := by
    obtain ⟨k, hk, hks⟩ := h
    exact List.find?_isSome.2 ⟨k, hk, beq_iff_eq.2 hks⟩
  have hmap : s.supervision.map (fun k => if k.supervisor = sup then { k with
        mode := mode
        coachGain := match coach with | some x => x.1 | none => k.coachGain
        coachDuck := match coach with | some x => x.2 | none => k.coachDuck } else k) =
      s.supervision.map (fun r => if r.supervisor == sup then
          match coach with
          | some (g, d) => { r with mode := mode, coachGain := g, coachDuck := d }
          | none => { r with mode := mode }
        else r) := List.map_congr_left fun k _ => by
    simp only [beq_iff_eq]
    split
    · cases coach <;> rfl
    · rfl
  exact (if_pos hsome).trans (congrArg (fun ks => ({ s with supervision := ks } : State)) hmap.symm)

theorem setEcho_live {s : State} {l : Leg} (bulk shift : Option Nat) (nlp : Option Bool) (h : (s.leg l).state ≠ .closed) :
    applyOp (.echoSet l bulk shift nlp) s =
      let r := { s.leg l with
        shift := match shift with | some x => x | none => (s.leg l).shift
        nlp := match nlp with | some x => x | none => (s.leg l).nlp }
      match bulk with
      | none => s.setLeg l r
      | some b => (s.setLeg l { r with bulk := b, ec := { r.ec with taps := List.replicate r.ec.taps.length 0 } }).setWork
          { s.work with list := l :: s.work.list.filter (· != l) } := by
  refine (if_neg h).trans ?_
  cases bulk <;> cases shift <;> cases nlp <;> simp only [clearTaps_eq] <;> rfl

theorem namesLeg_eq (y x : Change) : (match y.op with | .legClose l => namesLeg l x | _ => false) =
    (match y.op, x.op with
      | .legClose l, .sendGain (.leg k) _ => l == k
      | .legClose l, .echoSet k _ _ _ => l == k
      | _, _ => false) := by
  cases hy : y.op
  case legClose l =>
    cases hx : x.op
    case sendGain t gain =>
      cases t with
      | leg k =>
        simp only [namesLeg, hx]
        rw [Bool.eq_iff_iff, beq_iff_eq, beq_iff_eq, Member.leg.injEq]
        exact eq_comm
      | pos p =>
        simp only [namesLeg, hx]
        rfl
    case echoSet k bulk shift nlp =>
      simp only [namesLeg, hx]
      rw [Bool.eq_iff_iff, beq_iff_eq, beq_iff_eq]
      exact eq_comm
    all_goals simp only [namesLeg, hx]
  all_goals rfl

/-- Settles O28: each change's effect is its definition's, and the application keeps one account along the order of the classes. -/
theorem closeAppliesToTheWholeLeg : Obligations.CloseAppliesToTheWholeLeg := by
  refine ⟨fun s l => closeLeg_effect, fun s g l => ⟨rfl, ?_⟩, fun s g p => ⟨rfl, ?_⟩, fun s l m => ⟨fun h => ?_, fun h => ⟨?_, ?_⟩⟩,
    fun s p on => rfl, fun s sup agent mode coach => ⟨supervise_new agent mode coach, supervise_known agent mode coach, ?_⟩,
    fun s l p gain => ⟨rfl, rfl⟩, fun s p trim offset floor sidetone => ?_, fun s l bulk shift nlp => setEcho_live bulk shift nlp,
    fun s hclasses => ?_⟩
  · have hfilter : (fun m : Member => decide (m ≠ .leg l)) = (· != .leg l) := funext fun m => decide_ne_eq m _
    rw [hfilter]
    rfl
  · have hfilter : (fun m : Member => decide (m ≠ .pos p)) = (· != .pos p) := funext fun m => decide_ne_eq m _
    rw [hfilter]
    rfl
  · simp only [applyOp, holdLeg, h]
  · simp only [applyOp, holdLeg, h]
  · simp only [applyOp, resumeLeg, h]
  · have hfilter : (fun k : SupRec => decide (k.supervisor ≠ sup)) = fun k => k.supervisor != sup := funext fun k => decide_ne_eq _ _
    rw [hfilter]
    rfl
  · cases trim <;> cases offset <;> cases floor <;> cases sidetone <;> rfl
  · intro due closed t
    have hdue := mem_applyOrder s
    have hclosed : closing s.routing.list = closed := funext fun x => by
      simp only [closing, namesLeg_eq]
      rfl
    refine ⟨applyOrder s, applyOrder_nodup s, hdue, ?_⟩
    intro after purged kept done apply
    have hafter : ∀ c, after c = true ↔ ChangeClass.routing ∈ earlier (applyOrder s) c := fun c => by
      simp only [after, List.contains_iff_mem]
      rfl
    have hkept : keptIn s (applyOrder s) = kept := funext fun c => by
      rw [keptIn, hclosed]
      exact if_congr (hafter c).symm rfl rfl
    have hpurged : purgedIn s (applyOrder s) = purged := funext fun c => by
      rw [purgedIn, hclosed]
      exact if_congr (hafter c).symm rfl rfl
    have hdone : ∀ c, (if c ∈ applyOrder s then kept c else []) = done c := fun c => if_congr (hdue c) rfl rfl
    have hflat : (applyOrder s).flatMap done = (applyOrder s).flatMap kept :=
      List.flatMap_congr fun c hc => if_pos ((hdue c).1 hc)
    have happlied := applying_applied hclasses
    refine ⟨?_, fun c => ?_, ?_, fun l => ?_⟩
    · rw [hflat, ← hkept]
      exact stageApplication_tables hclasses
    · refine (stageApplication_stage hclasses c).trans ?_
      rw [hkept]
      exact congrArg (fun xs => ({ s.stage c with list := xs, latch := false } : Stage)) (if_congr (hdue c) rfl rfl)
    · have hraises : stageRaises s = [ChangeClass.routing, .levels, .echo].flatMap (fun c =>
          if done c = [] ∧ purged c = [] then []
          else [(c.code, .applied (done c).length (purged c).length ((done c).getLast?.map Change.tag))]) := by
        rw [stageRaises_eq hclasses]
        refine List.flatMap_congr fun c _ => ?_
        rw [hkept, hpurged, hdone, appliedRaises]
        exact if_congr (by rw [List.isEmpty_iff, List.length_eq_zero_iff]) rfl rfl
      rw [← hraises]
      exact (stageApplication_voices s).link
    · refine (happlied.fresh l).trans ?_
      rw [hflat, hkept]
      rfl

end Sys2Proof.Machine
end

section
/-! PROOF. What a frame start raises, in its order and in the queue, and the fetch list from step to step (R128, R132, R200). -/

namespace Sys2Proof.Machine

/-! ## Raises, one operation after the other (R200) -/

/-- From s to t the frame counter stands, and the link has taken these raises in this order alone. -/
def Says (rs : List (Nat × Detail)) (s t : State) : Prop := t.frame = s.frame ∧ t.link = (raiseAll rs s).link

section
variable {rs xs : List (Nat × Detail)} {s t u : State}

theorem Voices.says {f : State → State} (h : Voices rs f s) : Says rs s (f s) := ⟨h.1, h.link⟩

theorem Says.none (hf : t.frame = s.frame) (hl : t.link = s.link) : Says [] s t := ⟨hf, hl⟩

theorem Says.trans (h : Says rs s t) (h' : Says xs t u) : Says (rs ++ xs) s u := by
  refine ⟨h'.1.trans h.1, ?_⟩
  rw [h'.2, raiseAll_append]
  exact raiseAll_congr xs h.2 (by rw [h.1, raiseAll_frame])

theorem Says.then (h : Says rs s t) (hf : u.frame = t.frame) (hl : u.link = t.link) : Says rs s u :=
  ⟨hf.trans h.1, hl.trans h.2⟩

theorem Says.from (h : Says rs s t) (hf : s.frame = u.frame) (hl : s.link = u.link) : Says rs u t :=
  ⟨h.1.trans hf, h.2.trans (raiseAll_congr rs hl hf)⟩

/-! ## The entries that join the queue at one event (R84, R200) -/

/-- R200: of the entries that raises add behind the first n no two are of one kind and subject. -/
theorem raiseAll_newKeys (rs : List (Nat × Detail)) (s : State) {n : Nat} (hn : n ≤ s.link.notices.length)
    (h : ((s.link.notices.drop n).map Notice.key).Nodup) :
    (((raiseAll rs s).link.notices.drop n).map Notice.key).Nodup := by
  induction rs generalizing s with
  | nil => exact h
  | cons x rs ih =>
    refine ih (raise x.1 x.2 s) (hn.trans (raiseIn_keys s.frame x.1 x.2 s.link.notices).2) ?_
    rw [List.map_drop] at h ⊢
    rw [show (raise x.1 x.2 s).link.notices = raiseIn s.frame x.1 x.2 s.link.notices from rfl, raiseIn_key]
    split
    · exact h
    · next hnew =>
      rw [List.drop_append_of_le_length (by rwa [List.length_map])]
      refine List.Nodup.append h (List.nodup_singleton _) ?_
      rw [List.disjoint_singleton]
      exact fun hmem => hnew (List.mem_of_mem_drop hmem)

/-- R84: a does not stand as the STREAM_LOW of a source whose SOURCE_STARVED is b. -/
def StarvedFirst (a b : Notice) : Prop :=
  ∀ fill cause, a.detail = .streamLow fill → b.detail = .sourceStarved cause → a.subject ≠ b.subject

theorem starvedFirst_of_not_low {a : Notice} (h : ∀ fill, a.detail ≠ .streamLow fill) (b : Notice) : StarvedFirst a b :=
  fun fill _ ha => absurd ha (h fill)

theorem starvedBeforeLow_cons (n : Notice) (ns : List Notice) : starvedBeforeLow (n :: ns) =
    (match n.detail with
    | .streamLow _ =>
      match (starvedBeforeLow ns).find? (fun k => k.detail.kind == 0xC6 && k.subject == n.subject) with
      | some k => k :: n :: (starvedBeforeLow ns).erase k
      | none => n :: starvedBeforeLow ns
    | _ => n :: starvedBeforeLow ns) := rfl

/-- R84: of entries with distinct kinds and subjects, a source's SOURCE_STARVED comes to stand before its STREAM_LOW. -/
theorem starvedBeforeLow_pairwise (ns : List Notice) (h : (ns.map Notice.key).Nodup) :
    (starvedBeforeLow ns).Pairwise StarvedFirst := by
  induction ns with
  | nil => exact List.Pairwise.nil
  | cons n ns ih =>
    obtain ⟨_, hns⟩ := List.nodup_cons.1 h
    have hrest := ih hns
    have hkeys : ((starvedBeforeLow ns).map Notice.key).Nodup := ((starvedBeforeLow_perm ns).map _).nodup_iff.2 hns
    generalize hacc : starvedBeforeLow ns = acc at hrest hkeys
    have hfront : (∀ fill, n.detail ≠ .streamLow fill) → (n :: acc).Pairwise StarvedFirst := fun hlow =>
      List.pairwise_cons.2 ⟨fun b _ => starvedFirst_of_not_low hlow b, hrest⟩
    rw [starvedBeforeLow_cons, hacc]
    cases hd : n.detail
    case streamLow fill =>
      dsimp only
      cases hk : acc.find? (fun k => k.detail.kind == 0xC6 && k.subject == n.subject) with
      | none =>
        refine List.pairwise_cons.2 ⟨fun b hb _ cause _ hb' hsub => ?_, hrest⟩
        have hnot := List.find?_eq_none.1 hk b hb
        simp [hb', Detail.kind, hsub] at hnot
      | some k =>
        have hmem := List.mem_of_find?_eq_some hk
        have hkey : k.detail.kind = 0xC6 ∧ k.subject = n.subject := by simpa using List.find?_some hk
        refine List.pairwise_cons.2 ⟨fun b _ => starvedFirst_of_not_low (fun x hx => ?_) b,
          List.pairwise_cons.2 ⟨fun b hb _ cause _ hb' hsub => ?_, hrest.sublist List.erase_sublist⟩⟩
        · rw [hx] at hkey
          simp [Detail.kind] at hkey
        · have hsame : b.key = k.key := by
            simp only [Notice.key, hb', hkey.1, hkey.2, hsub]
            rfl
          have hbk : b = k := List.inj_on_of_nodup_map hkeys (List.mem_of_mem_erase hb) hmem hsame
          exact ((List.Nodup.of_map _ hkeys).mem_erase_iff.1 hb).1 hbk
    all_goals exact hfront fun fill hfill => by rw [hd] at hfill; cases hfill

/-- R200: an event that ends by ordering its new entries leaves the link with its raises alone. -/
theorem Says.linkRaised (h : Says rs s u) (hl : t.link = (orderNew s.link.notices.length u).link) : LinkRaised rs s t := by
  have hnotices : t.link.notices = (raiseAll rs s).link.notices.take s.link.notices.length ++
      starvedBeforeLow (shuffle (Config.noticeOrder u.draws) ((raiseAll rs s).link.notices.drop s.link.notices.length)) := by
    rw [hl, ← h.2]
    rfl
  have hlen := (raiseAll_link rs s).2.1
  have htake : ((raiseAll rs s).link.notices.take s.link.notices.length).length = s.link.notices.length := by
    rw [List.length_take, Nat.min_eq_left hlen]
  have hnew : ((shuffle (Config.noticeOrder u.draws) ((raiseAll rs s).link.notices.drop s.link.notices.length)).map
      Notice.key).Nodup := by
    refine ((shuffle_perm _ _).map _).nodup_iff.2 (raiseAll_newKeys rs s le_rfl ?_)
    rw [List.drop_length]
    exact List.nodup_nil
  refine ⟨?_, ?_, ?_, ?_⟩
  · rw [← h.2, hl]
    rfl
  · rw [hnotices, List.take_append_of_le_length (Nat.le_of_eq htake.symm), List.take_take, Nat.min_self]
  · rw [hnotices, List.drop_append, htake, Nat.sub_self, List.drop_zero, List.drop_eq_nil_of_le (Nat.le_of_eq htake),
      List.nil_append]
    exact (starvedBeforeLow_perm _).trans (shuffle_perm _ _)
  · rw [hnotices, List.drop_append, htake, Nat.sub_self, List.drop_zero, List.drop_eq_nil_of_le (Nat.le_of_eq htake),
      List.nil_append]
    exact starvedBeforeLow_pairwise _ hnew

/-- R200: the entries of a queue that an event has left so are those its raises give. -/
theorem LinkRaised.mem_iff (h : LinkRaised rs s t) (n : Notice) :
    n ∈ t.link.notices ↔ n ∈ (raiseAll rs s).link.notices := by
  obtain ⟨_, htake, hdrop, _⟩ := h
  rw [← List.take_append_drop s.link.notices.length t.link.notices,
    ← List.take_append_drop s.link.notices.length (raiseAll rs s).link.notices, List.mem_append, List.mem_append, htake,
    hdrop.mem_iff]

theorem raiseIn_otherKind {stamp : Stamp} {k : Nat} {d : Detail} {ns : List Notice} {n : Notice} (h : n ∈ ns)
    (hk : n.detail.kind ≠ d.kind) : n ∈ raiseIn stamp k d ns := by
  induction ns with
  | nil => cases h
  | cons m ms ih =>
    by_cases hm : m.isFor k d = true
    · rw [raiseIn, if_pos hm]
      rcases List.mem_cons.1 h with rfl | h
      · exact absurd (by simpa [Notice.isFor] using hm : _ ∧ _).1 hk
      · exact List.mem_cons_of_mem _ h
    · rw [raiseIn, if_neg hm]
      rcases List.mem_cons.1 h with rfl | h
      · exact List.mem_cons_self
      · exact List.mem_cons_of_mem _ (ih h)

theorem raiseAll_keepsEntry {n : Notice} (h : n ∈ s.link.notices) (hrs : ∀ x ∈ rs, x.2.kind ≠ n.detail.kind) :
    n ∈ (raiseAll rs s).link.notices := by
  induction rs generalizing s with
  | nil => exact h
  | cons x rs ih =>
    obtain ⟨hx, hrs⟩ := List.forall_mem_cons.1 hrs
    exact ih (raiseIn_otherKind h (Ne.symm hx)) hrs

/-- R200: a raise that no later one folds into stands in the queue with its stamp. -/
theorem raiseAll_entry (k : Nat) (d : Detail) (hxs : ∀ x ∈ xs, x.2.kind ≠ d.kind) :
    ∃ n ∈ (raiseAll (rs ++ (k, d) :: xs) s).link.notices, n.subject = k ∧ n.stamp = s.frame ∧ n.detail = d := by
  rw [raiseAll_append]
  obtain ⟨n, hn, hsubject, hstamp, hdetail⟩ := raise_entry k d (raiseAll rs s)
  exact ⟨n, raiseAll_keepsEntry (s := raise k d (raiseAll rs s)) hn fun x hx => by rw [hdetail]; exact hxs x hx, hsubject,
    by rw [hstamp, raiseAll_frame], hdetail⟩

end

/-! ## The faults of a frame start (R132) -/

/-- R132: the FAULT of a record that was clear in s and has latched in t. -/
def faultRaises (s t : State) : List (Nat × Detail) :=
  if s.fault.latched = false ∧ t.fault.latched = true then [(0, .fault t.fault.area t.fault.requester)] else []

theorem takeFaults_cons (x : Landed) (ls : List Landed) (s : State) : takeFaults (x :: ls) s =
    takeFaults ls (match x.outcome with | .error o => takeFault x.item o s | .ok _ => s) := rfl

theorem takeFault_latched (it : FetchItem) (o : Nat) {s : State} (h : s.fault.latched = true) :
    takeFault it o s = { s with fault := { s.fault with later := satInc 255 s.fault.later } } := if_pos h

theorem takeFault_clear (it : FetchItem) (o : Nat) {s : State} (h : s.fault.latched = false) :
    takeFault it o s = raise 0 (.fault it.area it.requester)
      { s with fault := { latched := true, area := it.area, offset := o, requester := it.requester, stamp := s.frame,
                          later := 0 } } := if_neg (by rw [h]; exact Bool.false_ne_true)

/-- R132: a record that has latched keeps its failure, and raises no more. -/
theorem takeFaults_latched (ls : List Landed) {s : State} (h : s.fault.latched = true) :
    Says [] s (takeFaults ls s) ∧ { (takeFaults ls s).fault with later := s.fault.later } = s.fault := by
  induction ls generalizing s with
  | nil => exact ⟨.none rfl rfl, rfl⟩
  | cons x ls ih =>
    rw [takeFaults_cons]
    cases hx : x.outcome with
    | ok w => exact ih h
    | error o =>
      obtain ⟨hsays, hfault⟩ := ih (s := { s with fault := { s.fault with later := satInc 255 s.fault.later } }) h
      dsimp only
      rw [takeFault_latched x.item o h]
      exact ⟨hsays.from rfl rfl, (congrArg (fun f : FaultRec => { f with later := s.fault.later }) hfault :)⟩

/-- R132: at most the first failure raises FAULT, where it latches the record. -/
theorem takeFaults_says (ls : List Landed) (s : State) : Says (faultRaises s (takeFaults ls s)) s (takeFaults ls s) := by
  by_cases h : s.fault.latched = true
  · rw [faultRaises, if_neg fun hclear => Bool.false_ne_true (hclear.1.symm.trans h)]
    exact (takeFaults_latched ls h).1
  · have hclear : s.fault.latched = false := Bool.eq_false_iff.2 h
    induction ls with
    | nil =>
      rw [faultRaises, if_neg fun hlatch => h hlatch.2]
      exact .none rfl rfl
    | cons x ls ih =>
      rw [takeFaults_cons]
      cases hx : x.outcome with
      | ok w => exact ih
      | error o =>
        dsimp only
        rw [takeFault_clear x.item o hclear]
        obtain ⟨hsays, hfault⟩ := takeFaults_latched ls (s := raise 0 (.fault x.item.area x.item.requester)
          { s with fault := { latched := true, area := x.item.area, offset := o, requester := x.item.requester,
                              stamp := s.frame, later := 0 } }) rfl
        generalize takeFaults ls _ = t at hsays hfault ⊢
        have hlatched : t.fault.latched = true := (congrArg FaultRec.latched hfault :)
        have harea : t.fault.area = x.item.area := (congrArg FaultRec.area hfault :)
        have hrequester : t.fault.requester = x.item.requester := (congrArg FaultRec.requester hfault :)
        rw [faultRaises, if_pos ⟨hclear, hlatched⟩, harea, hrequester]
        exact ⟨hsays.1, hsays.2⟩

/-! ## The fetch list from player to player (R128) -/

/-- s and t hold the same of all that decides what position p's player makes of the fetch list. -/
def FetchAlike (p : Position) (s t : State) : Prop := SeenAlike p s t ∧ s.fetch = t.fetch

section
variable {p : Position} {s t : State}

theorem FetchAlike.set (h : FetchAlike p s t) (r : PosRec) : FetchAlike p (s.setPos p r) (t.setPos p r) := ⟨h.1.set r, h.2⟩

theorem FetchAlike.place (h : FetchAlike p s t) (it : FetchItem) : FetchAlike p (placeItem it s) (placeItem it t) :=
  ⟨h.1.place it, congrArg (· ++ [it]) h.2⟩

theorem FetchAlike.withdraw (h : FetchAlike p s t) (r : Requester) : FetchAlike p (withdraw r s) (withdraw r t) :=
  ⟨h.1.withdraw r, by simp only [Machine.withdraw, h.2]⟩

theorem FetchAlike.finish (h : FetchAlike p s t) (res : PromptResult) (r : PromptRec) :
    FetchAlike p (finishPrompt p res r s) (finishPrompt p res r t) := by
  refine ⟨h.1.finish res r, ?_⟩
  rw [finishPrompt_eq, finishPrompt_eq]
  exact h.2

theorem FetchAlike.endSlot (h : FetchAlike p s t) (res : PromptResult) : FetchAlike p (endSlot p res s) (endSlot p res t) := by
  simp only [Machine.endSlot, h.1.1]
  split
  · exact h
  · exact ((h.set _).withdraw _).finish _ _

theorem FetchAlike.endPending (h : FetchAlike p s t) (res : PromptResult) (r : PromptRec) :
    FetchAlike p (endPending p res r s) (endPending p res r t) := by
  simp only [Machine.endPending, h.1.1]
  exact (h.set _).finish _ _

theorem FetchAlike.expire (h : FetchAlike p s t) : FetchAlike p (expireStep p s) (expireStep p t) :=
  ⟨h.1.expire, by rw [(expireStep_fetch p s).1, (expireStep_fetch p t).1, h.2]⟩

theorem FetchAlike.placePrompt (h : FetchAlike p s t) : FetchAlike p (placePrompt p s) (placePrompt p t) := by
  cases hslot : (t.pos p).slot with
  | none => rwa [placePrompt_empty (by rwa [h.1.1]), placePrompt_empty hslot]
  | some pl =>
    refine ⟨h.1.placePrompt, ?_⟩
    rw [placePrompt_eq (s := s) (pl := pl) (by rwa [h.1.1]), placePrompt_eq hslot]
    exact congrArg (· ++ (fetched p pl).2) h.2

theorem FetchAlike.playSlot (h : FetchAlike p s t) (pl : Playing) : FetchAlike p (playSlot p pl s).1 (playSlot p pl t).1 := by
  simp only [Machine.playSlot, h.1.1]
  split
  · dsimp only
    split
    · exact (h.set _).endSlot _
    · exact (h.set _).placePrompt
  · exact (h.set _).placePrompt

theorem FetchAlike.slotStep (h : FetchAlike p s t) (ls : List Landed) : FetchAlike p (slotStep ls p s).1 (slotStep ls p t).1 := by
  simp only [Machine.slotStep, h.1.1]
  split
  · exact h
  · split
    · exact h.endSlot _
    · split
      · exact h.endSlot _
      · exact h.playSlot _
      · exact h.playSlot _

theorem FetchAlike.selectHead (ix : Vector (List IndexEntry) 128) (k : Nat) {s t : State} (h : FetchAlike p s t) :
    FetchAlike p (selectHead ix p k s) (selectHead ix p k t) := by
  induction k generalizing s t with
  | zero => exact h
  | succ k ih =>
    simp only [Machine.selectHead, h.1.1, h.1.starts]
    repeat' split
    · exact h
    · simp only [primePrompt, h.1.1]
      exact (h.set _).placePrompt
    · exact ih (h.endPending _ _)
    · exact h

theorem FetchAlike.selectStep (h : FetchAlike p s t) (ix : Vector (List IndexEntry) 128) :
    FetchAlike p (selectStep ix p s) (selectStep ix p t) := by
  have hpre : preempts s p = preempts t p := by simp only [preempts, h.1.1, h.1.starts]
  have hcut : FetchAlike p (if preempts s p then Machine.endSlot p .preempted s else s)
      (if preempts t p then Machine.endSlot p .preempted t else t) := by
    rw [hpre]
    split
    · exact h.endSlot _
    · exact h
  simp only [Machine.selectStep]
  generalize (if preempts s p then Machine.endSlot p .preempted s else s) = u at hcut ⊢
  generalize (if preempts t p then Machine.endSlot p .preempted t else t) = w at hcut ⊢
  simp only [hcut.1.1]
  split
  · exact hcut
  · exact FetchAlike.selectHead ix 8 hcut

/-- R128: what a player makes of the fetch list rests on what it reads and on the list alone. -/
theorem FetchAlike.player (h : FetchAlike p s t) (ix : Vector (List IndexEntry) 128) (ls : List Landed) :
    (playerFrame ix ls p s).1.fetch = (playerFrame ix ls p t).1.fetch := by
  have hduck : ∀ u, (duckStep p u).fetch = u.fetch := fun _ => rfl
  simp only [playerFrame, h.1.1]
  split
  · rw [hduck, hduck]
    exact ((h.expire.slotStep ls).selectStep ix).2
  · exact h.2

end

end Sys2Proof.Machine
end

section
/-! PROOF. The stages of a frame start in RUNNING, each with what it leaves, and the closing part (R7, R128, R156). -/

namespace Sys2Proof.Machine

/-! ## The fetch list through the steps of a frame start (R128) -/

/-- Rounds over distinct blocks, each making of the fetch list what its block decides as it stood at the start. -/
theorem foldl_fetch {α β : Type} {f : State × β → α → State × β} {g : α → List FetchItem → List FetchItem}
    {seen : α → State → Prop} (hstep : ∀ a u x, seen a u → (f (u, x) a).1.fetch = g a u.fetch)
    (hkeep : ∀ a b u x, a ≠ b → seen b u → seen b (f (u, x) a).1) (l : List α) (hl : l.Nodup) :
    ∀ (s : State) (x : β), (∀ a ∈ l, seen a s) → (l.foldl f (s, x)).1.fetch = l.foldl (fun fs a => g a fs) s.fetch := by
  induction l with
  | nil => exact fun _ _ _ => rfl
  | cons a l ih =>
    intro s x hseen
    obtain ⟨ha, hl⟩ := List.nodup_cons.1 hl
    rw [List.foldl_cons, List.foldl_cons, ← hstep a s x (hseen a List.mem_cons_self)]
    exact ih hl (f (s, x) a).1 (f (s, x) a).2 fun b hb =>
      hkeep a b s x (fun h => ha (h ▸ hb)) (hseen b (List.mem_cons_of_mem a hb))

/-- R84: what the sources make of the fetch list, each as it stood before the first. -/
theorem sourceStep_fetch (ls : List Landed) {s w : State} (h : ∀ m, s.src m = w.src m) : (sourceStep ls s).1.fetch =
    (List.finRange 4).foldl (fun fs m => (sourceFrame ls m { w with fetch := fs }).1.fetch) s.fetch := by
  rw [sourceStep_rounds]
  refine foldl_fetch (g := fun m fs => (sourceFrame ls m { w with fetch := fs }).1.fetch)
    (seen := fun m u => u.src m = w.src m) (fun m u x hu => ?_) (fun m n u x hne hn => ?_) (List.finRange 4)
    (List.nodup_finRange 4) s [] fun m _ => h m
  · have hw : ({ w with fetch := u.fetch } : State).src m = u.src m := hu.symm
    rw [sourceRound_state, sourceFrame_fetch, sourceFrame_fetch, hw]
  · rw [sourceRound_state, (sourceFrame_step ls m u).2.1 n (Ne.symm hne), hn]

theorem playerFrame_disabled (ix : Vector (List IndexEntry) 128) (ls : List Landed) {p : Position} {s : State}
    (h : (s.pos p).enabled = false) : playerFrame ix ls p s = (s, none) := by
  simp only [playerFrame, h]
  rfl

/-- R105: what the players make of the fetch list, each on a state it sees alike, or, disabled, on any in which it is so. -/
theorem playerStep_fetch (ls : List Landed) (before after : Vector (List IndexEntry) 128) {s : State} {ready : Position → State}
    (h : ∀ p, SeenAlike p s (ready p) ∨ (s.pos p).enabled = false ∧ ((ready p).pos p).enabled = false) :
    (playerStep ls before after s).1.fetch = (List.finRange 16).foldl
      (fun fs p => (playerFrame (indexSeen before after s p) ls p { ready p with fetch := fs }).1.fetch) s.fetch := by
  rw [playerStep_rounds]
  refine foldl_fetch (g := fun p fs => (playerFrame (indexSeen before after s p) ls p { ready p with fetch := fs }).1.fetch)
    (seen := fun p u => SeenAlike p u s) (fun p u x hu => ?_) (fun p q u x hne hq => ?_) (List.finRange 16)
    (List.nodup_finRange 16) s [] fun p _ => .refl p s
  · rw [playerRound_state]
    rcases h p with halike | ⟨hs, hready⟩
    · have hsame : SeenAlike p (ready p) { ready p with fetch := u.fetch } :=
        ⟨rfl, rfl, rfl, rfl, rfl, rfl, rfl, fun _ => ⟨rfl, rfl, rfl⟩⟩
      exact FetchAlike.player ⟨(hu.trans halike).trans hsame, rfl⟩ _ ls
    · have hu' : (u.pos p).enabled = false := by rw [hu.1, hs]
      rw [playerFrame_disabled _ ls hu', playerFrame_disabled _ ls (s := { ready p with fetch := u.fetch }) hready]
  · rw [playerRound_state]
    exact ((playerFrame_step _ ls p u).others (Ne.symm hne)).trans hq

theorem finRange_take_succ {n : Nat} (i : Fin n) : (List.finRange n).take (i.val + 1) = (List.finRange n).take i.val ++ [i] := by
  rw [List.take_add_one]
  simp

/-- R128: the fetch list as each source and then each player takes it. -/
theorem fetchList_exists (source : Source → List FetchItem → List FetchItem)
    (player : Position → List FetchItem → List FetchItem) (first : List FetchItem) :
    ∃ list : Nat → List FetchItem, list 0 = first ∧ (∀ m : Source, list (m.val + 1) = source m (list m.val)) ∧
      (∀ p : Position, list (p.val + 5) = player p (list (p.val + 4))) ∧
      list 20 = (List.finRange 16).foldl (fun fs p => player p fs) ((List.finRange 4).foldl (fun fs m => source m fs) first) := by
  refine ⟨fun n => ((List.finRange 16).take (n - 4)).foldl (fun fs p => player p fs)
    (((List.finRange 4).take n).foldl (fun fs m => source m fs) first), rfl, fun m => ?_, fun p => ?_, rfl⟩
  · have hm := m.isLt
    have hnone : m.val + 1 - 4 = 0 ∧ m.val - 4 = 0 := by omega
    simp only [hnone, List.take_zero, List.foldl_nil, finRange_take_succ, List.foldl_append, List.foldl_cons]
  · have hall : ∀ n, (List.finRange 4).take (p.val + 4 + n) = List.finRange 4 := fun n =>
      List.take_of_length_le (by rw [List.length_finRange]; omega)
    have hfour := hall 0
    have hfive := hall 1
    have hsub : p.val + 5 - 4 = p.val + 1 ∧ p.val + 4 - 4 = p.val := by omega
    simp only [hsub, finRange_take_succ, List.foldl_append, List.foldl_cons, List.foldl_nil]
    rw [show p.val + 5 = p.val + 4 + 1 from rfl, hfive, show p.val + 4 = p.val + 4 + 0 from rfl, hfour]

/-! ## The stages (R7) -/

/-- R84: a frame start in RUNNING from the ramps on, once the sources have taken their steps. -/
def afterMusic (e : FrameEnd) (ls : List Landed) (r : State) : State := (sourceStep ls (micStep (echoStep e r).1).1).1

/-- R135: once the scan's landing step is done. -/
def afterScan (e : FrameEnd) (ls : List Landed) (r : State) : State := (landScan ls (afterMusic e ls r)).1

/-- R105: once the prompt players have taken their steps. -/
def afterPlayers (e : FrameEnd) (ls : List Landed) (r : State) : State :=
  (playerStep ls (afterMusic e ls r).index (afterScan e ls r).index (afterScan e ls r)).1

/-- R8: what the steps hand to the mixer. -/
def mixOf (e : FrameEnd) (ls : List Landed) (r : State) : MixIn :=
  mkMix (echoStep e r).2 (micStep (echoStep e r).1).2 (sourceStep ls (micStep (echoStep e r).1).1).2
    (playerStep ls (afterMusic e ls r).index (afterScan e ls r).index (afterScan e ls r)).2

theorem audioFrame_stages (e : FrameEnd) (ls : List Landed) (o : Opening) (spare : Nat) (r : State) :
    audioFrame e ls o spare r = formFrames (mixOf e ls r)
      (closingPart o spare (placeScan (landScan ls (afterMusic e ls r)).2 (afterPlayers e ls r))) := by
  simp only [audioFrame, mixOf, mkMix, afterPlayers, afterScan, afterMusic]

/-- x with all that the cancellers, the microphones and the sources act on taken from r. -/
abbrev withMusic (r x : State) : State := { x with
  legs := r.legs, positions := r.positions, sources := r.sources, fetch := r.fetch, reads := r.reads, link := r.link
  work := { x.work with list := r.work.list } }

/-- x with the scan and the index, too, taken from r. -/
abbrev withScan (r x : State) : State := { withMusic r x with scan := r.scan, index := r.index }

section
variable (e : FrameEnd) (ls : List Landed) (r : State)

theorem afterMusic_only : withMusic r (afterMusic e ls r) = r := by
  unfold afterMusic
  have hecho := echoStep_only e r
  generalize (echoStep e r).1 = u at hecho ⊢
  have hmic := micStep_only u
  generalize (micStep u).1 = v at hmic ⊢
  have hmusic := (sourceStep_eq ls v).2.2.1
  generalize (sourceStep ls v).1 = w at hmusic ⊢
  have hmusic : withMusic r w = withMusic r v := (congrArg (withMusic r) hmusic :)
  have hmic : withMusic r v = withMusic r u := (congrArg (withMusic r) hmic :)
  have hecho : withMusic r u = r := (congrArg (withMusic r) hecho :)
  exact (hmusic.trans hmic).trans hecho

/-- R40, R60, R84: each leg, position and source as its own step leaves it. -/
theorem afterMusic_blocks : (∀ l, (afterMusic e ls r).leg l = echoed e r (r.leg l)) ∧
    (∀ p, (afterMusic e ls r).pos p = micced r p (r.pos p)) ∧
    (∀ m, (afterMusic e ls r).src m = (sourceFrame ls m r).1.src m) ∧ (afterMusic e ls r).work = (echoStep e r).1.work ∧
    (afterMusic e ls r).reads.map Read.item = r.reads.map Read.item ∧ ReadsKept r (afterMusic e ls r) ∧
    (afterMusic e ls r).fetch =
      (List.finRange 4).foldl (fun fs m => (sourceFrame ls m { r with fetch := fs }).1.fetch) r.fetch := by
  unfold afterMusic
  have hecho := echoStep_only e r
  have hleg := echoStep_leg e r
  generalize (echoStep e r).1 = u at hecho hleg ⊢
  have hmic := micStep_only u
  have hpos := micStep_pos u
  generalize (micStep u).1 = v at hmic hpos ⊢
  obtain ⟨hsrc, _, hmusic, _, hkept⟩ := sourceStep_eq ls v
  have husrc : ∀ m, v.src m = r.src m := fun m => by
    have hv : v.sources = u.sources := (congrArg State.sources hmic :)
    have hu : u.sources = r.sources := (congrArg State.sources hecho :)
    rw [State.src, State.src, hv, hu]
  have hfetch := sourceStep_fetch ls (s := v) (w := r) husrc
  generalize (sourceStep ls v).1 = w at hmusic hsrc hkept hfetch ⊢
  have hlegs : w.legs = u.legs := (congrArg State.legs hmusic :).trans (congrArg State.legs hmic :)
  have hwpos : w.positions = v.positions := (congrArg State.positions hmusic :)
  have hupos : u.positions = r.positions := (congrArg State.positions hecho :)
  have huports : u.ports = r.ports := (congrArg State.ports hecho :)
  have humask : u.quietMask = r.quietMask := (congrArg State.quietMask hecho :)
  have hulevel : u.quietLevel = r.quietLevel := (congrArg State.quietLevel hecho :)
  have hureads : u.reads = r.reads := (congrArg State.reads hecho :)
  have hvreads : v.reads = u.reads := (congrArg State.reads hmic :)
  have hvfetch : v.fetch = r.fetch := (congrArg State.fetch hmic :).trans (congrArg State.fetch hecho :)
  have hread : ReadsKept r w := by
    unfold ReadsKept at hkept ⊢
    rw [hkept, hvreads, hureads]
  refine ⟨fun l => ?_, fun p => ?_, fun m => ?_, ?_, items_kept hread, hread, ?_⟩
  · rw [← hleg, State.leg, hlegs, State.leg]
  · have hw : w.pos p = v.pos p := by rw [State.pos, hwpos, State.pos]
    have hu : u.pos p = r.pos p := by rw [State.pos, hupos, State.pos]
    rw [hw, hpos, hu]
    simp only [micced, headInbound, quietBit, huports, humask, hulevel]
  · rw [hsrc, (sourceFrame_congr ls m (husrc m)).1]
  · exact (congrArg State.work hmusic :).trans (congrArg State.work hmic :)
  · rw [hfetch, hvfetch]

/-- R49, R84: what the cancellers and the sources raise. -/
theorem afterMusic_says : Says ((List.finRange 24).flatMap (fun l => echoRaises e r l (r.leg l)) ++
    (List.finRange 4).flatMap (fun m => sourceRaises ls m (r.src m))) r (afterMusic e ls r) := by
  unfold afterMusic
  have hecho : Says _ r (echoStep e r).1 := (echoStep_raised e r).says
  have honly := echoStep_only e r
  generalize (echoStep e r).1 = u at hecho honly ⊢
  have hmic := micStep_only u
  generalize (micStep u).1 = v at hmic ⊢
  have hmusic : Says _ v (sourceStep ls v).1 := (sourceStep_voices ls v).says
  have hsrc : ∀ m, v.src m = r.src m := fun m => by
    have hv : v.sources = u.sources := (congrArg State.sources hmic :)
    have hu : u.sources = r.sources := (congrArg State.sources honly :)
    rw [State.src, State.src, hv, hu]
  simp only [hsrc] at hmusic
  exact (hecho.then (u := v) (congrArg State.frame hmic :) (congrArg State.link hmic :)).trans hmusic

theorem afterScan_only : withScan r (afterScan e ls r) = r := by
  have hmusic := afterMusic_only e ls r
  unfold afterScan
  generalize afterMusic e ls r = u at hmusic ⊢
  have hscan := landScan_only ls u
  generalize (landScan ls u).1 = v at hscan ⊢
  have hscan : withScan r v = withScan r u := (congrArg (withScan r) hscan :)
  exact hscan.trans (congrArg (withScan r) hmusic :)

/-- R135: the scan and the index as the landing step leaves them, and the item it places. -/
theorem afterScan_scan : (afterScan e ls r).scan = (landScan ls r).1.scan ∧ (afterScan e ls r).index = (landScan ls r).1.index ∧
    (landScan ls (afterMusic e ls r)).2 = (landScan ls r).2 := by
  have hmusic := afterMusic_only e ls r
  unfold afterScan
  generalize afterMusic e ls r = u at hmusic ⊢
  exact landScan_congr ls (congrArg State.scan hmusic :) (congrArg State.index hmusic :) (congrArg State.areas hmusic :)

theorem afterScan_blocks : (∀ l, (afterScan e ls r).leg l = echoed e r (r.leg l)) ∧
    (∀ p, (afterScan e ls r).pos p = micced r p (r.pos p)) ∧
    (∀ m, (afterScan e ls r).src m = (sourceFrame ls m r).1.src m) ∧ (afterScan e ls r).work = (echoStep e r).1.work ∧
    ReadsKept r (afterScan e ls r) ∧ (afterScan e ls r).fetch =
      (List.finRange 4).foldl (fun fs m => (sourceFrame ls m { r with fetch := fs }).1.fetch) r.fetch := by
  have hmusic := afterMusic_blocks e ls r
  unfold afterScan
  generalize afterMusic e ls r = u at hmusic ⊢
  have honly := landScan_only ls u
  generalize (landScan ls u).1 = v at honly ⊢
  obtain ⟨hleg, hpos, hsrc, hwork, _, hreads, hfetch⟩ := hmusic
  have hlegs : v.legs = u.legs := (congrArg State.legs honly :)
  have hpositions : v.positions = u.positions := (congrArg State.positions honly :)
  have hsources : v.sources = u.sources := (congrArg State.sources honly :)
  have hread : v.reads = u.reads := (congrArg State.reads honly :)
  refine ⟨fun l => ?_, fun p => ?_, fun m => ?_, (congrArg State.work honly :).trans hwork, ?_,
    (congrArg State.fetch honly :).trans hfetch⟩
  · rw [← hleg, State.leg, hlegs, State.leg]
  · rw [← hpos, State.pos, hpositions, State.pos]
  · rw [← hsrc, State.src, hsources, State.src]
  · unfold ReadsKept at hreads ⊢
    rw [hread, hreads]

theorem afterScan_says : Says ((List.finRange 24).flatMap (fun l => echoRaises e r l (r.leg l)) ++
    (List.finRange 4).flatMap (fun m => sourceRaises ls m (r.src m)) ++ scanRaises r (landScan ls r).1) r
      (afterScan e ls r) := by
  have hsays := afterMusic_says e ls r
  have honly := afterMusic_only e ls r
  have hscan := (afterScan_scan e ls r).1
  unfold afterScan at hscan ⊢
  generalize afterMusic e ls r = u at hsays honly hscan ⊢
  have hland : Says _ u (landScan ls u).1 := (landScan_voices ls u).says
  have hrun : u.scan = r.scan := (congrArg State.scan honly :)
  have hsame : scanRaises u (landScan ls u).1 = scanRaises r (landScan ls r).1 := by
    rw [scanRaises, hscan, hrun, scanRaises]
  exact hsays.trans (hsame ▸ hland)

/-- R135: the index each player's selection reads. -/
def seenBy (p : Position) : Vector (List IndexEntry) 128 := indexSeen r.index (landScan ls r).1.index r p

theorem seenBy_cases (p : Position) : seenBy ls r p = r.index ∨ seenBy ls r p = (landScan ls r).1.index := by
  unfold seenBy indexSeen
  split
  · exact .inr rfl
  · exact .inl rfl

theorem afterPlayers_index (p : Position) :
    indexSeen (afterMusic e ls r).index (afterScan e ls r).index (afterScan e ls r) p = seenBy ls r p := by
  have hmusic := afterMusic_only e ls r
  have hindex := (afterScan_scan e ls r).2.1
  have honly := afterScan_only e ls r
  generalize afterMusic e ls r = u at hmusic ⊢
  generalize afterScan e ls r = v at hindex honly ⊢
  have hdraws : v.draws = r.draws := (congrArg State.draws honly :)
  have hbefore : u.index = r.index := (congrArg State.index hmusic :)
  simp only [indexSeen, seenBy, hdraws, hbefore, hindex]

/-- R105: each position as its player leaves it, from what stood after the scan's landing step. -/
theorem afterPlayers_pos (p : Position) :
    (afterPlayers e ls r).pos p = (playerFrame (seenBy ls r p) ls p (afterScan e ls r)).1.pos p := by
  rw [← afterPlayers_index e ls r p]
  exact (playerStep_eq ls (afterMusic e ls r).index (afterScan e ls r).index (afterScan e ls r)).1 p

theorem afterPlayers_only : othersAlike (afterScan e ls r) (afterPlayers e ls r) ∧
    ReadsKept (afterScan e ls r) (afterPlayers e ls r) := by
  obtain ⟨_, _, honly, _, hreads⟩ :=
    playerStep_eq ls (afterMusic e ls r).index (afterScan e ls r).index (afterScan e ls r)
  exact ⟨honly, hreads⟩

theorem afterPlayers_says : Says ((List.finRange 24).flatMap (fun l => echoRaises e r l (r.leg l)) ++
    (List.finRange 4).flatMap (fun m => sourceRaises ls m (r.src m)) ++ scanRaises r (landScan ls r).1 ++
    (List.finRange 16).flatMap (fun p => playerRaises (seenBy ls r p) ls (afterScan e ls r) p)) r (afterPlayers e ls r) := by
  refine (afterScan_says e ls r).trans ?_
  simp only [← afterPlayers_index e ls r]
  exact (playerStep_voices ls (afterMusic e ls r).index (afterScan e ls r).index (afterScan e ls r)).says

/-! ## The closing part (R156, R158) -/

end

/-- R156, R158: what the closing part leaves as reads, fetch list and work, with what o left to it and the items of fetch. -/
structure Closing (s : State) (o : Opening) (stamp : Stamp) (spare : Nat) (fetch : List FetchItem) (before : Work)
    (t : State) : Prop where
  taken : (t.reads.map Read.item).take o.served.length = o.served
  list : (t.reads.map Read.item).drop o.served.length ++ t.fetch = fetch
  units : t.work.last.unitsLeft +
    (((t.reads.map Read.item).drop o.served.length).map (fun it => (s.area it.area).cost)).sum = o.units
  stops : ∀ it, t.fetch.head? = some it → t.work.last.unitsLeft < (s.area it.area).cost
  fresh : ∀ x ∈ t.reads, x.settings = s.area x.item.area ∧ x.words = [] ∧ x.failed = none
  work : t.work = { before with last := {
    stamp := stamp, spare := spare, adaptations := o.granted.length, openingFetches := o.served.length
    closingFetches := t.reads.length - o.served.length, unitsLeft := t.work.last.unitsLeft
    eligible := o.granted.length + o.todo.length, notServed := o.todo.length, itemsLeft := t.fetch.length } }

theorem closingPart_closes {s u : State} {o : Opening} {spare : Nat} (hareas : u.areas = s.areas)
    (hreads : u.reads.map Read.item = o.served)
    (hfresh : ∀ x ∈ u.reads, x.settings = s.area x.item.area ∧ x.words = [] ∧ x.failed = none) :
    Closing s o u.frame spare u.fetch u.work (closingPart o spare u) := by
  obtain ⟨served, hfetch, hread, hunits, hstops, hwork⟩ := closingPart_eq o spare u
  generalize closingPart o spare u = t at hfetch hread hunits hstops hwork ⊢
  have harea : ∀ a, u.area a = s.area a := fun a => by rw [State.area, hareas, State.area]
  simp only [harea] at hunits hstops
  have hitems : t.reads.map Read.item = o.served ++ served := by
    rw [hread, List.map_append, hreads, List.map_map]
    exact congrArg (o.served ++ ·) (List.map_id served)
  have hlength : t.reads.length - o.served.length = served.length := by
    rw [← List.length_map (f := Read.item), hitems, List.length_append, Nat.add_sub_cancel_left]
  have hdrop : (t.reads.map Read.item).drop o.served.length = served := by rw [hitems, List.drop_left]
  refine ⟨by rw [hitems, List.take_left], by rw [hdrop, hfetch], by rw [hdrop, hunits], hstops, fun x hx => ?_,
    by rw [hlength]; exact hwork⟩
  rw [hread, List.mem_append] at hx
  rcases hx with hx | hx
  · exact hfresh x hx
  · obtain ⟨it, _, rfl⟩ := List.mem_map.1 hx
    exact ⟨harea it.area, rfl, rfl⟩

theorem Closing.of {s u t : State} {o : Opening} {stamp : Stamp} {spare : Nat} {fetch : List FetchItem} {before : Work}
    (h : Closing s o stamp spare fetch before u) (hreads : t.reads = u.reads) (hfetch : t.fetch = u.fetch)
    (hwork : t.work = u.work) : Closing s o stamp spare fetch before t := by
  obtain ⟨htaken, hlist, hunits, hstops, hfresh, hlast⟩ := h
  rw [← hreads] at htaken hlist hunits hfresh hlast
  rw [← hfetch] at hlist hstops hlast
  rw [← hwork] at hunits hstops hlast
  exact ⟨htaken, hlist, hunits, hstops, hfresh, hlast⟩

theorem placeScan_fetch (it : Option FetchItem) (s : State) : (placeScan it s).fetch = s.fetch ++ it.toList := by
  cases it with
  | none => exact (List.append_nil _).symm
  | some x => rfl

/-- R128, R156: the scan's item joins, and the closing part serves from the head. -/
theorem placed_closes {s u : State} {o : Opening} {spare : Nat} (it : Option FetchItem) (hareas : u.areas = s.areas)
    (hreads : u.reads.map Read.item = o.served)
    (hfresh : ∀ x ∈ u.reads, x.settings = s.area x.item.area ∧ x.words = [] ∧ x.failed = none) :
    Closing s o u.frame spare (u.fetch ++ it.toList) u.work (closingPart o spare (placeScan it u)) := by
  have honly := placeScan_only it u
  have hread := placeScan_reads it u
  have hfetch := placeScan_fetch it u
  generalize placeScan it u = v at honly hread hfetch ⊢
  have hframe : v.frame = u.frame := (congrArg State.frame honly :)
  have hwork : v.work = u.work := (congrArg State.work honly :)
  rw [← hframe, ← hfetch, ← hwork]
  exact closingPart_closes ((congrArg State.areas honly :).trans hareas) (by rw [hread, hreads]) (by rw [hread]; exact hfresh)

end Sys2Proof.Machine
end

section
/-! PROOF. A frame start in each part state, block by block (R7, R179, R210). -/

namespace Sys2Proof.Machine

/-! ## The frame in RUNNING from the ramps on -/

/-- x with all that the blocks of a frame start, the closing part and the mixer act on taken from r. -/
abbrev withBlocks (r x : State) : State := { withScan r x with
  ports := { x.ports with netTx := r.ports.netTx, headTx := r.ports.headTx }
  work := { x.work with list := r.work.list, last := r.work.last } }

section
variable (e : FrameEnd) (ls : List Landed) (o : Opening) (spare : Nat) (r : State)

/-- R128, R156, R176: after the players only the fetch list, the reads, the work and the formed frames change. -/
theorem audioFrame_players : { audioFrame e ls o spare r with
    fetch := (afterPlayers e ls r).fetch, reads := (afterPlayers e ls r).reads, work := (afterPlayers e ls r).work
    ports := { (audioFrame e ls o spare r).ports with
      netTx := (afterPlayers e ls r).ports.netTx, headTx := (afterPlayers e ls r).ports.headTx } } = afterPlayers e ls r := by
  rw [audioFrame_stages]
  generalize afterPlayers e ls r = u
  generalize (landScan ls (afterMusic e ls r)).2 = it
  have hplace := placeScan_only it u
  generalize placeScan it u = v at hplace ⊢
  have hclose := closingPart_only o spare v
  generalize closingPart o spare v = w at hclose ⊢
  have hclose' := congrArg (fun x : State => { x with fetch := u.fetch, reads := u.reads, work := u.work }) hclose
  have hplace' := congrArg (fun x : State => { x with fetch := u.fetch, reads := u.reads, work := u.work }) hplace
  have hwu : { w with fetch := u.fetch, reads := u.reads, work := u.work } = u := (hclose'.trans hplace' :)
  have hports : w.ports = u.ports := (congrArg State.ports hwu :)
  have hformed : ({ (formFrames (mixOf e ls r) w).ports with netTx := u.ports.netTx, headTx := u.ports.headTx } : Ports) =
      u.ports := by
    rw [← hports]
    rfl
  rw [hformed]
  exact ((congrArg (fun p => { w with fetch := u.fetch, reads := u.reads, work := u.work, ports := p }) hports.symm :).trans
    hwu :)

/-- R7: what the frame in RUNNING does not touch. -/
theorem audioFrame_only : withBlocks r (audioFrame e ls o spare r) = r := by
  have hplayers := audioFrame_players e ls o spare r
  have hclose : (audioFrame e ls o spare r).work =
      { (afterPlayers e ls r).work with last := (audioFrame e ls o spare r).work.last } := by
    rw [audioFrame_stages]
    generalize afterPlayers e ls r = u
    cases (landScan ls (afterMusic e ls r)).2 <;> rfl
  have hothers := (afterPlayers_only e ls r).1.1
  have hscan := afterScan_only e ls r
  generalize audioFrame e ls o spare r = t at hplayers hclose ⊢
  generalize afterPlayers e ls r = u at hplayers hclose hothers
  generalize afterScan e ls r = v at hothers hscan
  have hwork : withBlocks r t = withBlocks r { t with work := { u.work with last := t.work.last } } := by rw [← hclose]
  have hplayers : withBlocks r { t with work := { u.work with last := t.work.last } } = withBlocks r u :=
    (congrArg (withBlocks r) hplayers :)
  have hothers : withBlocks r u = withBlocks r v := (congrArg (withBlocks r) hothers :)
  exact ((hwork.trans hplayers).trans hothers).trans (congrArg (withBlocks r) hscan :)

/-- R40, R84, R105, R135: each block as its own steps leave it. -/
theorem audioFrame_blocks : (∀ l, (audioFrame e ls o spare r).leg l = echoed e r (r.leg l)) ∧
    (∀ m, (audioFrame e ls o spare r).src m = (sourceFrame ls m r).1.src m) ∧
    (audioFrame e ls o spare r).scan = (landScan ls r).1.scan ∧
    (audioFrame e ls o spare r).index = (landScan ls r).1.index ∧
    (∀ p, (audioFrame e ls o spare r).pos p = (playerFrame (seenBy ls r p) ls p (afterScan e ls r)).1.pos p) ∧
    (∀ p, withPlayer (micced r p (r.pos p)) ((audioFrame e ls o spare r).pos p) = micced r p (r.pos p)) := by
  have hplayers := audioFrame_players e ls o spare r
  have hothers := (afterPlayers_only e ls r).1
  have hpos := afterPlayers_pos e ls r
  obtain ⟨hleg, hcpos, hsrc, _, _, _⟩ := afterScan_blocks e ls r
  obtain ⟨hscan, hindex, _⟩ := afterScan_scan e ls r
  generalize audioFrame e ls o spare r = t at hplayers ⊢
  generalize afterPlayers e ls r = u at hplayers hothers hpos
  generalize afterScan e ls r = v at hothers hpos hleg hcpos hsrc hscan hindex ⊢
  obtain ⟨hothers, hplayer⟩ := hothers
  have hlegs : t.legs = v.legs := (congrArg State.legs hplayers :).trans (congrArg State.legs hothers :)
  have hsources : t.sources = v.sources := (congrArg State.sources hplayers :).trans (congrArg State.sources hothers :)
  have hpositions : t.positions = u.positions := (congrArg State.positions hplayers :)
  have htpos : ∀ p, t.pos p = u.pos p := fun p => by rw [State.pos, hpositions, State.pos]
  refine ⟨fun l => ?_, fun m => ?_, ?_, ?_, fun p => by rw [htpos, hpos], fun p => by rw [htpos, ← hcpos, hplayer]⟩
  · rw [← hleg, State.leg, hlegs, State.leg]
  · rw [← hsrc, State.src, hsources, State.src]
  · exact ((congrArg State.scan hplayers :).trans (congrArg State.scan hothers :)).trans hscan
  · exact ((congrArg State.index hplayers :).trans (congrArg State.index hothers :)).trans hindex

/-- R151: the adaptation list as the cancellers leave it. -/
theorem audioFrame_list : (audioFrame e ls o spare r).work.list = (echoStep e r).1.work.list := by
  have hothers := (afterPlayers_only e ls r).1.1
  have hwork := (afterScan_blocks e ls r).2.2.2.1
  rw [audioFrame_stages]
  have hlist : ∀ (x : MixIn) (it : Option FetchItem) (u : State),
      (formFrames x (closingPart o spare (placeScan it u))).work.list = u.work.list := fun x it u => by cases it <;> rfl
  rw [hlist]
  generalize afterPlayers e ls r = u at hothers ⊢
  generalize afterScan e ls r = v at hothers hwork
  rw [← hwork]
  exact (congrArg (fun x : State => x.work.list) hothers :)

/-- R200: what the frame in RUNNING raises after the ramps, in its order. -/
theorem audioFrame_says : Says ((List.finRange 24).flatMap (fun l => echoRaises e r l (r.leg l)) ++
    (List.finRange 4).flatMap (fun m => sourceRaises ls m (r.src m)) ++ scanRaises r (landScan ls r).1 ++
    (List.finRange 16).flatMap (fun p => dones p (r.pos p).done.length
      (((audioFrame e ls o spare r).pos p).done.length - (r.pos p).done.length))) r (audioFrame e ls o spare r) := by
  have hsays := afterPlayers_says e ls r
  have hpos := (audioFrame_blocks e ls o spare r).2.2.2.2.1
  have hcpos := (afterScan_blocks e ls r).2.1
  have hplayers := audioFrame_players e ls o spare r
  have hraises : ∀ p, playerRaises (seenBy ls r p) ls (afterScan e ls r) p = dones p (r.pos p).done.length
      (((audioFrame e ls o spare r).pos p).done.length - (r.pos p).done.length) := fun p => by
    have hdone : (micced r p (r.pos p)).done = (r.pos p).done := by
      unfold micced
      split <;> rfl
    rw [playerRaises, ← hpos, hcpos, hdone]
  simp only [hraises] at hsays
  generalize audioFrame e ls o spare r = t at hplayers hsays ⊢
  exact hsays.then (congrArg State.frame hplayers :) (congrArg State.link hplayers :)

/-- R128, R156: the reads, the fetch list and the record of the service. -/
theorem audioFrame_closes {s : State} (hareas : r.areas = s.areas) (hreads : r.reads.map Read.item = o.served)
    (hfresh : ∀ x ∈ r.reads, x.settings = s.area x.item.area ∧ x.words = [] ∧ x.failed = none) :
    Closing s o r.frame spare ((afterPlayers e ls r).fetch ++ (landScan ls r).2.toList) (echoStep e r).1.work
      (audioFrame e ls o spare r) := by
  obtain ⟨⟨hothers, _⟩, hkept⟩ := afterPlayers_only e ls r
  obtain ⟨_, _, _, hwork, hkept', _⟩ := afterScan_blocks e ls r
  have honly := afterScan_only e ls r
  have hitem := (afterScan_scan e ls r).2.2
  rw [audioFrame_stages, hitem]
  generalize afterPlayers e ls r = u at hothers hkept ⊢
  generalize afterScan e ls r = v at hothers hkept hwork hkept' honly
  have hvframe : v.frame = r.frame := (congrArg State.frame honly :)
  have hvareas : v.areas = r.areas := (congrArg State.areas honly :)
  have huframe : u.frame = r.frame := (congrArg State.frame hothers :).trans hvframe
  have huareas : u.areas = s.areas := ((congrArg State.areas hothers :).trans hvareas).trans hareas
  have huwork : u.work = (echoStep e r).1.work := (congrArg State.work hothers :).trans hwork
  have hread : ReadsKept r u := by
    unfold ReadsKept at hkept hkept' ⊢
    rw [hkept, hkept']
  rw [← huframe, ← huwork]
  exact (placed_closes (landScan ls r).2 huareas ((items_kept hread).trans hreads)
    (reads_kept_fresh hread (fun it a => a = s.area it.area) hfresh)).of rfl rfl rfl

/-! ## The mix of the frame (R8 to R12) -/

/-- R105: the state each player finds, as far as it sees, with its own record written into what the frame leaves. -/
theorem seenAlike_ready {c t : State} (p : Position) (hframe : t.frame = c.frame) (hlegs : t.legs = c.legs)
    (hgroups : t.groups = c.groups) (hsup : t.supervision = c.supervision) (hmask : t.quietMask = c.quietMask)
    (hlevel : t.quietLevel = c.quietLevel) (hpos : ∀ q, withPlayer (c.pos q) (t.pos q) = c.pos q) :
    SeenAlike p c (t.setPos p (c.pos p)) := by
  refine ⟨(State.pos_setPos_same t p _).symm, hframe.symm, hlegs.symm, hgroups.symm, hsup.symm, hmask.symm, hlevel.symm,
    fun q => ?_⟩
  by_cases hq : q = p
  · subst hq
    rw [State.pos_setPos_same]
    exact ⟨rfl, rfl, rfl⟩
  · rw [State.pos_setPos_other _ _ _ _ hq]
    have h := hpos q
    exact ⟨(congrArg PosRec.mic h :).symm, (congrArg PosRec.enabled h :).symm, (congrArg PosRec.muted h :).symm⟩

theorem audioFrame_ready (p : Position) :
    SeenAlike p (afterScan e ls r) ((audioFrame e ls o spare r).setPos p (micced r p (r.pos p))) := by
  have hplayers := audioFrame_players e ls o spare r
  have hothers := (afterPlayers_only e ls r).1.1
  have hpos := (audioFrame_blocks e ls o spare r).2.2.2.2.2
  have hcpos := (afterScan_blocks e ls r).2.1
  simp only [← hcpos] at hpos ⊢
  generalize audioFrame e ls o spare r = t at hplayers hpos ⊢
  generalize afterPlayers e ls r = u at hplayers hothers
  generalize afterScan e ls r = v at hothers hpos ⊢
  exact seenAlike_ready p ((congrArg State.frame hplayers :).trans (congrArg State.frame hothers :))
    ((congrArg State.legs hplayers :).trans (congrArg State.legs hothers :))
    ((congrArg State.groups hplayers :).trans (congrArg State.groups hothers :))
    ((congrArg State.supervision hplayers :).trans (congrArg State.supervision hothers :))
    ((congrArg State.quietMask hplayers :).trans (congrArg State.quietMask hothers :))
    ((congrArg State.quietLevel hplayers :).trans (congrArg State.quietLevel hothers :)) hpos

theorem getD_map_finRange {α : Type} {n : Nat} (f : Fin n → α) (i : Fin n) (d : α) :
    ((List.finRange n).map f).getD i.val d = f i := by
  simp [List.getD]

theorem mixOf_echo (l : Leg) : (mixOf e ls r).echo[l] = echoOut e r (r.leg l) := by
  have hget : (mixOf e ls r).echo[l] = (echoStep e r).2.getD l.val [] := by simp [mixOf, mkMix, vgen]
  rw [hget, echoStep_out, getD_map_finRange]

theorem mixOf_mic (p : Position) : (mixOf e ls r).mic[p] = micOut r p (r.pos p) := by
  have hget : (mixOf e ls r).mic[p] = (micStep (echoStep e r).1).2.getD p.val [] := by simp [mixOf, mkMix, vgen]
  rw [hget, micStep_out, getD_map_finRange]
  have honly := echoStep_only e r
  generalize (echoStep e r).1 = u at honly ⊢
  have hpositions : u.positions = r.positions := (congrArg State.positions honly :)
  have hports : u.ports = r.ports := (congrArg State.ports honly :)
  have hpos : u.pos p = r.pos p := by rw [State.pos, hpositions, State.pos]
  simp only [micOut, headInbound, hports, hpos]

theorem mixOf_music (m : Source) : (mixOf e ls r).music[m] = (sourceFrame ls m r).2 := by
  have hget : (mixOf e ls r).music[m] = (sourceStep ls (micStep (echoStep e r).1).1).2.getD m.val [] := by
    simp [mixOf, mkMix, vgen]
  have hecho := echoStep_only e r
  rw [hget]
  generalize (echoStep e r).1 = u at hecho ⊢
  have hmic := micStep_only u
  generalize (micStep u).1 = v at hmic ⊢
  have hsources : v.sources = r.sources := (congrArg State.sources hmic :).trans (congrArg State.sources hecho :)
  have hsrc : v.src m = r.src m := by rw [State.src, hsources, State.src]
  rw [(sourceStep_eq ls v).2.1, getD_map_finRange, (sourceFrame_congr ls m hsrc).2]

theorem mixOf_prompt (p : Position) :
    (mixOf e ls r).prompt[p] = (playerFrame (seenBy ls r p) ls p (afterScan e ls r)).2 := by
  have hget : (mixOf e ls r).prompt[p] =
      (playerStep ls (afterMusic e ls r).index (afterScan e ls r).index (afterScan e ls r)).2.getD p.val none := by
    simp [mixOf, mkMix, vgen]
  rw [hget, (playerStep_eq ls _ _ _).2.1, getD_map_finRange, ← afterPlayers_index e ls r p]
  rfl

theorem audioFrame_formed : (∀ k : NetSlot, (audioFrame e ls o spare r).ports.netTx[k] =
      slotFrame (audioFrame e ls o spare r) (mixOf e ls r) k) ∧
    ∀ p : Position, (audioFrame e ls o spare r).ports.headTx[p] =
      frameOf (earSample (audioFrame e ls o spare r) (mixOf e ls r) p) := by
  rw [audioFrame_stages]
  generalize closingPart o spare (placeScan (landScan ls (afterMusic e ls r)).2 (afterPlayers e ls r)) = u
  generalize mixOf e ls r = x
  have halike : MixAlike u (formFrames x u) := ⟨rfl, rfl, rfl, rfl, rfl, rfl, rfl⟩
  refine ⟨fun k => ?_, fun p => ?_⟩
  · rw [← slotFrame_congr halike]
    simp [formFrames, vgen]
  · rw [← earSample_congr halike]
    simp [formFrames, vgen]

end

end Sys2Proof.Machine
end

section
/-! PROOF. The states a frame start goes through up to the ramps, and what they keep of the state before it (R7, R179). -/

namespace Sys2Proof.Machine

section
variable (e : FrameEnd) (quiet : Bool) (s : State)

/-- R129, R179: the frame start once the reads of the interval have landed. -/
def landedFrame : State := (landReads (openFrame e quiet s)).1

/-- R166: the state the staged changes leave in RUNNING, with the legs freshly held; in STANDBY none applies. -/
def changedFrame : State × List Leg :=
  if s.part = .running then stageApplication (landedFrame e quiet s) else (landedFrame e quiet s, [])

/-- R153: the opening part of the frame's service. -/
def openingFrame : Opening := openingPart (changedFrame e quiet s).1

/-- R154, R155: the state the opening part leaves. -/
def openedFrame : State := settleOpening (openingFrame e quiet s) (changedFrame e quiet s).1

/-- R76: the state once the ramps have risen. -/
def rampedFrame : State := rampStep (landedFrame e quiet s) (changedFrame e quiet s).2 (openedFrame e quiet s)

theorem takeFrame_running (h : s.part = .running) : takeFrame e quiet s = endFrame s.link.notices.length (s.draws + 1)
    (audioFrame e (s.reads.map Read.land) (openingFrame e quiet s) (spareOf (changedFrame e quiet s).1)
      (rampedFrame e quiet s)) := by
  simp only [takeFrame, endFrame, runningFrame, rampedFrame, openedFrame, openingFrame, changedFrame, if_pos h]
  rfl

theorem takeFrame_standby (h : s.part = .standby) : takeFrame e quiet s = endFrame s.link.notices.length (s.draws + 1)
    (standbyFrame (s.reads.map Read.land) (landedFrame e quiet s)) := by
  have hnot : ¬ s.part = .running := by rw [h]; nofun
  simp only [takeFrame, endFrame, if_neg hnot]
  rfl

/-! ## What stands before the blocks take their steps -/

/-- x with all that a frame start acts on before the blocks take their steps taken from s. -/
abbrev withFrame (s x : State) : State := { x with
  frame := s.frame, quietLevel := s.quietLevel, legs := s.legs, positions := s.positions, groups := s.groups
  supervision := s.supervision, fetch := s.fetch, reads := s.reads, fault := s.fault, link := s.link
  routing := s.routing, levels := s.levels, echo := s.echo
  work := { x.work with commitment := s.work.commitment, list := s.work.list } }

/-- w stands for s once its frame start has come to the blocks: the tables that the changes left in a, and the rest of s. -/
structure FrameFrom (a : State) (o : Opening) (w : State) : Prop where
  only : withFrame s w = s
  frame : w.frame = s.frame + 1
  level : w.quietLevel = quiet
  fault : w.fault = (takeFaults (s.reads.map Read.land) { s with frame := s.frame + 1 }).fault
  groups : w.groups = a.groups
  supervision : w.supervision = a.supervision
  stages : w.routing = a.routing ∧ w.levels = a.levels ∧ w.echo = a.echo
  commitment : w.work.commitment = a.work.commitment
  positions : ∀ p, withControls (s.pos p) (w.pos p) = s.pos p
  served : w.reads.map Read.item = o.served
  fresh : ∀ x ∈ w.reads, x.settings = s.area x.item.area ∧ x.words = [] ∧ x.failed = none
  fetch : w.fetch = o.fetch

theorem changedFrame_tables : TablesOnly (landedFrame e quiet s) ((changedFrame e quiet s).1.setLink (landedFrame e quiet s).link) := by
  unfold changedFrame
  split
  · exact (stageApplication_only _).1
  · exact .refl _

theorem openedFrame_from : FrameFrom quiet s (changedFrame e quiet s).1 (openingFrame e quiet s) (openedFrame e quiet s) := by
  obtain ⟨hland, hframe, hlevel, hread, _, hfault, _⟩ := landedState e quiet s
  obtain ⟨htables, hcontrols⟩ := changedFrame_tables e quiet s
  have hland : ({ landedFrame e quiet s with
    frame := s.frame, quietLevel := s.quietLevel, legs := s.legs, reads := s.reads, fault := s.fault, link := s.link } : State) =
      s := hland
  have hframe : (landedFrame e quiet s).frame = s.frame + 1 := hframe
  have hlevel : (landedFrame e quiet s).quietLevel = quiet := hlevel
  have hread : (landedFrame e quiet s).reads = [] := hread
  have hfault : (landedFrame e quiet s).fault = (takeFaults (s.reads.map Read.land) { s with frame := s.frame + 1 }).fault := hfault
  unfold openedFrame
  generalize (changedFrame e quiet s).1 = a at htables hcontrols ⊢
  generalize landedFrame e quiet s = v at hland hframe hlevel hread hfault htables hcontrols
  generalize openingFrame e quiet s = o
  have hopened := settleOpening_only o a
  have hreads := settleOpening_reads o a
  have hfetch := settleOpening_fetch o a
  generalize settleOpening o a = w at hopened hreads hfetch ⊢
  have hareads : a.reads = [] := (congrArg State.reads htables :).trans hread
  have haareas : a.areas = s.areas := (congrArg State.areas htables :).trans (congrArg State.areas hland :)
  rw [hareads, List.nil_append] at hreads
  have hwpos : ∀ p, w.pos p = a.pos p := fun p => by
    have hpositions : w.positions = a.positions := (congrArg State.positions hopened :)
    rw [State.pos, hpositions, State.pos]
  have hvpos : ∀ p, v.pos p = s.pos p := fun p => by
    have hpositions : v.positions = s.positions := (congrArg State.positions hland :)
    rw [State.pos, hpositions, State.pos]
  refine ⟨?_, ?_, ?_, ?_, (congrArg State.groups hopened :), (congrArg State.supervision hopened :),
    ⟨(congrArg State.routing hopened :), (congrArg State.levels hopened :), (congrArg State.echo hopened :)⟩,
    (congrArg (fun x : State => x.work.commitment) hopened :), fun p => ?_, ?_, fun x hx => ?_, hfetch⟩
  · have hopened : withFrame s w = withFrame s a := (congrArg (withFrame s) hopened :)
    have htables : withFrame s a = withFrame s v := (congrArg (withFrame s) htables :)
    exact (hopened.trans htables).trans (congrArg (withFrame s) hland :)
  · exact ((congrArg State.frame hopened :).trans (congrArg State.frame htables :)).trans hframe
  · exact ((congrArg State.quietLevel hopened :).trans (congrArg State.quietLevel htables :)).trans hlevel
  · exact ((congrArg State.fault hopened :).trans (congrArg State.fault htables :)).trans hfault
  · rw [hwpos, ← hvpos]
    exact hcontrols p
  · rw [hreads, List.map_map]
    exact List.map_id o.served
  · rw [hreads] at hx
    obtain ⟨it, _, rfl⟩ := List.mem_map.1 hx
    exact ⟨by rw [openRead, State.area, haareas, State.area], rfl, rfl⟩

variable {quiet s}

theorem FrameFrom.of_legs {a w u : State} {o : Opening} (h : FrameFrom quiet s a o w)
    (hlegs : { u with legs := w.legs } = w) : FrameFrom quiet s a o u := by
  obtain ⟨honly, hframe, hlevel, hfault, hgroups, hsup, ⟨hrouting, hlevels, hecho⟩, hcommit, hpos, hserved, hfresh, hfetch⟩ := h
  have hreads : u.reads = w.reads := (congrArg State.reads hlegs :)
  have hupos : ∀ p, u.pos p = w.pos p := fun p => by
    have hpositions : u.positions = w.positions := (congrArg State.positions hlegs :)
    rw [State.pos, hpositions, State.pos]
  refine ⟨?_, (congrArg State.frame hlegs :).trans hframe, (congrArg State.quietLevel hlegs :).trans hlevel,
    (congrArg State.fault hlegs :).trans hfault, (congrArg State.groups hlegs :).trans hgroups,
    (congrArg State.supervision hlegs :).trans hsup,
    ⟨(congrArg State.routing hlegs :).trans hrouting, (congrArg State.levels hlegs :).trans hlevels,
      (congrArg State.echo hlegs :).trans hecho⟩,
    (congrArg (fun x : State => x.work.commitment) hlegs :).trans hcommit, fun p => by rw [hupos]; exact hpos p,
    by rw [hreads, hserved], by rw [hreads]; exact hfresh, (congrArg State.fetch hlegs :).trans hfetch⟩
  have hlegs : withFrame s u = withFrame s w := (congrArg (withFrame s) hlegs :)
  exact hlegs.trans honly

variable (quiet s)

theorem rampedFrame_from : FrameFrom quiet s (changedFrame e quiet s).1 (openingFrame e quiet s) (rampedFrame e quiet s) :=
  (openedFrame_from e quiet s).of_legs (rampStep_only _ _ _)

/-- R76: each leg before its canceller takes the frame. -/
theorem rampedFrame_leg (l : Leg) : (rampedFrame e quiet s).leg l = { (openedFrame e quiet s).leg l with
    ramp := if ((openedFrame e quiet s).leg l).state = .held ∧ (s.leg l).state = .held ∧ l ∉ (changedFrame e quiet s).2 then
        min 32768 (((openedFrame e quiet s).leg l).ramp + 2048)
      else ((openedFrame e quiet s).leg l).ramp } := by
  have hstate : ((landedFrame e quiet s).leg l).state = (s.leg l).state := (landedState e quiet s).2.2.2.2.1 l
  rw [rampedFrame, rampStep_leg, ramped, hstate]

theorem rampedFrame_keeps : (rampedFrame e quiet s).pos = (openedFrame e quiet s).pos ∧
    (rampedFrame e quiet s).work = (openedFrame e quiet s).work := by
  have honly := rampStep_only (landedFrame e quiet s) (changedFrame e quiet s).2 (openedFrame e quiet s)
  have hpositions : (rampedFrame e quiet s).positions = (openedFrame e quiet s).positions := by
    unfold rampedFrame
    generalize rampStep _ _ (openedFrame e quiet s) = t at honly ⊢
    exact (congrArg State.positions honly :)
  refine ⟨by funext p; rw [State.pos, hpositions, State.pos], ?_⟩
  unfold rampedFrame
  generalize rampStep _ _ (openedFrame e quiet s) = t at honly ⊢
  exact (congrArg State.work honly :)

/-! ## What is raised before the blocks take their steps (R132, R169, R157) -/

theorem landedFrame_says : Says (faultRaises s (landedFrame e quiet s)) { s with frame := s.frame + 1 } (landedFrame e quiet s) :=
  (takeFaults_says (s.reads.map Read.land) { openFrame e quiet s with reads := [] }).from rfl rfl

theorem openedFrame_says {debts : List (Nat × Detail)}
    (hdebts : Voices debts (settleOpening (openingFrame e quiet s)) (changedFrame e quiet s).1) :
    Says (faultRaises s (landedFrame e quiet s) ++ (if s.part = .running then stageRaises (landedFrame e quiet s) else []) ++
      debts) { s with frame := s.frame + 1 } (openedFrame e quiet s) := by
  have hchanges : Says (if s.part = .running then stageRaises (landedFrame e quiet s) else []) (landedFrame e quiet s)
      (changedFrame e quiet s).1 := by
    unfold changedFrame
    split
    · exact (stageApplication_voices _).says
    · exact .none rfl rfl
  exact ((landedFrame_says e quiet s).trans hchanges).trans hdebts.says

theorem rampedFrame_says {debts : List (Nat × Detail)}
    (hdebts : Voices debts (settleOpening (openingFrame e quiet s)) (changedFrame e quiet s).1) :
    Says (faultRaises s (landedFrame e quiet s) ++ (if s.part = .running then stageRaises (landedFrame e quiet s) else []) ++
      debts) { s with frame := s.frame + 1 } (rampedFrame e quiet s) := by
  have hopened := openedFrame_says e quiet s hdebts
  have honly := rampStep_only (landedFrame e quiet s) (changedFrame e quiet s).2 (openedFrame e quiet s)
  unfold rampedFrame
  generalize rampStep _ _ (openedFrame e quiet s) = t at honly ⊢
  exact hopened.then (congrArg State.frame honly :) (congrArg State.link honly :)

end

end Sys2Proof.Machine
end

section
/-! PROOF. What FRAME_START leaves in both part states, and its obligation (R7, R179). -/

namespace Sys2Proof.Machine

/-! ## What both part states keep -/

/-- From w to u the blocks of a frame start have taken their steps, and the closing part has served. -/
def FrameOnly (w u : State) : Prop := withBlocks w u = w

section
variable {quiet : Bool} {s a w u t : State} {o : Opening} {n d : Nat}

theorem FrameFrom.same (hw : FrameFrom quiet s a o w) : w.ports = s.ports ∧ w.sources = s.sources ∧ w.scan = s.scan ∧
    w.index = s.index ∧ w.areas = s.areas ∧ w.quietMask = s.quietMask ∧ w.clock = s.clock ∧ keptOf w = keptOf s ∧
    w.work.ceiling = s.work.ceiling ∧ w.work.ratio = s.work.ratio := by
  have honly := hw.only
  exact ⟨(congrArg State.ports honly :), (congrArg State.sources honly :), (congrArg State.scan honly :),
    (congrArg State.index honly :), (congrArg State.areas honly :), (congrArg State.quietMask honly :),
    (congrArg State.clock honly :), (congrArg keptOf honly :), (congrArg (fun x : State => x.work.ceiling) honly :),
    (congrArg (fun x : State => x.work.ratio) honly :)⟩

/-- What the staged changes leave of a position: all but what they set. -/
theorem FrameFrom.control {α : Type} (hw : FrameFrom quiet s a o w) (f : PosRec → α)
    (hf : ∀ q r : PosRec, f (withControls q r) = f r) (p : Position) : f (w.pos p) = f (s.pos p) := by
  rw [← hf (s.pos p), hw.positions]

/-- R179: the counters, the level, the clock, the collection, the fault record, the tables of the changes and the rest. -/
theorem frame_keeps (hw : FrameFrom quiet s a o w) (hu : FrameOnly w u) (ht : t = endFrame n d u) :
    (t.frame = s.frame + 1 ∧ t.quietLevel = quiet ∧ t.clock = { s.clock with due := none } ∧ t.ports.netRx = [] ∧
      t.ports.headRx = [] ∧ t.fault = (takeFaults (s.reads.map Read.land) { s with frame := s.frame + 1 }).fault ∧
      t.groups = a.groups ∧ t.supervision = a.supervision ∧ ∀ c, t.stage c = a.stage c) ∧
    (t.work.commitment = a.work.commitment ∧ t.work.ceiling = s.work.ceiling ∧ t.work.ratio = s.work.ratio) ∧
    { t.ports with
      netRx := s.ports.netRx, headRx := s.ports.headRx, netTx := s.ports.netTx, headTx := s.ports.headTx } = s.ports ∧
    keptOf t = keptOf s := by
  obtain ⟨hports, _, _, _, _, _, hclock, hkept, hceiling, hratio⟩ := hw.same
  obtain ⟨_, hframe, hlevel, hfault, hgroups, hsup, ⟨hrouting, hlevels, hecho⟩, hcommit, _, _, _, _⟩ := hw
  have htports : t.ports = { u.ports with netRx := [], headRx := [] } := by rw [ht]; rfl
  have huports : ({ u.ports with netTx := w.ports.netTx, headTx := w.ports.headTx } : Ports) = w.ports :=
    (congrArg State.ports hu :)
  have hclock' : t.clock = { u.clock with due := none } := by rw [ht]; rfl
  have hstage : ∀ c, t.stage c = u.stage c := fun c => by rw [ht]; cases c <;> rfl
  refine ⟨⟨?_, ?_, ?_, by rw [htports], by rw [htports], ?_, ?_, ?_, fun c => ?_⟩, ⟨?_, ?_, ?_⟩, ?_, ?_⟩
  · rw [← hframe, ht]
    exact (congrArg State.frame hu :)
  · rw [← hlevel, ht]
    exact (congrArg State.quietLevel hu :)
  · rw [hclock', ← hclock]
    exact congrArg (fun c : Clock => { c with due := none }) (congrArg State.clock hu :)
  · rw [← hfault, ht]
    exact (congrArg State.fault hu :)
  · rw [← hgroups, ht]
    exact (congrArg State.groups hu :)
  · rw [← hsup, ht]
    exact (congrArg State.supervision hu :)
  · rw [hstage]
    cases c with
    | routing => exact (congrArg State.routing hu :).trans hrouting
    | levels => exact (congrArg State.levels hu :).trans hlevels
    | echo => exact (congrArg State.echo hu :).trans hecho
  · rw [← hcommit, ht]
    exact (congrArg (fun x : State => x.work.commitment) hu :)
  · rw [← hceiling, ht]
    exact (congrArg (fun x : State => x.work.ceiling) hu :)
  · rw [← hratio, ht]
    exact (congrArg (fun x : State => x.work.ratio) hu :)
  · rw [← hports, htports]
    have h := congrArg (fun p : Ports => { p with
      netRx := w.ports.netRx, headRx := w.ports.headRx, netTx := w.ports.netTx, headTx := w.ports.headTx }) huports
    exact h
  · rw [← hkept, ht]
    exact (congrArg keptOf hu :)

/-- R158: the record of the frame's service. -/
theorem Closing.last {spare : Nat} {stamp : Stamp} {fetch : List FetchItem} {before : Work}
    (h : Closing s o stamp spare fetch before t) : t.work.last = {
      stamp := stamp, spare := spare, adaptations := o.granted.length, openingFetches := o.served.length
      closingFetches := t.reads.length - o.served.length, unitsLeft := t.work.last.unitsLeft
      eligible := o.granted.length + o.todo.length, notServed := o.todo.length, itemsLeft := t.fetch.length } :=
  congrArg Work.last h.work

theorem faultRaises_congr (h : t.fault = u.fault) : faultRaises s t = faultRaises s u := by
  rw [faultRaises, faultRaises, h]

theorem scanRaises_congr (hs : w.scan = s.scan) (ht : u.scan = t.scan) : scanRaises w u = scanRaises s t := by
  rw [scanRaises, scanRaises, hs, ht]

end

/-! ## STANDBY (R153, R210) -/

/-- R210: the frame of a STANDBY part once the closing part has served. -/
def silenced (u : State) : State :=
  { u with
    positions := vmap (fun r => { r with available := false }) u.positions
    ports := { u.ports with netTx := Vector.replicate 32 silence, headTx := Vector.replicate 16 silence } }

section
variable (e : FrameEnd) (quiet : Bool) {s : State} (hpart : s.part = .standby)
include hpart

theorem changedFrame_standby : changedFrame e quiet s = (landedFrame e quiet s, []) :=
  if_neg (by rw [hpart]; nofun)

theorem standbyFrame_stages : standbyFrame (s.reads.map Read.land) (landedFrame e quiet s) =
    silenced (closingPart (openingFrame e quiet s) (spareOf (changedFrame e quiet s).1)
      (placeScan (landScan (s.reads.map Read.land) (openedFrame e quiet s)).2
        (landScan (s.reads.map Read.land) (openedFrame e quiet s)).1)) := by
  simp only [standbyFrame, silenced, openedFrame, openingFrame, changedFrame_standby e quiet hpart]

theorem openedFrame_positions : (openedFrame e quiet s).positions = s.positions := by
  have hopened : (openedFrame e quiet s).positions = (changedFrame e quiet s).1.positions :=
    (openedState (openingFrame e quiet s) (changedFrame e quiet s).1).2.2.2.1
  have hland : ({ landedFrame e quiet s with
    frame := s.frame, quietLevel := s.quietLevel, legs := s.legs, reads := s.reads, fault := s.fault, link := s.link } : State) =
      s := (landedState e quiet s).1
  rw [hopened, changedFrame_standby e quiet hpart]
  generalize landedFrame e quiet s = v at hland ⊢
  exact (congrArg State.positions hland :)

/-- R153, R210: what a frame start leaves in STANDBY, from the opening part on. -/
theorem standbyFrame_leaves :
    let u := standbyFrame (s.reads.map Read.land) (landedFrame e quiet s)
    FrameOnly (openedFrame e quiet s) u ∧
    Closing s (openingFrame e quiet s) (s.frame + 1) (spareOf (changedFrame e quiet s).1)
      ((openingFrame e quiet s).fetch ++ (landScan (s.reads.map Read.land) s).2.toList) (openedFrame e quiet s).work u ∧
    u.scan = (landScan (s.reads.map Read.land) s).1.scan ∧ u.index = (landScan (s.reads.map Read.land) s).1.index ∧
    Says (scanRaises s (landScan (s.reads.map Read.land) s).1) (openedFrame e quiet s) u ∧
    u.legs = (openedFrame e quiet s).legs ∧ (∀ p, u.pos p = { s.pos p with available := false }) ∧ u.sources = s.sources ∧
    (∀ k : NetSlot, u.ports.netTx[k] = List.replicate 64 0) ∧ ∀ p : Position, u.ports.headTx[p] = List.replicate 64 0 := by
  intro u
  have hu : u = silenced _ := standbyFrame_stages e quiet hpart
  have hfrom := openedFrame_from e quiet s
  have hpositions := openedFrame_positions e quiet hpart
  rw [hu]
  generalize (changedFrame e quiet s).1 = a at hfrom ⊢
  generalize openingFrame e quiet s = o at hfrom ⊢
  generalize openedFrame e quiet s = w at hfrom hpositions ⊢
  obtain ⟨_, hsources, hscan, hindex, hareas, _, _, _, _, _⟩ := hfrom.same
  obtain ⟨hscan', hindex', hitem⟩ := landScan_congr (s.reads.map Read.land) hscan hindex hareas
  have honly := landScan_only (s.reads.map Read.land) w
  have hsays : Says _ w (landScan (s.reads.map Read.land) w).1 := (landScan_voices _ w).says
  rw [scanRaises_congr hscan hscan'] at hsays
  rw [hitem]
  generalize (landScan (s.reads.map Read.land) w).1 = v at honly hsays hscan' hindex' ⊢
  generalize (landScan (s.reads.map Read.land) s).2 = it
  have hreads : v.reads = w.reads := (congrArg State.reads honly :)
  have hframe : v.frame = s.frame + 1 := (congrArg State.frame honly :).trans hfrom.frame
  have hwork : v.work = w.work := (congrArg State.work honly :)
  have hfetch : v.fetch = o.fetch := (congrArg State.fetch honly :).trans hfrom.fetch
  have hclose := placed_closes (s := s) (u := v) (o := o) (spare := spareOf a) it ((congrArg State.areas honly :).trans hareas)
    (by rw [hreads, hfrom.served]) (by rw [hreads]; exact hfrom.fresh)
  rw [hframe, hwork, hfetch] at hclose
  have hplaced := placeScan_only it v
  generalize placeScan it v = x at hclose hplaced ⊢
  have hclosed := closingPart_only o (spareOf a) x
  generalize closingPart o (spareOf a) x = y at hclose hclosed ⊢
  have hyv : ({ y with fetch := v.fetch, reads := v.reads, work := v.work } : State) = v :=
    ((congrArg (fun z : State => { z with fetch := v.fetch, reads := v.reads, work := v.work }) hclosed).trans
      (congrArg (fun z : State => { z with fetch := v.fetch, reads := v.reads, work := v.work }) hplaced) :)
  have hypositions : y.positions = s.positions :=
    ((congrArg State.positions hyv :).trans (congrArg State.positions honly :)).trans hpositions
  refine ⟨?_, hclose.of rfl rfl rfl, ((congrArg State.scan hyv :).trans hscan' :), ((congrArg State.index hyv :).trans hindex' :),
    hsays.then (congrArg State.frame hyv :) (congrArg State.link hyv :),
    ((congrArg State.legs hyv :).trans (congrArg State.legs honly :) :), fun p => ?_,
    (((congrArg State.sources hyv :).trans (congrArg State.sources honly :)).trans hsources :), fun k => ?_, fun p => ?_⟩
  · have hywork : ({ y.work with list := w.work.list, last := w.work.last } : Work) =
        { v.work with list := w.work.list, last := w.work.last } := by rw [hclose.work, hwork]
    have hsame : withBlocks w (silenced y) = withBlocks w { y with fetch := v.fetch, reads := v.reads, work := v.work } :=
      (congrArg (fun k => { withBlocks w y with work := k }) hywork :)
    have hyv : withBlocks w { y with fetch := v.fetch, reads := v.reads, work := v.work } = withBlocks w v :=
      congrArg (withBlocks w) hyv
    exact (hsame.trans hyv).trans (congrArg (withBlocks w) honly :)
  · have hget : (silenced y).pos p = { y.pos p with available := false } := by simp [silenced, State.pos, vmap]
    rw [hget, State.pos, hypositions, State.pos]
  · simp [silenced, silence, Config.frameLen]
  · simp [silenced, silence, Config.frameLen]

end

end Sys2Proof.Machine
end

section
/-! PROOF. FRAME_START in RUNNING, block by block, and its obligation (R7, R40, R60, R84, R105, R179). -/

namespace Sys2Proof.Machine

/-! ## A leg's frame (R40, R49) -/

section
variable {e : FrameEnd} {src : State} {r : LegRec} {k : NetSlot}

theorem echoed_closed (h : r.state = .closed) : echoed e src r = r := by simp [echoed, h]

/-- R49: what a divergence reset leaves of a leg's record. -/
def resetLeg (r : LegRec) (resets : Nat) : LegRec :=
  { r with ec := { r.ec with
    taps := List.replicate r.ec.taps.length 0, hangover := 0, divergence := 0
    divergenceResets := if resets < 65535 then resets + 1 else 65535 } }

theorem echoed_open (h : r.state ≠ .closed) (hslot : r.slot = some k) : echoed e src r =
    if 16 ≤ (echoFrame r (netInbound e k src)).1.ec.divergence then
      resetLeg (echoFrame r (netInbound e k src)).1 r.ec.divergenceResets
    else (echoFrame r (netInbound e k src)).1 := by
  have hclear : ∀ f : LegRec, f.ec.divergenceResets = r.ec.divergenceResets → ({ f with ec := { clearTaps f.ec with
      hangover := 0, divergence := 0, divergenceResets := satInc 65535 f.ec.divergenceResets } } : LegRec) =
        resetLeg f r.ec.divergenceResets := fun f hf => by
    simp only [clearTaps, resetLeg, satInc, hf, List.map_const']
  have hkeeps := echoFrame_keeps r (netInbound e k src)
  cases hstate : r.state
  · exact absurd hstate h
  all_goals
    simp only [echoed, hstate, hslot, hclear _ hkeeps]

theorem echoOut_open (h : r.state ≠ .closed) (hslot : r.slot = some k) :
    echoOut e src r = (echoFrame r (netInbound e k src)).2 := by
  cases hstate : r.state
  · exact absurd hstate h
  all_goals
    simp only [echoOut, hstate, hslot]

/-- R49: whether the frame's divergence count has reached 16. -/
def divergesIn (e : FrameEnd) (src : State) (r : LegRec) : Bool :=
  decide (r.state ≠ .closed) && r.slot.any (fun k => decide (16 ≤ (echoFrame r (netInbound e k src)).1.ec.divergence))

theorem echoRaises_eq (l : Leg) : echoRaises e src l r =
    if divergesIn e src r = true then [(l.val, .divergenceReset (echoed e src r).ec.divergenceResets)] else [] := by
  by_cases h : r.state = .closed
  · simp [echoRaises, divergesIn, h]
  · cases hslot : r.slot with
    | none => cases hstate : r.state <;> simp [echoRaises, divergesIn, hslot, hstate]
    | some k =>
      have hraises : echoRaises e src l r = if 16 ≤ (echoFrame r (netInbound e k src)).1.ec.divergence then
          [(l.val, .divergenceReset (satInc 65535 (echoFrame r (netInbound e k src)).1.ec.divergenceResets))] else [] := by
        cases hstate : r.state
        · exact absurd hstate h
        all_goals simp only [echoRaises, hstate, hslot]
      have hdiverges : divergesIn e src r = decide (16 ≤ (echoFrame r (netInbound e k src)).1.ec.divergence) := by
        simp [divergesIn, h, hslot]
      rw [hraises, hdiverges, echoed_open h hslot, echoFrame_keeps]
      by_cases hd : 16 ≤ (echoFrame r (netInbound e k src)).1.ec.divergence
      · rw [if_pos hd, if_pos (decide_eq_true hd), if_pos hd]
        rfl
      · rw [if_neg hd, if_neg (by simpa using hd)]

end

theorem flatMap_if {α β : Type} (c : α → Bool) (f : α → β) (l : List α) :
    l.flatMap (fun a => if c a = true then [f a] else []) = (l.filter c).map f := by
  induction l with
  | nil => rfl
  | cons a l ih =>
    rw [List.flatMap_cons, ih, List.filter_cons]
    split <;> rfl

section
variable (e : FrameEnd) (quiet : Bool) (s : State)

/-! ## The blocks (R7) -/

/-- R7: the frame in RUNNING, before it ends. -/
def playedFrame : State :=
  audioFrame e (s.reads.map Read.land) (openingFrame e quiet s) (spareOf (changedFrame e quiet s).1) (rampedFrame e quiet s)

theorem netInbound_ramped (k : NetSlot) : netInbound e k (rampedFrame e quiet s) = netInbound e k s :=
  netInbound_ports (rampedFrame_from e quiet s).same.1 e k

theorem src_ramped (m : Source) : (rampedFrame e quiet s).src m = s.src m := by
  rw [State.src, (rampedFrame_from e quiet s).same.2.1, State.src]

theorem landScan_ramped (ls : List Landed) : (landScan ls (rampedFrame e quiet s)).1.scan = (landScan ls s).1.scan ∧
    (landScan ls (rampedFrame e quiet s)).1.index = (landScan ls s).1.index ∧
    (landScan ls (rampedFrame e quiet s)).2 = (landScan ls s).2 := by
  obtain ⟨_, _, hscan, hindex, hareas, _⟩ := (rampedFrame_from e quiet s).same
  exact landScan_congr ls hscan hindex hareas

theorem playedFrame_only : FrameOnly (rampedFrame e quiet s) (playedFrame e quiet s) := audioFrame_only _ _ _ _ _

theorem playedFrame_leg (l : Leg) : (playedFrame e quiet s).leg l =
    echoed e (rampedFrame e quiet s) ((rampedFrame e quiet s).leg l) := (audioFrame_blocks _ _ _ _ _).1 l

theorem playedFrame_src (m : Source) :
    (playedFrame e quiet s).src m = (sourceFrame (s.reads.map Read.land) m s).1.src m := by
  rw [playedFrame, (audioFrame_blocks _ _ _ _ _).2.1, (sourceFrame_congr _ m (src_ramped e quiet s m)).1]

theorem playedFrame_scan : (playedFrame e quiet s).scan = (landScan (s.reads.map Read.land) s).1.scan ∧
    (playedFrame e quiet s).index = (landScan (s.reads.map Read.land) s).1.index := by
  obtain ⟨_, _, hscan, hindex, _, _⟩ := audioFrame_blocks e (s.reads.map Read.land) (openingFrame e quiet s)
    (spareOf (changedFrame e quiet s).1) (rampedFrame e quiet s)
  obtain ⟨hscan', hindex', _⟩ := landScan_ramped e quiet s (s.reads.map Read.land)
  exact ⟨hscan.trans hscan', hindex.trans hindex'⟩

/-- R128, R156: the reads, the fetch list and the record of the service. -/
theorem playedFrame_closes : Closing s (openingFrame e quiet s) (s.frame + 1) (spareOf (changedFrame e quiet s).1)
    ((afterPlayers e (s.reads.map Read.land) (rampedFrame e quiet s)).fetch ++ (landScan (s.reads.map Read.land) s).2.toList)
    (echoStep e (rampedFrame e quiet s)).1.work (playedFrame e quiet s) := by
  have hfrom := rampedFrame_from e quiet s
  have h := audioFrame_closes e (s.reads.map Read.land) (openingFrame e quiet s) (spareOf (changedFrame e quiet s).1)
    (rampedFrame e quiet s) hfrom.same.2.2.2.2.1 hfrom.served hfrom.fresh
  rwa [hfrom.frame, (landScan_ramped e quiet s _).2.2] at h

/-! ## What the frame raises (R200) -/

/-- R49: the DIVERGENCE_RESETs of the frame. -/
def resetRaises (t : State) : List (Nat × Detail) :=
  ((List.finRange 24).filter fun l => divergesIn e (rampedFrame e quiet s) ((rampedFrame e quiet s).leg l)).map
    fun l => (l.val, .divergenceReset (t.leg l).ec.divergenceResets)

theorem done_ramped (p : Position) : ((rampedFrame e quiet s).pos p).done = (s.pos p).done :=
  (rampedFrame_from e quiet s).control PosRec.done (fun _ _ => rfl) p

/-- R103: what position p raises in a frame start that leaves t. -/
def endRaises (s t : State) (p : Position) : List (Nat × Detail) :=
  dones p (s.pos p).done.length ((t.pos p).done.length - (s.pos p).done.length)

theorem playedFrame_says {debts : List (Nat × Detail)} (hpart : s.part = .running)
    (hdebts : Voices debts (settleOpening (openingFrame e quiet s)) (changedFrame e quiet s).1) :
    Says (faultRaises s (landedFrame e quiet s) ++ stageRaises (landedFrame e quiet s) ++ debts ++
      resetRaises e quiet s (playedFrame e quiet s) ++
      (List.finRange 4).flatMap (fun m => sourceRaises (s.reads.map Read.land) m (s.src m)) ++
      scanRaises s (playedFrame e quiet s) ++ (List.finRange 16).flatMap (endRaises s (playedFrame e quiet s)))
      { s with frame := s.frame + 1 } (playedFrame e quiet s) := by
  have hbefore := rampedFrame_says e quiet s hdebts
  rw [if_pos hpart] at hbefore
  have hplayed := audioFrame_says e (s.reads.map Read.land) (openingFrame e quiet s) (spareOf (changedFrame e quiet s).1)
    (rampedFrame e quiet s)
  have hresets : (List.finRange 24).flatMap (fun l => echoRaises e (rampedFrame e quiet s) l ((rampedFrame e quiet s).leg l)) =
      resetRaises e quiet s (playedFrame e quiet s) := by
    simp only [echoRaises_eq, resetRaises, playedFrame_leg]
    exact flatMap_if (fun l => divergesIn e (rampedFrame e quiet s) ((rampedFrame e quiet s).leg l)) _ _
  have hscan : scanRaises (rampedFrame e quiet s) (landScan (s.reads.map Read.land) (rampedFrame e quiet s)).1 =
      scanRaises s (playedFrame e quiet s) :=
    scanRaises_congr (rampedFrame_from e quiet s).same.2.2.1
      ((landScan_ramped e quiet s _).1.trans (playedFrame_scan e quiet s).1.symm)
  simp only [hresets, hscan, src_ramped, done_ramped] at hplayed
  have h := hbefore.trans hplayed
  simp only [← List.append_assoc] at h
  exact h

/-! ## The positions and their players (R6, R60, R105) -/

theorem enabled_ramped (p : Position) : ((rampedFrame e quiet s).pos p).enabled = (s.pos p).enabled :=
  (rampedFrame_from e quiet s).control PosRec.enabled (fun _ _ => rfl) p

theorem enabled_opened (p : Position) : ((openedFrame e quiet s).pos p).enabled = (s.pos p).enabled :=
  (openedFrame_from e quiet s).control PosRec.enabled (fun _ _ => rfl) p

theorem headInbound_ramped (p : Position) : headInbound p (rampedFrame e quiet s) = headInbound p s := by
  simp only [headInbound, (rampedFrame_from e quiet s).same.1]

/-- R6, R60: an enabled position's record once its microphone has taken the frame. -/
def readyRec (p : Position) : PosRec :=
  { (openedFrame e quiet s).pos p with
    mic := (micFrame ((openedFrame e quiet s).pos p).mic (headInbound p s)).1
    available := !((openedFrame e quiet s).pos p).muted && !(quiet && s.quietMask.getLsbD p.val) }

theorem micced_enabled (p : Position) (h : (s.pos p).enabled = true) :
    micced (rampedFrame e quiet s) p ((rampedFrame e quiet s).pos p) = readyRec e quiet s p := by
  have henabled := (enabled_ramped e quiet s p).trans h
  have havailable : (((rampedFrame e quiet s).pos p).enabled && !((rampedFrame e quiet s).pos p).muted &&
      !((rampedFrame e quiet s).quietLevel && quietBit (rampedFrame e quiet s) p)) =
        (!((rampedFrame e quiet s).pos p).muted && !(quiet && s.quietMask.getLsbD p.val)) := by
    rw [henabled, Bool.true_and, (rampedFrame_from e quiet s).level, quietBit, (rampedFrame_from e quiet s).same.2.2.2.2.2.1]
  rw [micced, if_pos henabled, havailable, headInbound_ramped, (rampedFrame_keeps e quiet s).1, readyRec]

theorem micced_disabled (p : Position) (h : (s.pos p).enabled = false) :
    micced (rampedFrame e quiet s) p ((rampedFrame e quiet s).pos p) =
      { (openedFrame e quiet s).pos p with available := false } := by
  have henabled := (enabled_ramped e quiet s p).trans h
  rw [micced, if_neg (by rw [henabled]; nofun), (rampedFrame_keeps e quiet s).1]

theorem afterScan_pos (ls : List Landed) (p : Position) : (afterScan e ls (rampedFrame e quiet s)).pos p =
    micced (rampedFrame e quiet s) p ((rampedFrame e quiet s).pos p) := (afterScan_blocks e ls _).2.1 p

theorem playedFrame_pos (p : Position) : (playedFrame e quiet s).pos p =
    (playerFrame (seenBy (s.reads.map Read.land) (rampedFrame e quiet s) p) (s.reads.map Read.land) p
      (afterScan e (s.reads.map Read.land) (rampedFrame e quiet s))).1.pos p :=
  (audioFrame_blocks e (s.reads.map Read.land) (openingFrame e quiet s) (spareOf (changedFrame e quiet s).1)
    (rampedFrame e quiet s)).2.2.2.2.1 p

theorem seenAlike_endFrame (n d : Nat) (u : State) (p : Position) (x : PosRec) :
    SeenAlike p (u.setPos p x) ((endFrame n d u).setPos p x) :=
  (SeenAlike.refl p (u.setPos p x)).out ⟨rfl, rfl, rfl, rfl, rfl, rfl, rfl⟩ ⟨rfl, rfl, rfl, rfl, rfl, rfl, rfl⟩

theorem endFrame_pos (n d : Nat) (u : State) (p : Position) : (endFrame n d u).pos p = u.pos p := rfl

theorem playedFrame_disabled (p : Position) (h : (s.pos p).enabled = false) :
    (playedFrame e quiet s).pos p = { (openedFrame e quiet s).pos p with available := false } := by
  have hoff : ((afterScan e (s.reads.map Read.land) (rampedFrame e quiet s)).pos p).enabled = false := by
    rw [afterScan_pos, micced_disabled e quiet s p h]
    exact (enabled_opened e quiet s p).trans h
  rw [playedFrame_pos, playerFrame_disabled _ _ hoff, afterScan_pos, micced_disabled e quiet s p h]

variable {e quiet s} {t : State} {n d : Nat}

theorem played_ready (ht : t = endFrame n d (playedFrame e quiet s)) (p : Position) (h : (s.pos p).enabled = true) :
    SeenAlike p (afterScan e (s.reads.map Read.land) (rampedFrame e quiet s)) (t.setPos p (readyRec e quiet s p)) := by
  have hseen := audioFrame_ready e (s.reads.map Read.land) (openingFrame e quiet s) (spareOf (changedFrame e quiet s).1)
    (rampedFrame e quiet s) p
  rw [micced_enabled e quiet s p h] at hseen
  have hend : SeenAlike p ((playedFrame e quiet s).setPos p (readyRec e quiet s p)) (t.setPos p (readyRec e quiet s p)) := by
    rw [ht]
    exact seenAlike_endFrame n d _ p _
  exact hseen.trans hend

theorem played_position (ht : t = endFrame n d (playedFrame e quiet s)) (p : Position) (h : (s.pos p).enabled = true) :
    t.pos p = (playerFrame (seenBy (s.reads.map Read.land) (rampedFrame e quiet s) p) (s.reads.map Read.land) p
      (t.setPos p (readyRec e quiet s p))).1.pos p := by
  have hsame : t.pos p = (playedFrame e quiet s).pos p := by rw [ht, endFrame_pos]
  rw [hsame, playedFrame_pos, ((played_ready ht p h).player _ _).1]

theorem played_raises (ht : t = endFrame n d (playedFrame e quiet s)) (p : Position) (h : (s.pos p).enabled = true) :
    RaisesOn (fun u => (playerFrame (seenBy (s.reads.map Read.land) (rampedFrame e quiet s) p) (s.reads.map Read.land) p u).1)
      (t.setPos p (readyRec e quiet s p)) (endRaises s t p) := by
  have hv := playerFrame_voices (seenBy (s.reads.map Read.land) (rampedFrame e quiet s) p) (s.reads.map Read.land) p
    (SeenAlike.refl p (t.setPos p (readyRec e quiet s p)))
  have hdone : (readyRec e quiet s p).done = (s.pos p).done :=
    (openedFrame_from e quiet s).control PosRec.done (fun _ _ => rfl) p
  rw [playerRaises, ← played_position ht p h, State.pos_setPos_same, hdone] at hv
  exact hv.raisesOn

/-- R128: the fetch list as each source and then each player takes it, and what the closing part leaves of it. -/
theorem played_fetch (ht : t = endFrame n d (playedFrame e quiet s)) :
    ∃ list : Nat → List FetchItem, list 0 = (openingFrame e quiet s).fetch ∧
      (∀ m : Source, list (m.val + 1) = (sourceFrame (s.reads.map Read.land) m { s with fetch := list m.val }).1.fetch) ∧
      (∀ p : Position, list (p.val + 5) = (playerFrame (seenBy (s.reads.map Read.land) (rampedFrame e quiet s) p)
        (s.reads.map Read.land) p { t.setPos p (readyRec e quiet s p) with fetch := list (p.val + 4) }).1.fetch) ∧
      list 20 = (afterPlayers e (s.reads.map Read.land) (rampedFrame e quiet s)).fetch := by
  obtain ⟨list, hfirst, hsource, hplayer, hlast⟩ := fetchList_exists
    (fun m fs => (sourceFrame (s.reads.map Read.land) m { s with fetch := fs }).1.fetch)
    (fun p fs => (playerFrame (seenBy (s.reads.map Read.land) (rampedFrame e quiet s) p) (s.reads.map Read.land) p
      { t.setPos p (readyRec e quiet s p) with fetch := fs }).1.fetch) (openingFrame e quiet s).fetch
  refine ⟨list, hfirst, hsource, hplayer, hlast.trans ?_⟩
  have hmusic := (afterScan_blocks e (s.reads.map Read.land) (rampedFrame e quiet s)).2.2.2.2.2
  have hsame : ∀ (m : Source) (fs : List FetchItem),
      (sourceFrame (s.reads.map Read.land) m { rampedFrame e quiet s with fetch := fs }).1.fetch =
        (sourceFrame (s.reads.map Read.land) m { s with fetch := fs }).1.fetch := fun m fs => by
    have hsrc : ∀ w : State, ({ w with fetch := fs } : State).src m = w.src m := fun _ => rfl
    rw [sourceFrame_fetch, sourceFrame_fetch, hsrc, hsrc, src_ramped]
  simp only [hsame, (rampedFrame_from e quiet s).fetch] at hmusic
  have hplayers := playerStep_fetch (s.reads.map Read.land)
    (afterMusic e (s.reads.map Read.land) (rampedFrame e quiet s)).index
    (afterScan e (s.reads.map Read.land) (rampedFrame e quiet s)).index
    (s := afterScan e (s.reads.map Read.land) (rampedFrame e quiet s))
    (ready := fun p => t.setPos p (readyRec e quiet s p)) fun p => by
      have hready : ((t.setPos p (readyRec e quiet s p)).pos p).enabled = (s.pos p).enabled := by
        rw [State.pos_setPos_same]
        exact enabled_opened e quiet s p
      cases h : (s.pos p).enabled with
      | true => exact .inl (played_ready ht p h)
      | false =>
        refine .inr ⟨?_, hready.trans h⟩
        rw [afterScan_pos, micced_disabled e quiet s p h]
        exact (enabled_opened e quiet s p).trans h
  simp only [afterPlayers_index, hmusic] at hplayers
  unfold afterPlayers
  exact hplayers.symm

end

end Sys2Proof.Machine
end

section
/-! PROOF. The obligation of FRAME_START (R7, R179): the parts above put together. -/

namespace Sys2Proof.Machine

section
variable {e : FrameEnd} {quiet : Bool} {s : State}

/-! ## The two part states together -/

theorem exec_frameStart (hhold : s.hold = none) (hs : Serving s) (hdue : s.clock.due = some e) :
    exec (.frameStart quiet) s = .next (takeFrame e quiet s) := by
  have hruns := clockRuns_of_serving hhold hs
  show Host.Outcome.next _ = _
  rw [if_pos hruns, hdue]

theorem takeFrame_played (h : s.part = .running) :
    takeFrame e quiet s = endFrame s.link.notices.length (s.draws + 1) (playedFrame e quiet s) := takeFrame_running e quiet s h

/-- R7, R179: in both part states a frame start goes through a state that stands for s, and ends as the closing part leaves it. -/
theorem takeFrame_shared (e : FrameEnd) (quiet : Bool) (hs : Serving s) : ∃ (w u : State) (fetch : List FetchItem) (before : Work),
    takeFrame e quiet s = endFrame s.link.notices.length (s.draws + 1) u ∧
    FrameFrom quiet s (changedFrame e quiet s).1 (openingFrame e quiet s) w ∧ FrameOnly w u ∧
    Closing s (openingFrame e quiet s) (s.frame + 1) (spareOf (changedFrame e quiet s).1) fetch before (takeFrame e quiet s) ∧
    (takeFrame e quiet s).scan = (landScan (s.reads.map Read.land) s).1.scan ∧
    (takeFrame e quiet s).index = (landScan (s.reads.map Read.land) s).1.index := by
  rcases hs with hpart | hpart
  · obtain ⟨honly, hclose, hscan, hindex, _⟩ := standbyFrame_leaves e quiet hpart
    rw [takeFrame_standby e quiet s hpart]
    generalize standbyFrame (s.reads.map Read.land) (landedFrame e quiet s) = u at honly hclose hscan hindex ⊢
    exact ⟨_, u, _, _, rfl, openedFrame_from e quiet s, honly, hclose.of rfl rfl rfl, hscan, hindex⟩
  · have honly := playedFrame_only e quiet s
    have hclose := playedFrame_closes e quiet s
    obtain ⟨hscan, hindex⟩ := playedFrame_scan e quiet s
    rw [takeFrame_played hpart]
    generalize playedFrame e quiet s = u at honly hclose hscan hindex ⊢
    exact ⟨_, u, _, _, rfl, rampedFrame_from e quiet s, honly, hclose.of rfl rfl rfl, hscan, hindex⟩

/-- R200: what a frame start raises, whatever it finds. -/
theorem takeFrame_raises {debts : List (Nat × Detail)} (hs : Serving s)
    (hdebts : Voices debts (settleOpening (openingFrame e quiet s)) (changedFrame e quiet s).1) :
    LinkRaised
      (if s.part = .running then
        faultRaises s (takeFrame e quiet s) ++ stageRaises (landedFrame e quiet s) ++ debts ++
          resetRaises e quiet s (takeFrame e quiet s) ++
          (List.finRange 4).flatMap (fun m => sourceRaises (s.reads.map Read.land) m (s.src m)) ++
          scanRaises s (takeFrame e quiet s) ++ (List.finRange 16).flatMap (endRaises s (takeFrame e quiet s))
      else faultRaises s (takeFrame e quiet s) ++ debts ++ scanRaises s (takeFrame e quiet s))
      { s with frame := s.frame + 1 } (takeFrame e quiet s) := by
  have hland : (landedFrame e quiet s).fault = (takeFaults (s.reads.map Read.land) { s with frame := s.frame + 1 }).fault :=
    (landedState e quiet s).2.2.2.2.2.1
  rcases hs with hpart | hpart
  · have hnot : ¬ s.part = .running := by rw [hpart]; nofun
    obtain ⟨honly, _, hscan, _, hsays, _⟩ := standbyFrame_leaves e quiet hpart
    have hfault := (openedFrame_from e quiet s).fault
    have hopened := openedFrame_says e quiet s hdebts
    rw [if_neg hnot, List.append_nil] at hopened
    have h := hopened.trans hsays
    rw [if_neg hnot, takeFrame_standby e quiet s hpart]
    generalize standbyFrame (s.reads.map Read.land) (landedFrame e quiet s) = u at honly hscan h ⊢
    have hufault : u.fault = (landedFrame e quiet s).fault := ((congrArg State.fault honly :).trans hfault).trans hland.symm
    have hfaults : faultRaises s (endFrame s.link.notices.length (s.draws + 1) u) = faultRaises s (landedFrame e quiet s) :=
      faultRaises_congr hufault
    have hscanned : scanRaises s (endFrame s.link.notices.length (s.draws + 1) u) =
        scanRaises s (landScan (s.reads.map Read.land) s).1 := scanRaises_congr rfl hscan
    rw [hfaults, hscanned]
    exact (h.then (u := closeFrame u) rfl rfl).linkRaised rfl
  · have honly := playedFrame_only e quiet s
    have hfault := (rampedFrame_from e quiet s).fault
    have h := playedFrame_says e quiet s hpart hdebts
    rw [if_pos hpart, takeFrame_played hpart]
    generalize playedFrame e quiet s = u at honly h ⊢
    have hufault : u.fault = (landedFrame e quiet s).fault := ((congrArg State.fault honly :).trans hfault).trans hland.symm
    have hfaults : faultRaises s (endFrame s.link.notices.length (s.draws + 1) u) = faultRaises s (landedFrame e quiet s) :=
      faultRaises_congr hufault
    rw [hfaults]
    exact (h.then (u := closeFrame u) rfl rfl).linkRaised rfl

theorem endRaises_none {t : State} {p : Position} (h : (t.pos p).done = (s.pos p).done) : endRaises s t p = [] := by
  rw [endRaises, h, Nat.sub_self]
  rfl

theorem takeFrame_disabled (hs : Serving s) (p : Position) (h : (s.pos p).enabled = false) :
    endRaises s (takeFrame e quiet s) p = [] := by
  refine endRaises_none ?_
  rcases hs with hpart | hpart
  · have hpos := (standbyFrame_leaves e quiet hpart).2.2.2.2.2.2.1 p
    rw [takeFrame_standby e quiet s hpart, endFrame_pos, hpos]
  · rw [takeFrame_played hpart, endFrame_pos, playedFrame_disabled e quiet s p h]
    exact (openedFrame_from e quiet s).control PosRec.done (fun _ _ => rfl) p

/-- R210: the frame start of a STANDBY part. -/
theorem takeFrame_silent (h : s.part = .standby) :
    let t := takeFrame e quiet s
    (t.reads.map Read.item).drop (openingFrame e quiet s).served.length ++ t.fetch =
      (openingFrame e quiet s).fetch ++ (landScan (s.reads.map Read.land) s).2.toList ∧
    (∀ l, t.leg l = (openedFrame e quiet s).leg l) ∧ t.work.list = (openedFrame e quiet s).work.list ∧
    (∀ p, t.pos p = { s.pos p with available := false }) ∧ t.sources = s.sources ∧
    (∀ k : NetSlot, t.ports.netTx[k] = List.replicate 64 0) ∧ ∀ p : Position, t.ports.headTx[p] = List.replicate 64 0 := by
  intro t
  obtain ⟨_, hclose, _, _, _, hlegs, hpos, hsources, hnet, hhead⟩ := standbyFrame_leaves e quiet h
  have ht : t = endFrame s.link.notices.length (s.draws + 1) (standbyFrame (s.reads.map Read.land) (landedFrame e quiet s)) :=
    takeFrame_standby e quiet s h
  rw [ht]
  generalize standbyFrame (s.reads.map Read.land) (landedFrame e quiet s) = u at hclose hlegs hpos hsources hnet hhead ⊢
  refine ⟨hclose.list, fun l => ?_, (congrArg Work.list hclose.work :), hpos, hsources, hnet, hhead⟩
  show u.leg l = _
  rw [State.leg, hlegs, State.leg]

/-! ## RUNNING -/

section
variable {t : State} {n d : Nat}

/-- R40, R48, R49, R76: each leg with its ramp raised, its canceller's frame taken and its divergence tested. -/
theorem played_legs (ht : t = endFrame n d (playedFrame e quiet s)) :
    let leg := fun l : Leg => { (openedFrame e quiet s).leg l with
      ramp := if ((openedFrame e quiet s).leg l).state = .held ∧ (s.leg l).state = .held ∧ l ∉ (changedFrame e quiet s).2 then
          min 32768 (((openedFrame e quiet s).leg l).ramp + 2048)
        else ((openedFrame e quiet s).leg l).ramp }
    let echo := fun (l : Leg) (k : NetSlot) => echoFrame (leg l) (netInbound e k s)
    (∀ l, ((openedFrame e quiet s).leg l).state = .closed → t.leg l = leg l) ∧
    ∀ (l : Leg) (k : NetSlot), ((openedFrame e quiet s).leg l).state ≠ .closed →
      ((openedFrame e quiet s).leg l).slot = some k →
      (16 ≤ (echo l k).1.ec.divergence →
        t.leg l = resetLeg (echo l k).1 ((openedFrame e quiet s).leg l).ec.divergenceResets) ∧
      ((echo l k).1.ec.divergence < 16 → t.leg l = (echo l k).1) := by
  intro leg echo
  have hramped : ∀ l, (rampedFrame e quiet s).leg l = leg l := rampedFrame_leg e quiet s
  have htleg : ∀ l, t.leg l = echoed e (rampedFrame e quiet s) (leg l) := fun l => by
    have hend : ∀ u, (endFrame n d u).leg l = u.leg l := fun _ => rfl
    rw [ht, hend, playedFrame_leg, hramped]
  simp only [htleg]
  refine ⟨fun l hclosed => echoed_closed hclosed, fun l k hopen hslot => ?_⟩
  rw [echoed_open (r := leg l) hopen hslot, netInbound_ramped]
  exact ⟨fun hd => if_pos hd, fun hd => if_neg (Nat.not_le.2 hd)⟩

/-- What the blocks left of positions, sources, work, reads and fetch list stands when the frame start ends. -/
theorem endFrame_same (n d : Nat) (u : State) : (endFrame n d u).pos = u.pos ∧ (endFrame n d u).src = u.src ∧
    (endFrame n d u).work = u.work ∧ (endFrame n d u).reads = u.reads ∧ (endFrame n d u).fetch = u.fetch :=
  ⟨rfl, rfl, rfl, rfl, rfl⟩

theorem played_same (ht : t = endFrame n d (playedFrame e quiet s)) : t.pos = (playedFrame e quiet s).pos ∧
    t.src = (playedFrame e quiet s).src ∧ t.work = (playedFrame e quiet s).work ∧ t.reads = (playedFrame e quiet s).reads ∧
    t.fetch = (playedFrame e quiet s).fetch := by
  subst ht
  exact endFrame_same n d _

theorem played_blocks (ht : t = endFrame n d (playedFrame e quiet s)) :
    t.work.list = (echoStep e (rampedFrame e quiet s)).1.work.list ∧
    (∀ m, t.src m = (sourceFrame (s.reads.map Read.land) m s).1.src m) ∧
    (∀ p, (s.pos p).enabled = false → t.pos p = { (openedFrame e quiet s).pos p with available := false }) ∧
    (t.reads.map Read.item).drop (openingFrame e quiet s).served.length ++ t.fetch =
      (afterPlayers e (s.reads.map Read.land) (rampedFrame e quiet s)).fetch ++ (landScan (s.reads.map Read.land) s).2.toList := by
  obtain ⟨hpos, hsrc, hwork, hreads, hfetch⟩ := played_same ht
  rw [hpos, hsrc, hwork, hreads, hfetch]
  exact ⟨audioFrame_list e (s.reads.map Read.land) (openingFrame e quiet s) (spareOf (changedFrame e quiet s).1)
    (rampedFrame e quiet s), playedFrame_src e quiet s, playedFrame_disabled e quiet s, (playedFrame_closes e quiet s).list⟩

theorem earFrame_range (t : State) (x : MixIn) (p : Position) : (frameOf (earSample t x p)).length = 64 ∧
    ∀ y ∈ frameOf (earSample t x p), -32768 ≤ y ∧ y ≤ 32767 := by
  rw [frameOf_eq]
  refine ⟨by rw [List.length_map, List.length_range], fun y hy => ?_⟩
  obtain ⟨i, _, rfl⟩ := List.mem_map.1 hy
  unfold earSample
  split
  · exact saturate_range _
  · exact ⟨by decide, by decide⟩

/-- R8 to R12: what the mixer takes, and the frames it forms. -/
theorem played_mix (ht : t = endFrame n d (playedFrame e quiet s)) :
    let x := mixOf e (s.reads.map Read.land) (rampedFrame e quiet s)
    (∀ l, x.echo[l] = echoOut e (rampedFrame e quiet s) ((rampedFrame e quiet s).leg l)) ∧
    (∀ p : Position, x.mic[p] = if (s.pos p).enabled then
      (micFrame ((openedFrame e quiet s).pos p).mic (headInbound p s)).2 else List.replicate 64 0) ∧
    (∀ m : Source, x.music[m] = (sourceFrame (s.reads.map Read.land) m s).2) ∧
    (∀ p : Position, x.prompt[p] = if (s.pos p).enabled then
      (playerFrame (seenBy (s.reads.map Read.land) (rampedFrame e quiet s) p) (s.reads.map Read.land) p
        (t.setPos p (readyRec e quiet s p))).2 else none) ∧
    (∀ k : NetSlot, t.ports.netTx[k] = slotFrame t x k) ∧
    ∀ p : Position, t.ports.headTx[p] = frameOf (earSample t x p) := by
  intro x
  obtain ⟨hnet, hhead⟩ := audioFrame_formed e (s.reads.map Read.land) (openingFrame e quiet s)
    (spareOf (changedFrame e quiet s).1) (rampedFrame e quiet s)
  refine ⟨mixOf_echo e _ _, fun p => ?_, fun m => ?_, fun p => ?_, fun k => ?_, fun p => ?_⟩
  · rw [mixOf_mic, micOut, enabled_ramped, headInbound_ramped, (rampedFrame_keeps e quiet s).1]
    rfl
  · rw [mixOf_music, (sourceFrame_congr _ m (src_ramped e quiet s m)).2]
  · rw [mixOf_prompt]
    cases h : (s.pos p).enabled with
    | true => exact ((played_ready ht p h).player _ _).2
    | false =>
      have hoff : ((afterScan e (s.reads.map Read.land) (rampedFrame e quiet s)).pos p).enabled = false := by
        rw [afterScan_pos, micced_disabled e quiet s p h]
        exact (enabled_opened e quiet s p).trans h
      rw [playerFrame_disabled _ _ hoff]
      rfl
  all_goals
    have halike : MixAlike (playedFrame e quiet s) t := by
      rw [ht]
      generalize playedFrame e quiet s = u
      exact ⟨rfl, rfl, rfl, rfl, rfl, rfl, rfl⟩
    have hports : t.ports.netTx = (playedFrame e quiet s).ports.netTx ∧
        t.ports.headTx = (playedFrame e quiet s).ports.headTx := by
      rw [ht]
      generalize playedFrame e quiet s = u
      exact ⟨rfl, rfl⟩
  · rw [hports.1, ← slotFrame_congr halike]
    exact hnet k
  · rw [hports.2, ← earSample_congr halike]
    exact hhead p

end

end

/-! ## The obligation -/

/-- R49: the legs whose divergence count has reached 16, as the statement names them. -/
theorem diverges_eq (e : FrameEnd) (quiet : Bool) (s : State) {leg : Leg → LegRec}
    (hleg : ∀ l, (rampedFrame e quiet s).leg l = leg l) (l : Leg) :
    divergesIn e (rampedFrame e quiet s) ((rampedFrame e quiet s).leg l) = (decide ((leg l).state ≠ .closed) &&
      (leg l).slot.any (fun k => decide (16 ≤ (echoFrame (leg l) (netInbound e k s)).1.ec.divergence))) := by
  simp only [divergesIn, hleg, netInbound_ramped]

/-- Settles O60: the stages of a frame start in their order, what each leaves of its own block, and the notices between them. -/
theorem frameStartTakesTheFrame : Obligations.FrameStartTakesTheFrame := by
  intro s quiet e hhold hserving hdue ls v applied o d leg echo mic diverges
  obtain ⟨debts, hdebtsKind, hdebts⟩ := settleOpening_voices (openingFrame e quiet s) (changedFrame e quiet s).1
  have hleg : ∀ l, (rampedFrame e quiet s).leg l = leg l := rampedFrame_leg e quiet s
  have hdiverges : ∀ l, divergesIn e (rampedFrame e quiet s) ((rampedFrame e quiet s).leg l) = diverges l :=
    diverges_eq e quiet s (leg := leg) hleg
  have hramped : rampStep v applied.2 d = rampedFrame e quiet s := rfl
  have hlink := takeFrame_raises (e := e) (quiet := quiet) hserving hdebts
  have hresets : resetRaises e quiet s (takeFrame e quiet s) = ((List.finRange 24).filter diverges).map
      (fun l => (l.val, Detail.divergenceReset ((takeFrame e quiet s).leg l).ec.divergenceResets)) := by
    rw [resetRaises, funext hdiverges]
  rw [hresets] at hlink
  obtain ⟨w, u, fetch, before, ht, hfrom, honly, hclose, hscan, hindex⟩ := takeFrame_shared e quiet hserving
  obtain ⟨⟨hframe, hlevel, hclock, hnetRx, hheadRx, hfault, hgroups, hsup, hstage⟩, ⟨hcommit, hceiling, hratio⟩, hports,
    hkept⟩ := frame_keeps hfrom honly ht
  have hlast := hclose.last
  obtain ⟨htaken, hlist, hunits, hstops, hfresh, _⟩ := hclose
  refine ⟨takeFrame e quiet s, stageRaises v, debts, fun m => sourceRaises ls m (s.src m),
    endRaises s (takeFrame e quiet s), exec_frameStart hhold hserving hdue, hlink, (stageApplication_voices v).raisesOn,
    fun y hy => (stageRaises_kind v y hy).2, hdebts.raisesOn, fun y hy => (hdebtsKind y hy).2,
    fun m => ⟨(sourceFrame_voices ls m s).raisesOn, sourceRaises_kind⟩,
    fun p => ⟨takeFrame_disabled hserving p, dones_kind⟩, hframe, hlevel, hclock, hnetRx, hheadRx, hfault, hgroups, hsup,
    hstage, hscan, hindex, hcommit, hceiling, hratio, hlast, htaken, hunits, hstops, hfresh, takeFrame_silent,
    fun hpart => ?_, hports, frame_from_kept hkept⟩
  have hend := takeFrame_played (e := e) (quiet := quiet) hpart
  generalize takeFrame e quiet s = t at hend hindex ⊢
  obtain ⟨hclosed, hopen⟩ := played_legs hend
  obtain ⟨hecho, hmic, hmusic, hprompt, hnet, hhead⟩ := played_mix hend
  obtain ⟨list, hfirst, hsource, hplayer, hall⟩ := played_fetch hend
  obtain ⟨hwork, hsrc, hdisabled, hleft⟩ := played_blocks hend
  refine ⟨hclosed, hopen, by rw [hramped]; exact hwork, hsrc, hdisabled, seenBy ls (rampedFrame e quiet s), mixOf e ls (rampedFrame e quiet s),
    ⟨list, hfirst, hsource, hplayer, ?_⟩, fun p => ?_, fun p hp => ⟨played_position hend p hp, played_raises hend p hp⟩,
    fun l k hstate hslot => ?_, hmic, hmusic, hprompt, hnet, hhead, fun p => ?_⟩
  · rw [hall]
    exact hleft
  · have hcases := seenBy_cases ls (rampedFrame e quiet s) p
    rwa [(rampedFrame_from e quiet s).same.2.2.2.1, (landScan_ramped e quiet s ls).2.1, ← hindex] at hcases
  · rw [hecho, hleg, echoOut_open (r := leg l) hstate hslot, netInbound_ramped]
  · rw [hhead]
    exact earFrame_range t _ p

end Sys2Proof.Machine
end

section
/-! PROOF. The fault record: FAULT_READ, and what a frame start takes of the interval's failures (R129, R132, R144). -/

namespace Sys2Proof.Machine

/-! ## The entries a frame start leaves in the queue (R200) -/

theorem LinkRaised.entry {rs xs ys : List (Nat × Detail)} {s t : State} {k : Nat} {d : Detail} (h : LinkRaised rs s t)
    (hrs : rs = xs ++ (k, d) :: ys) (hys : ∀ x ∈ ys, x.2.kind ≠ d.kind) :
    ∃ n ∈ t.link.notices, n.subject = k ∧ n.stamp = s.frame ∧ n.detail = d := by
  simp only [h.mem_iff, hrs]
  exact raiseAll_entry k d hys

theorem LinkRaised.first {ys : List (Nat × Detail)} {s t : State} {k : Nat} {d : Detail} (h : LinkRaised ((k, d) :: ys) s t)
    (hys : ∀ x ∈ ys, x.2.kind ≠ d.kind) : ∃ n ∈ t.link.notices, n.subject = k ∧ n.stamp = s.frame ∧ n.detail = d :=
  h.entry (xs := []) rfl hys

section
variable {e : FrameEnd} {quiet : Bool} {s : State}

theorem scanRaises_kind {s t : State} : ∀ x ∈ scanRaises s t, x.2.kind = 0xC3 := by
  intro x hx
  unfold scanRaises at hx
  split at hx
  · obtain rfl := List.mem_singleton.1 hx
    rfl
  · cases hx

theorem resetRaises_kind {t : State} : ∀ x ∈ resetRaises e quiet s t, x.2.kind = 0xC9 := by
  intro x hx
  obtain ⟨l, _, rfl⟩ := List.mem_map.1 hx
  rfl

/-- R132, R200: a frame start that latches the fault record leaves its FAULT in the queue. -/
theorem takeFrame_fault (hs : Serving s) (hclear : s.fault.latched = false)
    (hlatched : (takeFrame e quiet s).fault.latched = true) : ∃ n ∈ (takeFrame e quiet s).link.notices, n.subject = 0 ∧
      n.stamp = s.frame + 1 ∧
      n.detail = .fault (takeFrame e quiet s).fault.area (takeFrame e quiet s).fault.requester := by
  obtain ⟨debts, hdebtsKind, hdebts⟩ := settleOpening_voices (openingFrame e quiet s) (changedFrame e quiet s).1
  have hlink := takeFrame_raises (e := e) (quiet := quiet) hs hdebts
  have hfault : faultRaises s (takeFrame e quiet s) =
      [(0, .fault (takeFrame e quiet s).fault.area (takeFrame e quiet s).fault.requester)] := if_pos ⟨hclear, hlatched⟩
  rw [hfault] at hlink
  have hscan : ∀ x ∈ scanRaises s (takeFrame e quiet s), x.2.kind ≠ 0xC2 := fun x hx => by
    rw [scanRaises_kind x hx]
    decide
  have hdebt : ∀ x ∈ debts, x.2.kind ≠ 0xC2 := fun x hx => by
    rw [(hdebtsKind x hx).2]
    decide
  by_cases hpart : s.part = .running
  · rw [if_pos hpart] at hlink
    simp only [List.append_assoc, List.cons_append, List.nil_append] at hlink
    refine hlink.first fun x hx => ?_
    simp only [List.mem_append] at hx
    rcases hx with hx | hx | hx | hx | hx | hx
    · rw [(stageRaises_kind _ x hx).2]
      exact fun h => absurd h (by simp [Detail.kind])
    · exact hdebt x hx
    · rw [resetRaises_kind x hx]
      exact fun h => absurd h (by simp [Detail.kind])
    · obtain ⟨m, _, hm⟩ := List.mem_flatMap.1 hx
      rcases (sourceRaises_kind x hm).2 with h | h <;> rw [h] <;> exact fun h => absurd h (by simp [Detail.kind])
    · exact hscan x hx
    · obtain ⟨p, _, hp⟩ := List.mem_flatMap.1 hx
      rw [(dones_kind x hp).2]
      exact fun h => absurd h (by simp [Detail.kind])
  · rw [if_neg hpart, List.append_assoc, List.singleton_append] at hlink
    refine hlink.first fun x hx => ?_
    rcases List.mem_append.1 hx with hx | hx
    · exact hdebt x hx
    · exact hscan x hx

/-- R137, R200: a frame start at which the scan ends leaves its REINDEX_DONE in the queue. -/
theorem takeFrame_reindexDone (hs : Serving s) (hrun : s.scan.running = true)
    (hdone : (takeFrame e quiet s).scan.running = false) : ∃ n ∈ (takeFrame e quiet s).link.notices, n.subject = 0 ∧
      n.stamp = s.frame + 1 ∧ n.detail = .reindexDone (takeFrame e quiet s).scan.counts := by
  obtain ⟨debts, _, hdebts⟩ := settleOpening_voices (openingFrame e quiet s) (changedFrame e quiet s).1
  have hlink := takeFrame_raises (e := e) (quiet := quiet) hs hdebts
  have hscan : scanRaises s (takeFrame e quiet s) = [(0, .reindexDone (takeFrame e quiet s).scan.counts)] :=
    if_pos ⟨hrun, hdone⟩
  rw [hscan] at hlink
  by_cases hpart : s.part = .running
  · rw [if_pos hpart, List.append_assoc] at hlink
    refine hlink.entry rfl fun x hx => ?_
    obtain ⟨p, _, hp⟩ := List.mem_flatMap.1 hx
    rw [(dones_kind x hp).2]
    exact fun h => absurd h (by simp [Detail.kind])
  · rw [if_neg hpart] at hlink
    exact hlink.entry rfl nofun

end

/-! ## The failures of an interval (R129, R132) -/

/-- R129: the item and byte offset of a read that has failed or is not complete. -/
def failureOf (x : Read) : Option (FetchItem × Nat) :=
  match x.failed with
  | some o => some (x.item, o)
  | none => if 2 * x.words.length < x.item.count then some (x.item, x.item.offset + 2 * x.words.length) else none

theorem land_failed {x : Read} {it : FetchItem} {o : Nat} (h : failureOf x = some (it, o)) :
    x.land.outcome = .error o ∧ x.land.item = it := by
  unfold failureOf at h
  cases hf : x.failed with
  | some o' =>
    simp only [hf, Option.some.injEq, Prod.mk.injEq] at h
    obtain ⟨rfl, rfl⟩ := h
    exact ⟨by simp [Read.land, hf], rfl⟩
  | none =>
    simp only [hf] at h
    split at h
    · next hshort =>
      simp only [Option.some.injEq, Prod.mk.injEq] at h
      obtain ⟨rfl, rfl⟩ := h
      exact ⟨by simp [Read.land, hf, Read.complete, Nat.not_le.2 hshort], rfl⟩
    · cases h

theorem land_whole {x : Read} (h : failureOf x = none) : x.land.outcome = .ok x.words := by
  unfold failureOf at h
  cases hf : x.failed with
  | some o => simp [hf] at h
  | none =>
    simp only [hf] at h
    split at h
    · cases h
    · next hshort => simp [Read.land, hf, Read.complete, Nat.not_lt.1 hshort]

/-- R132: in a record that has latched each failure counts as a later one, up to 255. -/
theorem takeFaults_later (reads : List Read) {s : State} (h : s.fault.latched = true) :
    (takeFaults (reads.map Read.land) s).fault = { s.fault with
      later := if reads.filterMap failureOf = [] then s.fault.later
        else min 255 (s.fault.later + (reads.filterMap failureOf).length) } := by
  induction reads generalizing s with
  | nil => rfl
  | cons x reads ih =>
    rw [List.map_cons, takeFaults_cons]
    cases hx : failureOf x with
    | none =>
      rw [land_whole hx, List.filterMap_cons_none hx]
      exact ih h
    | some f =>
      obtain ⟨it, o⟩ := f
      rw [(land_failed hx).1, List.filterMap_cons_some hx]
      dsimp only
      rw [takeFault_latched _ _ h]
      have hcount : (if reads.filterMap failureOf = [] then satInc 255 s.fault.later
          else min 255 (satInc 255 s.fault.later + (reads.filterMap failureOf).length)) =
            min 255 (s.fault.later + ((reads.filterMap failureOf).length + 1)) := by
        unfold satInc
        split
        · next hnone =>
          rw [hnone, List.length_nil]
          split <;> omega
        · split <;> omega
      refine (ih (s := { s with fault := { s.fault with later := satInc 255 s.fault.later } }) h).trans ?_
      rw [if_neg (List.cons_ne_nil _ _), List.length_cons]
      exact congrArg (fun n => { s.fault with later := n }) hcount

/-- R132: of the failures of an interval the first latches a clear record, and each other counts as a later one. -/
theorem takeFaults_first (reads : List Read) {s : State} (h : s.fault.latched = false) :
    (reads.filterMap failureOf = [] → (takeFaults (reads.map Read.land) s).fault = s.fault) ∧
    ∀ it o more, reads.filterMap failureOf = (it, o) :: more → (takeFaults (reads.map Read.land) s).fault =
      { latched := true, area := it.area, offset := o, requester := it.requester, stamp := s.frame
        later := min 255 more.length } := by
  induction reads with
  | nil => exact ⟨fun _ => rfl, nofun⟩
  | cons x reads ih =>
    rw [List.map_cons, takeFaults_cons]
    cases hx : failureOf x with
    | none =>
      rw [land_whole hx, List.filterMap_cons_none hx]
      exact ih
    | some f =>
      obtain ⟨it, o⟩ := f
      obtain ⟨houtcome, hitem⟩ := land_failed hx
      rw [houtcome, List.filterMap_cons_some hx, hitem]
      dsimp only
      refine ⟨fun hnone => absurd hnone (List.cons_ne_nil _ _), fun it' o' more heq => ?_⟩
      obtain ⟨hfirst, rfl⟩ := List.cons.inj heq
      obtain ⟨rfl, rfl⟩ := Prod.mk.inj hfirst
      rw [takeFault_clear _ _ h, takeFaults_later reads (s := raise 0 (.fault it.area it.requester) { s with
        fault := { latched := true, area := it.area, offset := o, requester := it.requester, stamp := s.frame, later := 0 } }) rfl]
      have hcount : (if reads.filterMap failureOf = [] then 0 else min 255 (0 + (reads.filterMap failureOf).length)) =
          min 255 (reads.filterMap failureOf).length := by
        split
        · next hnone => rw [hnone]; rfl
        · rw [Nat.zero_add]
      exact congrArg (fun n => ({ latched := true, area := it.area, offset := o, requester := it.requester, stamp := s.frame
                                  later := n } : FaultRec)) hcount

theorem faultReadEntry_report (r : Request) (s : State) : faultReadEntry r s = .ok {
    body := flag s.fault.latched ++ u8 0 ++ u8 s.fault.area.val ++ u32 s.fault.offset ++ s.fault.requester.codes ++
      u32 s.fault.stamp.toNat ++ u8 s.fault.later
    state := { s with fault := blankFault } } := rfl

/-! ## The obligation -/

/-- Settles O50: FAULT_READ as its entry answers it, and the record of a frame start by the failures of its interval. -/
theorem faultReadReportsAndClears : Obligations.FaultReadReportsAndClears := by
  constructor
  · intro s r rest hdue hserving hbody
    refine row_accepted (entry := faultReadEntry) (fun _ => rfl) hdue (by rw [hbody]; rfl) (.inl hserving) rfl fun x => ?_
    rw [faultReadEntry_report, State.setLink_fault]
    cases s.fault.requester <;> rfl
  · intro s quiet e hhold hserving hdue failures
    have hfailures : failures = s.reads.filterMap failureOf := by
      refine congrArg (fun f => s.reads.filterMap f) (funext fun x => ?_)
      unfold failureOf
      cases x.failed <;> rfl
    obtain ⟨w, u, fetch, before, ht, hfrom, honly, _⟩ := takeFrame_shared e quiet hserving
    have hfault := (frame_keeps hfrom honly ht).1.2.2.2.2.2.1
    refine ⟨takeFrame e quiet s, exec_frameStart hhold hserving hdue, fun h => ?_, fun it o more h => ⟨fun hclear => ?_, fun hlatched => ?_⟩⟩
    · rw [hfailures] at h
      rw [hfault]
      cases hlatch : s.fault.latched with
      | false => exact (takeFaults_first s.reads (s := { s with frame := s.frame + 1 }) hlatch).1 h
      | true =>
        rw [takeFaults_later s.reads (s := { s with frame := s.frame + 1 }) hlatch, if_pos h]
    · rw [hfailures] at h
      have hrec := hfault.trans ((takeFaults_first s.reads (s := { s with frame := s.frame + 1 }) hclear).2 it o more h)
      obtain ⟨n, hn, hsubject, hstamp, hdetail⟩ := takeFrame_fault (e := e) (quiet := quiet) hserving hclear (by rw [hrec])
      exact ⟨hrec, n, hn, hsubject, hstamp, by rw [hdetail, hrec]⟩
    · rw [hfailures] at h
      rw [hfault, takeFaults_later s.reads (s := { s with frame := s.frame + 1 }) hlatched, h, if_neg (List.cons_ne_nil _ _)]
      rfl

end Sys2Proof.Machine
end

section
/-! PROOF. The prompt memory's areas and the index scan: AREA_SET, REINDEX, and the scan at a frame start (R134 to R140). -/

namespace Sys2Proof.Machine

/-! ## A catalogue judged (R125, R135, R136) -/

theorem validLocation_eq_false {a : Area} {offset length : Nat} : validLocation a offset length = false ↔
    offset % 2 ≠ 0 ∨ length = 0 ∨ a.size * 65536 < offset + 2 * length := by
  simp only [validLocation, Bool.and_eq_false_iff, beq_eq_false_iff_ne, decide_eq_false_iff_not]
  omega

section
variable {a : Area} {id : Nat} {loc : Location} {index : Vector (List IndexEntry) 128} {c : ScanCounts}

theorem judgeEntry_skipped (h : id = 65535 ∨ validLocation a loc.offset loc.length = false) :
    judgeEntry a id loc (index, c) = (index, { c with range := c.range + 1 }) := if_pos h

theorem judgeEntry_judged (h : ¬ (id = 65535 ∨ validLocation a loc.offset loc.length = false)) :
    judgeEntry a id loc (index, c) =
      if (lookupClip index id).isSome then (index, { c with duplicate := c.duplicate + 1 })
      else if 4 ≤ index[bucketOf id].length then (index, { c with full := c.full + 1 })
      else (putEntry { id := id, loc := loc, origin := .catalogue } index, { c with indexed := c.indexed + 1 }) := if_neg h

end

theorem take_getD (words : List Word16) {i : Nat} (h : i < 8) : (words.take 8).getD i 0 = words.getD i 0 := by
  rw [List.getD_eq_getElem?_getD, List.getD_eq_getElem?_getD, List.getElem?_take_of_lt h]

theorem judgeChunk_cons (no : AreaNo) (a : Area) (k : Nat) (words : List Word16)
    (x : Vector (List IndexEntry) 128 × ScanCounts) : judgeChunk no a (k + 1) words x =
    if (words.getD 0 0).toNat = 0 then (x, true)
    else judgeChunk no a k (words.drop 8) (judgeEntry a (words.getD 0 0).toNat
      { area := no, offset := (words.getD 2 0).toNat + 65536 * (words.getD 3 0).toNat
        length := (words.getD 4 0).toNat + 65536 * (words.getD 5 0).toNat
        rate := if (words.getD 1 0).getLsbD 0 then .khz8 else .khz16 } x) := by
  simp only [judgeChunk, catalogueEntry, take_getD words (show 0 < 8 by decide), take_getD words (show 1 < 8 by decide),
    take_getD words (show 2 < 8 by decide), take_getD words (show 3 < 8 by decide), take_getD words (show 4 < 8 by decide),
    take_getD words (show 5 < 8 by decide)]

/-! ## AREA_SET (R139) -/

/-- R139: the settings of an area as AREA_SET takes them. -/
def areaOf (base size cost wait : Nat) (enable ready catalogue : Bool) : Area :=
  { enable := enable, base := base, size := size, cost := max 8 (min 255 cost), wait := max 1 (min 255 wait)
    ready := ready, catalogue := catalogue }

section
variable {r : Request} {s : State} {no : AreaNo} {base size cost wait : Nat} {enable ready catalogue : Bool}

/-- R139: the fields of an AREA_SET body, and the size check they pass. -/
structure AreaFields (r : Request) (no : AreaNo) (base size cost wait : Nat) (enable ready catalogue : Bool) : Prop where
  no : objectAt 4 r.body 0 = .ok no
  enable : onOff (byteAt r.body 1) = some enable
  ready : onOff (byteAt r.body 9) = some ready
  catalogue : onOff (byteAt r.body 10) = some catalogue
  base : byteAt r.body 2 = base
  size : wordAt r.body 3 = size
  cost : wordAt r.body 5 = cost
  wait : wordAt r.body 7 = wait

theorem areaFields_of_body (hsize : size < 65536) (hbase : base < 256) (hcost : cost < 65536) (hwait : wait < 65536)
    (hbody : r.body = u8 no.val ++ flag enable ++ u8 base ++ u16 size ++ u16 cost ++ u16 wait ++ flag ready ++ flag catalogue) :
    AreaFields r no base size cost wait enable ready catalogue := by
  simp only [List.append_assoc] at hbody
  refine ⟨objectAt_ok ?_, ?_, ?_, ?_, ?_, ?_, ?_, ?_⟩
  · rw [hbody]; exact byteAt_u8 (by omega)
  · rw [hbody]; cases enable <;> rfl
  · rw [hbody]; cases ready <;> rfl
  · rw [hbody]; cases catalogue <;> rfl
  · rw [hbody]; exact byteAt_u8 hbase
  · rw [hbody]; exact wordAt_u16_append_zero hsize (u16 cost ++ (u16 wait ++ (flag ready ++ flag catalogue)))
  · rw [hbody]; exact wordAt_u16_append_zero hcost (u16 wait ++ (flag ready ++ flag catalogue))
  · rw [hbody]; exact wordAt_u16_append_zero hwait (flag ready ++ flag catalogue)

theorem areaSetEntry_passed (hf : AreaFields r no base size cost wait enable ready catalogue) (hpart : s.part = .standby)
    (hsize : 1 ≤ size ∧ size ≤ 256 ∧ base + size ≤ 256) (hidle : s.scan.running = false) :
    areaSetEntry r s = .ok
      { state := { s with
          areas := s.areas.set no (areaOf base size cost wait enable ready catalogue)
          index := keepEntries (fun e => e.loc.area != no) s.index }
        body := areaBytes (areaOf base size cost wait enable ready catalogue) ++
          u16 (indexCount s.index - indexCount (keepEntries (fun e => e.loc.area != no) s.index)) ++
          u16 (indexCount (keepEntries (fun e => e.loc.area != no) s.index)) } := by
  simp only [areaSetEntry, bind, Except.bind, whenStandby, require_eq_ok hpart, hf.no, hf.enable, hf.ready, hf.catalogue, need_some,
    hf.base, hf.size, hf.cost, hf.wait, require_eq_ok hsize, require_eq_ok hidle]
  rfl

theorem areaSetEntry_busy (hf : AreaFields r no base size cost wait enable ready catalogue) (hpart : s.part = .standby)
    (hsize : 1 ≤ size ∧ size ≤ 256 ∧ base + size ≤ 256) (hrun : s.scan.running = true) : areaSetEntry r s = .error .busy := by
  have hbusy : ¬ s.scan.running = false := by rw [hrun]; nofun
  simp only [areaSetEntry, bind, Except.bind, whenStandby, require_eq_ok hpart, hf.no, hf.enable, hf.ready, hf.catalogue, need_some,
    hf.base, hf.size, require_eq_ok hsize, require_eq_error hbusy]

end

/-- R139: the entries that AREA_SET removes from the index. -/
theorem indexCount_removed (ix : Vector (List IndexEntry) 128) (no : AreaNo) :
    indexCount ix - indexCount (keepEntries (fun e => e.loc.area != no) ix) =
      (ix.toList.flatten.filter (fun e => e.loc.area == no)).length := by
  have hsplit := List.length_eq_length_filter_add (l := ix.toList.flatten) (fun e => e.loc.area == no)
  have hsame : (fun e : IndexEntry => e.loc.area != no) = fun e => !(e.loc.area == no) := rfl
  rw [indexCount_eq_length, indexCount_keepEntries, hsame]
  omega

theorem exec_areaSet {s : State} {r : Request} {rest : List Request} {no : AreaNo} {base size cost wait : Nat}
    {enable ready catalogue : Bool} (hdue : HeadDue 0x40#8 r rest s) (hpart : s.part = .standby)
    (hsize : 1 ≤ size) (hend : base + size ≤ 256) (hcost : cost < 65536) (hwait : wait < 65536)
    (hbody : r.body = u8 no.val ++ flag enable ++ u8 base ++ u16 size ++ u16 cost ++ u16 wait ++ flag ready ++ flag catalogue) :
    (s.scan.running = true → exec .areaSet s = .next (answered r rest .busy [] s)) ∧
    (s.scan.running = false → exec .areaSet s = .next (answered r rest .ok
      (areaBytes (areaOf base size cost wait enable ready catalogue) ++
        u16 (s.index.toList.flatten.filter (fun e => e.loc.area == no)).length ++
        u16 (s.index.toList.flatten.filter (fun e => e.loc.area != no)).length)
      { s with
        areas := s.areas.set no (areaOf base size cost wait enable ready catalogue)
        index := keepEntries (fun e => e.loc.area != no) s.index })) := by
  have hf : AreaFields r no base size cost wait enable ready catalogue :=
    areaFields_of_body (by omega) (by omega) hcost hwait hbody
  have hrange : 1 ≤ size ∧ size ≤ 256 ∧ base + size ≤ 256 := by omega
  refine ⟨fun hrun => ?_, fun hidle => ?_⟩
  · exact row_refused (entry := areaSetEntry) (fun _ => rfl) hdue (by rw [hbody]; rfl) (.inl (.inl hpart)) fun x =>
      areaSetEntry_busy (s := s.setLink x) hf hpart hrange hrun
  · rw [← indexCount_removed, ← indexCount_keepEntries]
    exact row_accepted (entry := areaSetEntry) (fun _ => rfl) hdue (by rw [hbody]; rfl) (.inl (.inl hpart)) rfl fun x =>
      areaSetEntry_passed (s := s.setLink x) hf hpart hrange hidle

/-! ## REINDEX (R140) -/

theorem bits_finRange_four (f : Fin 4 → Bool) :
    bits ((List.finRange 4).map f) = ((List.finRange 4).map (fun a => if f a = true then 2 ^ a.val else 0)).sum := by
  have hall : List.finRange 4 = [0, 1, 2, 3] := rfl
  rw [hall]
  simp only [List.map_cons, List.map_nil, bits_four, List.sum_cons, List.sum_nil, Nat.add_zero, ← Nat.add_assoc]
  rfl

theorem scanAreas_eq (s : State) : scanAreas s = ((List.finRange 4).map (fun a : AreaNo =>
    if (s.area a).enable = true ∧ (s.area a).catalogue = true then 2 ^ a.val else 0)).sum := by
  rw [scanAreas, bits_finRange_four]
  simp only [Bool.and_eq_true]

theorem startScan_setLink (s : State) (k : Link) : startScan (s.setLink k) = (startScan s).setLink k := by
  rw [startScan_eq, startScan_eq]
  rfl

theorem exec_reindex {s : State} {r : Request} {rest : List Request} (hdue : HeadDue 0x41#8 r rest s) (hs : Serving s)
    (hbody : r.body = []) :
    (s.scan.running = true → exec .reindex s = .next (answered r rest .busy [] s)) ∧
    (s.scan.running = false → exec .reindex s = .next (answered r rest .accepted
      (u16 (indexCount (startScan s).index) ++ u8 (scanAreas s)) (startScan s))) := by
  refine ⟨fun hrun => ?_, fun hidle => ?_⟩
  · refine row_refused (entry := reindexEntry) (fun _ => rfl) hdue (by rw [hbody]; rfl) (.inl hs) fun x => ?_
    have hbusy : ¬ (s.setLink x).scan.running = false := by rw [State.setLink_scan, hrun]; nofun
    simp only [reindexEntry, bind, Except.bind, require_eq_error hbusy]
  · have hlink : (startScan s).link = s.link := by rw [startScan_eq]
    have hquiet : Voices [] startScan s := .quiet (by rw [startScan_eq]) fun k => startScan_setLink s k
    have hareas : (startScan s).areas = s.areas := by rw [startScan_eq]
    have hscan : scanAreas (startScan s) = scanAreas s := by simp only [scanAreas, State.area, hareas]
    have h := row_voiced (c := .reindex) (entry := reindexEntry) (result := .accepted) (after := [])
      (body := u16 (indexCount (startScan s).index) ++ u8 (scanAreas s)) (fun _ => rfl) hdue (by rw [hbody]; rfl) (.inl hs)
      hquiet fun x => by
        have hfree : (s.setLink x).scan.running = false := hidle
        have hx : scanAreas ((startScan s).setLink x) = scanAreas s := hscan
        simp only [reindexEntry, bind, Except.bind, require_eq_ok hfree, startScan_setLink, hx]
        rfl
    rw [h, answered, hlink]
    rfl

/-! ## The landing step of the scan (R135, R137) -/

/-- R129: what lands for the scan. -/
theorem landingFor_scan (reads : List Read) : landingFor .scan (reads.map Read.land) =
    (reads.find? (fun x => x.item.requester == .scan && !x.dropped)).map (fun x => x.land.outcome) := by
  rw [landingFor, List.find?_map, Option.map_map]
  rfl

/-- R135: the state of a scan whose chunk is judged, before it moves on. -/
def judgedScan (index : Vector (List IndexEntry) 128) (counts : ScanCounts) (s : State) : State :=
  { s with index := index, scan := { s.scan with counts := counts, outstanding := false } }

section
variable {ls : List Landed} {s : State} (hrun : s.scan.running = true)
include hrun

theorem landScan_ends (hout : s.scan.outstanding = false) : landScan ls s = (endScan s, none) := by
  simp [landScan, hrun, hout]

variable (hout : s.scan.outstanding = true)
include hout

theorem landScan_waits (h : landingFor .scan ls = none) : landScan ls s = (s, none) := by simp [landScan, hrun, hout, h]

theorem landScan_fails {o : Nat} (h : landingFor .scan ls = some (.error o)) : landScan ls s =
    scanNextArea (judgedScan s.index { s.scan.counts with aborted := s.scan.counts.aborted + 1 } s) := by
  simp [landScan, hrun, hout, h, judgedScan]

theorem landScan_judges {words : List Word16} (h : landingFor .scan ls = some (.ok words))
    {index : Vector (List IndexEntry) 128} {counts : ScanCounts} {ended : Bool}
    (hjudge : judgeChunk s.scan.area (s.area s.scan.area) 16 words (s.index, s.scan.counts) = ((index, counts), ended)) :
    (ended = true ∨ 15 ≤ s.scan.chunk → landScan ls s = scanNextArea (judgedScan index counts s)) ∧
    (ended = false → s.scan.chunk < 15 → landScan ls s =
      ({ s with index := index
                scan := { s.scan with chunk := s.scan.chunk + 1, outstanding := true, counts := counts } },
        some (chunkItem s.scan.area (s.scan.chunk + 1)))) := by
  refine ⟨fun hlast => ?_, fun hmore hchunk => ?_⟩
  · simp [landScan, hrun, hout, h, hjudge, judgedScan, hlast]
  · have hgo : ¬ (ended = true ∨ 15 ≤ s.scan.chunk) := by
      rw [hmore]
      exact fun hlast => hlast.elim nofun fun hle => Nat.not_lt.2 hle hchunk
    simp [landScan, hrun, hout, h, hjudge, hgo]

end

/-- R128: an item that the landing step returns stands in the fetch list, or is served. -/
theorem takeFrame_placed {e : FrameEnd} {quiet : Bool} {s : State} (hs : Serving s) {it : FetchItem}
    (h : (landScan (s.reads.map Read.land) s).2 = some it) : isPlaced it (takeFrame e quiet s) := by
  have hlist : ∃ front n, ((takeFrame e quiet s).reads.map Read.item).drop n ++ (takeFrame e quiet s).fetch =
      front ++ [it] := by
    rcases hs with hpart | hpart
    · have hlist := (takeFrame_silent (e := e) (quiet := quiet) hpart).1
      rw [h] at hlist
      exact ⟨_, _, hlist⟩
    · have hlist := (played_blocks (takeFrame_played (e := e) (quiet := quiet) hpart)).2.2.2
      rw [h] at hlist
      exact ⟨_, _, hlist⟩
  obtain ⟨front, n, hlist⟩ := hlist
  have hmem : it ∈ ((takeFrame e quiet s).reads.map Read.item).drop n ++ (takeFrame e quiet s).fetch := by
    rw [hlist]
    exact List.mem_append_right _ List.mem_cons_self
  rcases List.mem_append.1 hmem with hread | hfetch
  · obtain ⟨x, hx, hitem⟩ := List.mem_map.1 (List.mem_of_mem_drop hread)
    exact .inr ⟨x, hx, hitem⟩
  · exact .inl hfetch

section
variable {e : FrameEnd} {quiet : Bool} {s : State} (hs : Serving s) (hrun : s.scan.running = true)
include hs hrun

/-- R137: a frame start whose landing step ends the scan. -/
theorem takeFrame_scanEnds {counts : ScanCounts} (hscan : (takeFrame e quiet s).scan =
      { s.scan with running := false, outstanding := false, counts := counts }) :
    ScanMoves s (takeFrame e quiet s) none counts := by
  obtain ⟨n, hn, hsubject, hstamp, hdetail⟩ := takeFrame_reindexDone (e := e) (quiet := quiet) hs hrun (by rw [hscan])
  obtain ⟨w, u, fetch, before, ht, hfrom, honly, _⟩ := takeFrame_shared e quiet hs
  have hframe := (frame_keeps hfrom honly ht).1.1
  exact ⟨hscan, n, hn, hsubject, by rw [hstamp, hframe], by rw [hdetail, hscan]⟩

/-- R135, R137: a frame start whose landing step finds the catalogue of an area ended. -/
theorem takeFrame_scanMoves {index : Vector (List IndexEntry) 128} {counts : ScanCounts}
    (hland : landScan (s.reads.map Read.land) s = scanNextArea (judgedScan index counts s)) :
    (takeFrame e quiet s).index = index ∧
      ScanMoves s (takeFrame e quiet s) (nextArea s.areas (s.scan.area.val + 1)) counts := by
  obtain ⟨_, _, _, _, _, _, _, _, hscan, hindex⟩ := takeFrame_shared e quiet hs
  have hplaced := fun it => takeFrame_placed (e := e) (quiet := quiet) hs (it := it)
  rw [hland] at hscan hindex
  simp only [hland] at hplaced
  have hnext : scanNextArea (judgedScan index counts s) = match nextArea s.areas (s.scan.area.val + 1) with
      | some a => ({ judgedScan index counts s with scan := { (judgedScan index counts s).scan with
          area := a, chunk := 0, outstanding := true } }, some (chunkItem a 0))
      | none => (endScan (judgedScan index counts s), none) := rfl
  cases hfound : nextArea s.areas (s.scan.area.val + 1) with
  | some a =>
    rw [hnext, hfound] at hscan hindex
    simp only [hnext, hfound] at hplaced
    have hmoved : (takeFrame e quiet s).scan =
        { running := true, area := a, chunk := 0, outstanding := true, counts := counts } := by
      rw [hscan, ← hrun]
      rfl
    exact ⟨hindex, hmoved, hplaced _ rfl⟩
  | none =>
    rw [hnext, hfound] at hscan hindex
    exact ⟨hindex, takeFrame_scanEnds hs hrun hscan⟩

end

/-! ## The obligation -/

/-- Settles O48: the two requests as their entries answer them, and the scan at a frame start by what has landed for it. -/
theorem areasAreSetAndScanned : Obligations.AreasAreSetAndScanned := by
  refine ⟨fun s r rest => ⟨?_, ?_⟩, ?_, ?_, ?_⟩
  · intro no base size cost wait enable ready catalogue hdue hpart hsize hend hcost hwait hbody
    exact exec_areaSet hdue hpart hsize hend hcost hwait hbody
  · intro hdue hs hbody
    obtain ⟨hbusy, htaken⟩ := exec_reindex hdue hs hbody
    refine ⟨hbusy, fun hidle => ⟨startScan s, ?_, ?_⟩⟩
    · rw [htaken hidle, scanAreas_eq, startScan_eq, ← indexCount_keepEntries]
    · rw [startScan_eq]
      cases hfound : nextArea s.areas 0 with
      | some a => exact ⟨rfl, rfl, rfl, rfl, fun b hb => ⟨Option.some.inj hb, by rw [Option.some.inj hb]; rfl⟩, nofun, rfl⟩
      | none => exact ⟨rfl, rfl, rfl, rfl, nofun, fun _ => rfl, rfl⟩
  · intro s quiet e hhold hs hdue hrun
    obtain ⟨_, _, _, _, _, _, _, _, hscan, hindex⟩ := takeFrame_shared e quiet hs
    have hfind := landingFor_scan s.reads
    refine ⟨takeFrame e quiet s, exec_frameStart hhold hs hdue, fun hout => ?_, fun hout hdropped => ?_,
      fun x hout hx => ⟨fun hfailed => ?_, fun hwhole hcomplete => ?_⟩⟩
    · rw [landScan_ends hrun hout] at hscan hindex
      exact ⟨hindex, takeFrame_scanEnds hs hrun hscan⟩
    · have hnone : s.reads.find? (fun x => x.item.requester == .scan && !x.dropped) = none := by
        rw [List.find?_eq_none]
        intro x hx hboth
        simp only [Bool.and_eq_true, beq_iff_eq, Bool.not_eq_true'] at hboth
        rw [hdropped x hx hboth.1] at hboth
        cases hboth.2
      rw [hnone] at hfind
      rw [landScan_waits hrun hout hfind] at hscan hindex
      exact ⟨hindex, hscan⟩
    · rw [hx] at hfind
      have hfailure : ∃ o, x.land.outcome = .error o := by
        cases hf : failureOf x with
        | some f => exact ⟨f.2, (land_failed hf).1⟩
        | none =>
          unfold failureOf at hf
          cases hfield : x.failed with
          | some o => simp [hfield] at hf
          | none =>
            rw [hfield] at hf hfailed
            exact absurd (hfailed.resolve_left fun h => h rfl) (by simpa using hf)
      obtain ⟨o, ho⟩ := hfailure
      exact takeFrame_scanMoves hs hrun (landScan_fails hrun hout (hfind.trans (congrArg some ho)))
    · rw [hx] at hfind
      have hland : landingFor .scan (s.reads.map Read.land) = some (.ok x.words) := by
        rw [hfind]
        refine congrArg some (land_whole ?_)
        simp [failureOf, hwhole, Nat.not_lt.2 hcomplete]
      obtain ⟨out, hjudge⟩ : ∃ out,
          judgeChunk s.scan.area (s.area s.scan.area) 16 x.words (s.index, s.scan.counts) = out := ⟨_, rfl⟩
      obtain ⟨⟨index, counts⟩, ended⟩ := out
      obtain ⟨hends, hgoes⟩ := landScan_judges hrun hout hland hjudge
      by_cases hlast : ended = true ∨ 15 ≤ s.scan.chunk
      · obtain ⟨hkept, hmoves⟩ := takeFrame_scanMoves (e := e) (quiet := quiet) hs hrun (hends hlast)
        refine ⟨counts, ended, by rw [hkept, hjudge], fun _ => hmoves, fun hmore hchunk => ?_⟩
        exact absurd (hlast.resolve_left (by rw [hmore]; nofun)) (Nat.not_le.2 hchunk)
      · obtain ⟨hnot, hchunk⟩ := not_or.1 hlast
        have hstep := hgoes (Bool.eq_false_iff.2 hnot) (Nat.not_le.1 hchunk)
        have hplaced := takeFrame_placed (e := e) (quiet := quiet) hs (congrArg Prod.snd hstep)
        rw [hstep] at hscan hindex
        exact ⟨counts, ended, by rw [hindex, hjudge], fun h => absurd h hlast, fun _ _ => ⟨hscan, hplaced⟩⟩
  · intro no a k words x w
    refine ⟨rfl, fun hzero => ?_, fun hsome => ?_⟩
    · rw [judgeChunk_cons]
      exact if_pos hzero
    · rw [judgeChunk_cons]
      exact if_neg hsome
  · intro a id loc index c skipped
    have hskipped : (id = 65535 ∨ validLocation a loc.offset loc.length = false) ↔ skipped :=
      or_congr Iff.rfl validLocation_eq_false
    refine ⟨fun h => judgeEntry_skipped (hskipped.2 h), fun h hfound => ?_, fun h hnone hfull => ?_, fun h hnone hroom => ?_⟩
    all_goals rw [judgeEntry_judged (mt hskipped.1 h)]
    · rw [if_pos hfound]
    · rw [hnone]
      exact if_pos hfull
    · rw [hnone]
      exact ⟨_, if_neg (Nat.not_le.2 hroom), lookupClip_putEntry_self _ _, fun k hk => lookupClip_putEntry_other _ _ hk⟩

end Sys2Proof.Machine
end
